-- ==== Sys2Proof/Word.lean ====
section
/-! DEFINITION. The word types of the VLS-6412 and the names of its slots and streams. -/

namespace Sys2Proof

/-- One byte of memory. -/
abbrev Byte := BitVec 8

/-- A slot word (R62). -/
abbrev SlotWord := BitVec 32

/-- A scalar register or a doubleword (R14). -/
abbrev Dword := BitVec 64

/-- A tick of the 48-bit visibility clock (R9). -/
abbrev Tick := BitVec 48

/-- The 64 lanes of 32 bits of a vector register (R14). -/
abbrev VData := BitVec 2048

/-- A bundle of eight slot words (R61). -/
abbrev Bundle := BitVec 256

/-- The slots of a bundle, in slot order (R12). -/
inductive Slot where
  | sc | ct | vx | vy | mx | ca | cb | pf
  deriving DecidableEq, Repr

/-- The number k of a slot (R12). -/
def Slot.num : Slot → Nat
  | .sc => 0 | .ct => 1 | .vx => 2 | .vy => 3 | .mx => 4 | .ca => 5 | .cb => 6 | .pf => 7

/-- The eight slots in ascending number. -/
def Slot.all : List Slot := [.sc, .ct, .vx, .vy, .mx, .ca, .cb, .pf]

/-- The slot in which a word of the shared vector map stands (R67). -/
inductive VSlot where
  | vx | vy
  deriving DecidableEq, Repr

def VSlot.slot : VSlot → Slot
  | .vx => .vx | .vy => .vy

/-- The slot in which a word of the copy map stands (R68). -/
inductive XSlot where
  | ca | cb
  deriving DecidableEq, Repr

def XSlot.slot : XSlot → Slot
  | .ca => .ca | .cb => .cb

/-- The two issue streams of a core (R23). -/
inductive Stream where
  | primary | secondary
  deriving DecidableEq, Repr

end Sys2Proof
end

