-- ==== Sys2Proof/Config.lean ====
section
/-! DEFINITION. What the spec leaves open: free values without a body, and the fixed figures of this part. -/

namespace Sys2Proof.Config

/-- The seal of a handle entry (R238): a keyed check over base, limit and flags with SPACE and KEYID of the
context; its key cannot be read, so nothing of its value is known (log 11). -/
opaque handleSeal : Dword → Dword → Dword → BitVec 36 → BitVec 6 → Dword

/-- Whether the other stream reads the new value of a pending fixed-latency result (R75: either, unpredictably).
The arguments are the counter of free values in State and the place of the result among those on their way (log 7). -/
opaque seesPending : Nat → Nat → Bool

/-- The cycles that a bank conflict adds to a load of the core scratchpad (R75: it takes longer), log 95. The arguments are the
counter of free values and the slot. -/
opaque bankDelay : Nat → Nat → Nat

/-- The cycles that a .fe or .take load of another core's share or of die scratchpad takes beyond table 2 (R75: it takes longer),
log 95. The arguments are the counter of free values and the slot. -/
opaque farDelay : Nat → Nat → Nat

/-- Which normal line of a full L2 set an allocation replaces, by the counter of free values and the new line (R276), log 97. -/
opaque l2Victim : Nat → Nat → Nat

/-- Whether the untracked writer's value of a sector is the one last written back when a tracked writer holds it too (R364):
by the counter of free values and the sector (log 12). -/
opaque laterSector : Nat → Nat → Bool

/-- A byte of an sread destination after a failed read: old value or data read (R188), log 13. -/
opaque sreadLands : Nat → Bool

/-- A byte that a .uc load of a page of kind device registers returns (R358): the spec gives no device (log 15). -/
opaque deviceByte : Nat → BitVec 8

/-- Whether a store-conditional that may succeed fails all the same, log 5. -/
opaque scFails : Nat → Bool

/-- What mtval holds after an illegal instruction or a breakpoint: the RISC-V standard leaves it open (log 5). -/
opaque openTval : Nat → Dword

/-- Whether firmware core `core` accepts a message of some kind from some sender: R399 and R400 name neither by number (log 113). -/
opaque mailAccepts : Nat → BitVec 16 → BitVec 16 → Bool

/-- The kind of a log record's message, and the sender number of a composer's monitor (R400, R401; log 113). -/
opaque logKind : BitVec 16
opaque monitorSender : Nat → BitVec 16

/-- The signature of a quote under Ed25519 (false) or ML-DSA-65 (true), over its request and what it names (R419; log 113). -/
opaque signature : Bool → BitVec 512 → Bool → Nat

/-- The phase bit of the first pass over a completion ring: R404 gives only that it is inverted at each wrap (log 21). -/
opaque firstPhase : Bool

end Sys2Proof.Config
end

