-- ==== Sys2Proof/Machine/Bits.lean ====
section
/-! DEFINITION. Bit fields, lanes and byte order: the helpers every meaning uses. -/

namespace Sys2Proof.Machine

/-- The `len` bits of a word from bit `lo` up, as a number. -/
def field {w : Nat} (x : BitVec w) (lo len : Nat) : Nat := x.toNat / 2 ^ lo % 2 ^ len

/-- A word with `len` bits from bit `lo` up replaced. -/
def setField {w : Nat} (x : BitVec w) (lo len v : Nat) : BitVec w :=
  BitVec.ofNat w (x.toNat - field x lo len * 2 ^ lo + v % 2 ^ len * 2 ^ lo)

/-- Bit `n` of a word. -/
def bit {w : Nat} (x : BitVec w) (n : Nat) : Bool := x.getLsbD n

/-- A word with bit `n` set to a value. -/
def setBit {w : Nat} (x : BitVec w) (n : Nat) (v : Bool) : BitVec w := setField x n 1 v.toNat

/-- Lane `n` of a vector register (R14). -/
def lane (d : VData) (n : Nat) : BitVec 32 := d.extractLsb' (32 * n) 32

/-- The 64 lanes of a function. -/
def ofLanes (f : Nat → BitVec 32) : VData :=
  BitVec.ofNat 2048 ((List.range 64).foldr (fun n acc => (f n).toNat + 4294967296 * acc) 0)

/-- Lanes of `new` where the mask selects, of `old` elsewhere (R132). -/
def mergeLanes (mask : BitVec 64) (new old : VData) : VData :=
  ofLanes (fun n => if bit mask n then lane new n else lane old n)

/-- A 64-bit mask from a function of the lane. -/
def ofMask (f : Nat → Bool) : BitVec 64 :=
  BitVec.ofNat 64 ((List.range 64).foldr (fun n acc => (f n).toNat + 2 * acc) 0)

/-- The number a list of bytes holds, the first byte lowest (R7). -/
def ofBytes (l : List (BitVec 8)) : Nat := l.foldr (fun b acc => b.toNat + 256 * acc) 0

/-- The low `n` bytes of a number, lowest first (R7). -/
def toBytes : Nat → Nat → List (BitVec 8)
  | 0, _ => []
  | n + 1, v => BitVec.ofNat 8 v :: toBytes n (v / 256)

/-- The signed value of the low `len` bits of a number. -/
def signedOf (len v : Nat) : Int :=
  if v % 2 ^ len < 2 ^ (len - 1) then ((v % 2 ^ len : Nat) : Int) else ((v % 2 ^ len : Nat) : Int) - (2 ^ len : Nat)

/-- The `len`-bit two's complement of an integer, as a number. -/
def unsignedOf (len : Nat) (v : Int) : Nat := (v % (2 ^ len : Nat)).toNat

/-- Sign- or zero-extension of the low `len` bits of a number to 64 bits. -/
def extendTo64 (signed : Bool) (len v : Nat) : Dword :=
  if signed then (BitVec.ofNat len v).signExtend 64 else BitVec.ofNat 64 (v % 2 ^ len)

/-- Two closed byte ranges intersect. -/
def meets (lo hi lo' hi' : Nat) : Bool := lo ≤ hi' && lo' ≤ hi

/-- The least and greatest of a list of numbers; (0, 0) of an empty one. -/
def span : List Nat → Nat × Nat
  | [] => (0, 0)
  | x :: r => r.foldl (fun p y => (min p.1 y, max p.2 y)) (x, x)

end Sys2Proof.Machine
end

