-- ==== Sys2Proof/Machine/Sparse.lean ====
section
/-! DEFINITION. Sparse tables by number, and memory as a canonical list of cells. -/

namespace Sys2Proof.Machine

/-- A table by number: keys strictly rising. -/
abbrev Sparse (α : Type) := List (Nat × α)

/-- The entry of a key, if the table lists one. -/
def Sparse.find {α : Type} : Sparse α → Nat → Option α
  | [], _ => none
  | (j, v) :: r, k => if j = k then some v else Sparse.find r k

/-- The value of a key; a key that is not listed has the value `d`. -/
def Sparse.get {α : Type} (d : α) (m : Sparse α) (k : Nat) : α := (Sparse.find m k).getD d

/-- List a key, keeping the keys in order. -/
def Sparse.put {α : Type} : Sparse α → Nat → α → Sparse α
  | [], k, v => [(k, v)]
  | (j, w) :: r, k, v =>
    if k < j then (k, v) :: (j, w) :: r
    else if k = j then (k, v) :: r
    else (j, w) :: Sparse.put r k v

/-- Remove a key. -/
def Sparse.erase {α : Type} (m : Sparse α) (k : Nat) : Sparse α := m.filter (fun e => e.1 ≠ k)

/-- Write a key so that no entry equals the value of an unlisted key. -/
def Sparse.set {α : Type} [DecidableEq α] (d : α) (m : Sparse α) (k : Nat) (v : α) : Sparse α :=
  if v = d then Sparse.erase m k else Sparse.put m k v

/-- Keys strictly rising. -/
def Sparse.rising {α : Type} : Sparse α → Bool
  | [] => true
  | [_] => true
  | (j, _) :: (k, w) :: r => decide (j < k) && Sparse.rising ((k, w) :: r)

/-- The canonical form: keys strictly rising, no entry equal to the value of an unlisted key. -/
def Sparse.wf {α : Type} [DecidableEq α] (d : α) (m : Sparse α) : Bool :=
  Sparse.rising m && m.all (fun e => decide (e.2 ≠ d))

/-- The table of the `n` values of a function, listing those that are not `d`. -/
def Sparse.ofFn {α : Type} [DecidableEq α] (d : α) (n : Nat) (f : Nat → α) : Sparse α :=
  (List.range n).filterMap (fun k => if f k = d then none else some (k, f k))

/-- Memory: bytes by address. An address that is not listed reads as zero, because a reset writes every memory
with zero (R421). -/
abbrev Mem := List Host.Cell

/-- One byte of memory. -/
def Mem.read (m : Mem) (a : Nat) : BitVec 8 := Sparse.get 0 m a

/-- Write one byte, keeping the canonical form. -/
def Mem.write (m : Mem) (a : Nat) (b : BitVec 8) : Mem := Sparse.set 0 m a b

/-- The canonical form of a memory. -/
def Mem.wf (m : Mem) : Bool := Sparse.wf (0 : BitVec 8) m

/-- The `n` bytes from `a` up as a number, the byte at the lowest address lowest (R7). -/
def Mem.load (m : Mem) (a : Nat) : Nat → Nat
  | 0 => 0
  | n + 1 => (Mem.read m a).toNat + 256 * Mem.load m (a + 1) n

/-- Store the low `n` bytes of a number from `a` up (R7). -/
def Mem.store (m : Mem) (a : Nat) : Nat → Nat → Mem
  | 0, _ => m
  | n + 1, v => Mem.store (Mem.write m a (BitVec.ofNat 8 v)) (a + 1) n (v / 256)

/-- Write a list of cells in order; the later cell prevails. -/
def Mem.writeAll (m : Mem) (l : List (Nat × BitVec 8)) : Mem := l.foldl (fun m e => Mem.write m e.1 e.2) m

/-- The bytes from `a` up. -/
def Mem.bytes (m : Mem) (a n : Nat) : List (BitVec 8) := (List.range n).map (fun i => Mem.read m (a + i))

end Sys2Proof.Machine
end

