-- ==== Sys2Proof/Syntax.lean ====
section
/-! DEFINITION. The instructions and events of spec/opcode_table.json: one constructor of `Instr` for each row, with the row's fields. -/

namespace Sys2Proof

/-- How a write meets the caches (R346): owned, write-through, or at the home agent. -/
inductive WriteKind where
  | owned | through | home
  deriving DecidableEq, Repr

/-- The lifecycle states of a module, in the order of R420. -/
inductive Lifecycle where
  | manufacturing | provisioned | deployed | returned | scrapped
  deriving DecidableEq, Repr

/-- Conditions of the RISC-V branches (R202). -/
inductive RvCond where
  | eq | ne | lt | ge | ltu | geu
  deriving DecidableEq, Repr

/-- Two-operand RISC-V operations of RV64IM with Zba, Zbb and Zbs (R202). -/
inductive RvAlu where
  | add | sub | sll | slt | sltu | xor | srl | sra | or | and
  | mul | mulh | mulhsu | mulhu | div | divu | rem | remu
  | sh1add | sh2add | sh3add | adduw | sh1adduw | sh2adduw | sh3adduw
  | andn | orn | xnor | min | minu | max | maxu | rol | ror
  | bclr | bext | binv | bset
  deriving DecidableEq, Repr

/-- The operations of the 32-bit (W) forms. -/
inductive RvAluW where
  | addw | subw | sllw | srlw | sraw | mulw | divw | divuw | remw | remuw | rolw | rorw
  deriving DecidableEq, Repr

/-- One-operand operations of Zbb (R202). -/
inductive RvUnary where
  | clz | ctz | cpop | sextb | sexth | zexth | orcb | rev8 | clzw | ctzw | cpopw
  deriving DecidableEq, Repr

/-- Atomic memory operations of RV64A. -/
inductive RvAmo where
  | swap | add | xor | and | or | min | max | minu | maxu
  deriving DecidableEq, Repr

/-- The RISC-V instructions of a generator slot (R202, R203); `illegal` is a word that names none. -/
inductive Rv where
  | lui (rd : BitVec 5) (imm : BitVec 64)
  | auipc (rd : BitVec 5) (imm : BitVec 64)
  | jal (rd : BitVec 5) (imm : BitVec 64)
  | jalr (rd rs1 : BitVec 5) (imm : BitVec 64)
  | branch (c : RvCond) (rs1 rs2 : BitVec 5) (imm : BitVec 64)
  | load (size : BitVec 2) (signed : Bool) (rd rs1 : BitVec 5) (imm : BitVec 64)
  | store (size : BitVec 2) (rs1 rs2 : BitVec 5) (imm : BitVec 64)
  | opImm (op : RvAlu) (rd rs1 : BitVec 5) (imm : BitVec 64)
  | op (op : RvAlu) (rd rs1 rs2 : BitVec 5)
  | opImmW (op : RvAluW) (rd rs1 : BitVec 5) (imm : BitVec 64)
  | opW (op : RvAluW) (rd rs1 rs2 : BitVec 5)
  | sllIUw (rd rs1 : BitVec 5) (imm : BitVec 64)
  | unary (op : RvUnary) (rd rs1 : BitVec 5)
  | lr (dbl rl : Bool) (rd rs1 : BitVec 5)
  | sc (dbl rl : Bool) (rd rs1 rs2 : BitVec 5)
  | amo (op : RvAmo) (dbl rl : Bool) (rd rs1 rs2 : BitVec 5)
  | fence (pred succ : BitVec 4)
  | fenceI
  | csr (op : BitVec 2) (useImm : Bool) (rd src : BitVec 5) (addr : BitVec 12)
  | ecall
  | ebreak
  | mret
  | wfi
  | illegal (w : BitVec 32)
  deriving DecidableEq, Repr

/-- One constructor for each row of the opcode table. Slot words carry the table's fields; words of the shared vector
and copy maps carry their slot first. Rows without an encoding are the events of the part: their operands (the agent
concerned, and whatever the outside world or the firmware chooses) stand in the field `arg` of State. Rows with fields
come first, because Lean can run only 244 constructors with arguments of one type. -/
inductive Instr where
  /-- SC_ADD: Writes g[a] + g[b] into g[d]. (R90) -/
  | scAdd (g : BitVec 4) (d a b : BitVec 6)
  /-- SC_SUB: Writes g[a] − g[b] into g[d]. (R90) -/
  | scSub (g : BitVec 4) (d a b : BitVec 6)
  /-- SC_AND: Writes the bitwise AND of g[a] and g[b] into g[d]. (R90) -/
  | scAnd (g : BitVec 4) (d a b : BitVec 6)
  /-- SC_OR: Writes the bitwise OR of g[a] and g[b] into g[d]. (R90) -/
  | scOr (g : BitVec 4) (d a b : BitVec 6)
  /-- SC_XOR: Writes the bitwise XOR of g[a] and g[b] into g[d]. (R90) -/
  | scXor (g : BitVec 4) (d a b : BitVec 6)
  /-- SC_ANDN: Writes g[a] AND NOT g[b] into g[d]. (R90) -/
  | scAndn (g : BitVec 4) (d a b : BitVec 6)
  /-- SC_SHL: Shifts g[a] left by g[b][5:0] into g[d]. (R90) -/
  | scShl (g : BitVec 4) (d a b : BitVec 6)
  /-- SC_SHR: Shifts g[a] right by g[b][5:0] with zero fill into g[d]. (R90) -/
  | scShr (g : BitVec 4) (d a b : BitVec 6)
  /-- SC_SRA: Shifts g[a] right arithmetically by g[b][5:0] into g[d]. (R90) -/
  | scSra (g : BitVec 4) (d a b : BitVec 6)
  /-- SC_MIN: Writes the signed lesser of g[a] and g[b] into g[d]. (R90) -/
  | scMin (g : BitVec 4) (d a b : BitVec 6)
  /-- SC_MAX: Writes the signed greater of g[a] and g[b] into g[d]. (R90) -/
  | scMax (g : BitVec 4) (d a b : BitVec 6)
  /-- SC_MINU: Writes the unsigned lesser of g[a] and g[b] into g[d]. (R90) -/
  | scMinu (g : BitVec 4) (d a b : BitVec 6)
  /-- SC_MAXU: Writes the unsigned greater of g[a] and g[b] into g[d]. (R90) -/
  | scMaxu (g : BitVec 4) (d a b : BitVec 6)
  /-- SC_BFX: Extracts a bit field of g[a] selected by the control word in g[b] into g[d]. (R91) -/
  | scBfx (g : BitVec 4) (d a b : BitVec 6)
  /-- SC_BFI: Inserts the low bits of g[a] into the field of g[d] selected by g[b]. (R91) -/
  | scBfi (g : BitVec 4) (d a b : BitVec 6)
  /-- SC_CLZ: Counts the leading zero bits of g[a] into g[d]. (R92) -/
  | scClz (g : BitVec 4) (d a : BitVec 6)
  /-- SC_CTZ: Counts the trailing zero bits of g[a] into g[d]. (R92) -/
  | scCtz (g : BitVec 4) (d a : BitVec 6)
  /-- SC_POPC: Counts the set bits of g[a] into g[d]. (R92) -/
  | scPopc (g : BitVec 4) (d a : BitVec 6)
  /-- SC_SEXT_B: Sign-extends g[a][7:0] into g[d]. (R92) -/
  | scSextB (g : BitVec 4) (d a : BitVec 6)
  /-- SC_SEXT_H: Sign-extends g[a][15:0] into g[d]. (R92) -/
  | scSextH (g : BitVec 4) (d a : BitVec 6)
  /-- SC_SEXT_W: Sign-extends g[a][31:0] into g[d]. (R92) -/
  | scSextW (g : BitVec 4) (d a : BitVec 6)
  /-- SC_ZEXT_B: Zero-extends g[a][7:0] into g[d]. (R92) -/
  | scZextB (g : BitVec 4) (d a : BitVec 6)
  /-- SC_ZEXT_H: Zero-extends g[a][15:0] into g[d]. (R92) -/
  | scZextH (g : BitVec 4) (d a : BitVec 6)
  /-- SC_ZEXT_W: Zero-extends g[a][31:0] into g[d]. (R92) -/
  | scZextW (g : BitVec 4) (d a : BitVec 6)
  /-- SC_MUL: Writes the low 64 bits of g[a]·g[b] into g[d]. (R93) -/
  | scMul (g : BitVec 4) (d a b : BitVec 6)
  /-- SC_MULH: Writes the high 64 bits of the signed product into g[d]. (R93) -/
  | scMulh (g : BitVec 4) (d a b : BitVec 6)
  /-- SC_MULHU: Writes the high 64 bits of the unsigned product into g[d]. (R93) -/
  | scMulhu (g : BitVec 4) (d a b : BitVec 6)
  /-- SC_DIV: Writes the signed quotient of g[a] by g[b] into g[d], never trapping. (R93) -/
  | scDiv (g : BitVec 4) (d a b : BitVec 6)
  /-- SC_DIVU: Writes the unsigned quotient of g[a] by g[b] into g[d]. (R93) -/
  | scDivu (g : BitVec 4) (d a b : BitVec 6)
  /-- SC_REM: Writes the signed remainder of g[a] by g[b] into g[d]. (R93) -/
  | scRem (g : BitVec 4) (d a b : BitVec 6)
  /-- SC_REMU: Writes the unsigned remainder of g[a] by g[b] into g[d]. (R93) -/
  | scRemu (g : BitVec 4) (d a b : BitVec 6)
  /-- SC_SEL: Writes g[a] into g[d] if pN is true, else g[b]. (R96) -/
  | scSel (g : BitVec 4) (d a b : BitVec 6) (p : BitVec 4)
  /-- SC_CMP_EQ: Writes g[a] = g[b] into pT and its negation into pF. (R97) -/
  | scCmpEq (g t f : BitVec 4) (a b : BitVec 6)
  /-- SC_CMP_NE: Writes g[a] ≠ g[b] into pT and its negation into pF. (R97) -/
  | scCmpNe (g t f : BitVec 4) (a b : BitVec 6)
  /-- SC_CMP_LT: Writes the signed g[a] < g[b] into pT and its negation into pF. (R97) -/
  | scCmpLt (g t f : BitVec 4) (a b : BitVec 6)
  /-- SC_CMP_LTU: Writes the unsigned g[a] < g[b] into pT and its negation into pF. (R97) -/
  | scCmpLtu (g t f : BitVec 4) (a b : BitVec 6)
  /-- SC_CMP_GE: Writes the signed g[a] ≥ g[b] into pT and its negation into pF. (R97) -/
  | scCmpGe (g t f : BitVec 4) (a b : BitVec 6)
  /-- SC_CMP_GEU: Writes the unsigned g[a] ≥ g[b] into pT and its negation into pF. (R97) -/
  | scCmpGeu (g t f : BitVec 4) (a b : BitVec 6)
  /-- SC_CMPI_EQ: Compares g[a] with the immediate for equality into pT and pF. (R97) -/
  | scCmpiEq (g t f : BitVec 4) (a : BitVec 6) (i : BitVec 8)
  /-- SC_CMPI_NE: Compares g[a] with the immediate for inequality into pT and pF. (R97) -/
  | scCmpiNe (g t f : BitVec 4) (a : BitVec 6) (i : BitVec 8)
  /-- SC_CMPI_LT: Signed less-than compare of g[a] with the immediate into pT and pF. (R97) -/
  | scCmpiLt (g t f : BitVec 4) (a : BitVec 6) (i : BitVec 8)
  /-- SC_CMPI_LTU: Unsigned less-than compare of g[a] with the immediate into pT and pF. (R97) -/
  | scCmpiLtu (g t f : BitVec 4) (a : BitVec 6) (i : BitVec 8)
  /-- SC_CMPI_GE: Signed greater-or-equal compare of g[a] with the immediate into pT and pF. (R97) -/
  | scCmpiGe (g t f : BitVec 4) (a : BitVec 6) (i : BitVec 8)
  /-- SC_CMPI_GEU: Unsigned greater-or-equal compare of g[a] with the immediate into pT and pF. (R97) -/
  | scCmpiGeu (g t f : BitVec 4) (a : BitVec 6) (i : BitVec 8)
  /-- SC_ADDI: Writes g[a] plus the sign-extended immediate into g[d]. (R94) -/
  | scAddi (g : BitVec 4) (d a : BitVec 6) (i : BitVec 10)
  /-- SC_ANDI: Writes g[a] AND the sign-extended immediate into g[d]. (R94) -/
  | scAndi (g : BitVec 4) (d a : BitVec 6) (i : BitVec 10)
  /-- SC_ORI: Writes g[a] OR the sign-extended immediate into g[d]. (R94) -/
  | scOri (g : BitVec 4) (d a : BitVec 6) (i : BitVec 10)
  /-- SC_XORI: Writes g[a] XOR the sign-extended immediate into g[d]. (R94) -/
  | scXori (g : BitVec 4) (d a : BitVec 6) (i : BitVec 10)
  /-- SC_SHLI: Shifts g[a] left by the immediate 0–63 into g[d]. (R94) -/
  | scShli (g : BitVec 4) (d a i : BitVec 6)
  /-- SC_SHRI: Shifts g[a] right with zero fill by the immediate into g[d]. (R94) -/
  | scShri (g : BitVec 4) (d a i : BitVec 6)
  /-- SC_SRAI: Shifts g[a] right arithmetically by the immediate into g[d]. (R94) -/
  | scSrai (g : BitVec 4) (d a i : BitVec 6)
  /-- SC_MINI: Writes the signed lesser of g[a] and the immediate into g[d]. (R94) -/
  | scMini (g : BitVec 4) (d a : BitVec 6) (i : BitVec 10)
  /-- SC_MAXI: Writes the signed greater of g[a] and the immediate into g[d]. (R94) -/
  | scMaxi (g : BitVec 4) (d a : BitVec 6) (i : BitVec 10)
  /-- SC_MINUI: Writes the unsigned lesser of g[a] and the sign-extended immediate into g[d]. (R94) -/
  | scMinui (g : BitVec 4) (d a : BitVec 6) (i : BitVec 10)
  /-- SC_MAXUI: Writes the unsigned greater of g[a] and the sign-extended immediate into g[d]. (R94) -/
  | scMaxui (g : BitVec 4) (d a : BitVec 6) (i : BitVec 10)
  /-- SC_IMM: Zero-extends imm16 into g[d] at position 0, or inserts it at position 1–3. (R95) -/
  | scImm (g : BitVec 4) (p : BitVec 2) (d : BitVec 6) (i : BitVec 16)
  /-- SC_LD: Sign-extending global load into g[t], counted in ld. (R100) -/
  | scLd (g : BitVec 4) (t b : BitVec 6) (y z : BitVec 2) (x : BitVec 6)
  /-- SC_LDU: Zero-extending global load into g[t], counted in ld. (R100) -/
  | scLdu (g : BitVec 4) (t b : BitVec 6) (y z : BitVec 2) (x : BitVec 6)
  /-- SC_ST: Global store of the low bytes of g[t], taking a ticket and charging zones. (R100) -/
  | scSt (g : BitVec 4) (t b : BitVec 6) (y z : BitVec 2) (x : BitVec 6)
  /-- SC_LDC: Sign-extending load from a local space into g[t]. (R103) -/
  | scLdc (g : BitVec 4) (t b : BitVec 6) (z : BitVec 2) (x : BitVec 6)
  /-- SC_LDC_FE: Local load that holds until its granule is full. (R103) -/
  | scLdcFe (g : BitVec 4) (t b : BitVec 6) (z : BitVec 2) (x : BitVec 6)
  /-- SC_LDC_TAKE: Local load that holds until its granule is full, reads it and empties it indivisibly. (R103) -/
  | scLdcTake (g : BitVec 4) (t b : BitVec 6) (z : BitVec 2) (x : BitVec 6)
  /-- SC_LDCU: Zero-extending load from a local space into g[t]. (R103) -/
  | scLdcu (g : BitVec 4) (t b : BitVec 6) (z : BitVec 2) (x : BitVec 6)
  /-- SC_LDCU_FE: Zero-extending local load that holds until its granule is full. (R103) -/
  | scLdcuFe (g : BitVec 4) (t b : BitVec 6) (z : BitVec 2) (x : BitVec 6)
  /-- SC_LDCU_TAKE: Zero-extending local load that takes a full granule and empties it. (R103) -/
  | scLdcuTake (g : BitVec 4) (t b : BitVec 6) (z : BitVec 2) (x : BitVec 6)
  /-- SC_STC: Store of g[t] into a local space, leaving the full-empty bit unchanged. (R103) -/
  | scStc (g : BitVec 4) (t b : BitVec 6) (z : BitVec 2) (x : BitVec 6)
  /-- SC_STC_SET: Local store that also marks its granule full after the data. (R103) -/
  | scStcSet (g : BitVec 4) (t b : BitVec 6) (z : BitVec 2) (x : BitVec 6)
  /-- SC_AMO_ADD: Atomically adds g[s] to memory at g[base], returning the old value in g[d]. (R104) -/
  | scAmoAdd (g : BitVec 4) (d b s : BitVec 6) (y : BitVec 2) (z : BitVec 1)
  /-- SC_AMO_AND: Atomic AND of g[s] into memory, returning the old value. (R104) -/
  | scAmoAnd (g : BitVec 4) (d b s : BitVec 6) (y : BitVec 2) (z : BitVec 1)
  /-- SC_AMO_OR: Atomic OR of g[s] into memory, returning the old value. (R104) -/
  | scAmoOr (g : BitVec 4) (d b s : BitVec 6) (y : BitVec 2) (z : BitVec 1)
  /-- SC_AMO_XOR: Atomic XOR of g[s] into memory, returning the old value. (R104) -/
  | scAmoXor (g : BitVec 4) (d b s : BitVec 6) (y : BitVec 2) (z : BitVec 1)
  /-- SC_AMO_MAX: Atomic signed maximum with g[s], returning the old value. (R104) -/
  | scAmoMax (g : BitVec 4) (d b s : BitVec 6) (y : BitVec 2) (z : BitVec 1)
  /-- SC_AMO_MIN: Atomic signed minimum with g[s], returning the old value. (R104) -/
  | scAmoMin (g : BitVec 4) (d b s : BitVec 6) (y : BitVec 2) (z : BitVec 1)
  /-- SC_AMO_MAXU: Atomic unsigned maximum with g[s], returning the old value. (R104) -/
  | scAmoMaxu (g : BitVec 4) (d b s : BitVec 6) (y : BitVec 2) (z : BitVec 1)
  /-- SC_AMO_MINU: Atomic unsigned minimum with g[s], returning the old value. (R104) -/
  | scAmoMinu (g : BitVec 4) (d b s : BitVec 6) (y : BitVec 2) (z : BitVec 1)
  /-- SC_AMO_SWAP: Atomically writes g[s] to memory, returning the old value. (R104) -/
  | scAmoSwap (g : BitVec 4) (d b s : BitVec 6) (y : BitVec 2) (z : BitVec 1)
  /-- SC_AMO_CAS: Writes g[s] if memory equals g[d], returning the old value; a failed cas takes no ticket. (R104) -/
  | scAmoCas (g : BitVec 4) (d b s : BitVec 6) (y : BitVec 2) (z : BitVec 1)
  /-- SC_MFC: Reads the control register named by sel12 into g[d]. (R106) -/
  | scMfc (g : BitVec 4) (d : BitVec 6) (s : BitVec 12)
  /-- SC_MTC: Writes g[d] to the control register named by sel12 under its access rules, effective next cycle. (R106) -/
  | scMtc (g : BitVec 4) (d : BitVec 6) (s : BitVec 12)
  /-- SC_SHW: Writes g[d] into one field of one shadow shape register. (R107) -/
  | scShw (g : BitVec 4) (d : BitVec 6) (s : BitVec 12)
  /-- SC_CTV: Writes into g[d] the value delivered by the CT word of the same bundle. (R108) -/
  | scCtv (g : BitVec 4) (d : BitVec 6)
  /-- SC_SVC: Raises the non-fatal service trap 0x0A after the bundle takes effect. (R109) -/
  | scSvc (g : BitVec 4) (s : BitVec 12)
  /-- SC_TRAP: Raises the fatal trap 0x0A, suppressing the bundle. (R109) -/
  | scTrap (g : BitVec 4) (s : BitVec 12)
  /-- SC_BRK: Raises the breakpoint trap 0x0B after the bundle takes effect. (R109) -/
  | scBrk (g : BitVec 4) (s : BitVec 12)
  /-- SC_STQPOP: Returns the address of the statistics queue head record and advances STQH, or zero when empty. (R111) -/
  | scStqpop (g : BitVec 4) (d : BitVec 6)
  /-- SC_ERET: Leaves monitor mode and resumes the stream at or after the EPC bundle, reinstating pending transfers. (R110) -/
  | scEret (g : BitVec 4)
  /-- SC_ZDEF: Sets the base and limit of zone d from g[a] and g[b]. (R112) -/
  | scZdef (g : BitVec 4) (d a b : BitVec 6)
  /-- SC_ZDEFH: Sets zone d from the base and limit of a sealed handle entry. (R112) -/
  | scZdefh (g : BitVec 4) (d a b : BitVec 6)
  /-- SC_HDEF: Writes a sealed 32-byte handle entry at g[d] with base g[a] and limit g[b]. (R113) -/
  | scHdef (g : BitVec 4) (d a b : BitVec 6)
  /-- SC_CMPX: Raises the dual-check mismatch trap when g[a] differs from g[b]. (R114) -/
  | scCmpx (g : BitVec 4) (d a b : BitVec 6)
  /-- CT_BR: Branches after three delay bundles to the bundle address plus 32·disp22. (R115) -/
  | ctBr (g : BitVec 4) (x : BitVec 22)
  /-- CT_CALL: Branches like br and delivers its address plus 128 to sc.ctv. (R115) -/
  | ctCall (g : BitVec 4) (x : BitVec 22)
  /-- CT_CALLR: Calls the address in g[a] and delivers the return address to sc.ctv. (R116) -/
  | ctCallr (g : BitVec 4) (a : BitVec 6)
  /-- CT_JR: Jumps to the address in g[a] after three delay bundles. (R116) -/
  | ctJr (g : BitVec 4) (a : BitVec 6)
  /-- CT_RET: Returns to the address in g[a] after three delay bundles. (R116) -/
  | ctRet (g : BitVec 4) (a : BitVec 6)
  /-- CT_LOOP: Advances ROFF, writes the loop condition into logical p8 and branches while the count or an epilogue stage is live.
  (R117) -/
  | ctLoop (g : BitVec 4) (c : BitVec 6) (s : BitVec 4) (x : BitVec 12)
  /-- CT_WAIT: Holds its stream until the named outstanding-operation counters are at or below their limits. (R119) -/
  | ctWait (g l s c m : BitVec 4)
  /-- CT_BAR_ARRIVE: Holds while A[L] is set, then sets it and arrives at the level-L domain. (R120) -/
  | ctBarArrive (g : BitVec 4) (l : BitVec 3)
  /-- CT_BAR_WAIT: Holds its bundle while A[L] is set. (R120) -/
  | ctBarWait (g : BitVec 4) (l : BitVec 3)
  /-- CT_BAR_SYNC: Arrives at level L and holds the next bundle of the stream until the phase ends. (R120) -/
  | ctBarSync (g : BitVec 4) (l : BitVec 3)
  /-- CT_FENCE_REL: Holds its bundle until earlier accesses charged to the named zones have left and their maximum tickets have
  passed. (R287) -/
  | ctFenceRel (g : BitVec 4) (z : BitVec 8)
  /-- CT_FENCE_ACQ: Holds later accesses in the named zones until every earlier load of the stream has delivered. (R288) -/
  | ctFenceAcq (g : BitVec 4) (z : BitVec 8)
  /-- CT_FENCE_VIS: Holds later writes of the stream until the release conditions hold for the named zones. (R289) -/
  | ctFenceVis (g : BitVec 4) (z : BitVec 8)
  /-- CT_FENCE_FULL: Acts as a release fence on all eight zones. (R287) -/
  | ctFenceFull (g : BitVec 4)
  /-- CT_ARM: Reads a doubleword as an owned load and arms the core's monitor on its line. (R122) -/
  | ctArm (g : BitVec 4) (a : BitVec 6) (e : BitVec 16)
  /-- CT_MWAIT: Holds its stream until the monitor fires or g[a] ticks pass, then disarms the monitor. (R123) -/
  | ctMwait (g : BitVec 4) (a : BitVec 6)
  /-- CT_DAWN: Drains, takes the checkpoint and opens the core's speculative region with its recovery path. (R124) -/
  | ctDawn (g : BitVec 4) (x : BitVec 22)
  /-- CT_DUSK: Holds until the region's loads deliver, then commits the region and releases its held effects in order. (R316) -/
  | ctDusk (g : BitVec 4)
  /-- CT_CHECK: Rolls the open region back with CHECK when pC is false. (R125) -/
  | ctCheck (g p : BitVec 4)
  /-- CT_ABORT: Rolls the open region back with ABORT. (R125) -/
  | ctAbort (g : BitVec 4)
  /-- CT_PAND: Writes pA AND pB into pD. (R127) -/
  | ctPand (g d a b : BitVec 4)
  /-- CT_POR: Writes pA OR pB into pD. (R127) -/
  | ctPor (g d a b : BitVec 4)
  /-- CT_PXOR: Writes pA XOR pB into pD. (R127) -/
  | ctPxor (g d a b : BitVec 4)
  /-- CT_PANDN: Writes pA AND NOT pB into pD. (R127) -/
  | ctPandn (g d a b : BitVec 4)
  /-- CT_PNOT: Writes NOT pA into pD. (R127) -/
  | ctPnot (g d a : BitVec 4)
  /-- CT_PSET: Writes true into pD. (R127) -/
  | ctPset (g d : BitVec 4)
  /-- CT_PCLR: Writes false into pD. (R127) -/
  | ctPclr (g d : BitVec 4)
  /-- CT_ROFF: Sets the rotation offset ROFF to N. (R128) -/
  | ctRoff (g p : BitVec 4)
  /-- CT_IDLE: Issues, then its stream issues nothing for N cycles. (R129) -/
  | ctIdle (g : BitVec 4) (x : BitVec 22)
  /-- CT_END: Unbinds the secondary queue, holds until queues, counters and fence waits are clear, and ends the core. (R130) -/
  | ctEnd (g : BitVec 4)
  /-- V_FADD: FP32 lane-wise addition. (R136) -/
  | vFadd (sl : VSlot) (g : BitVec 4) (d a b : BitVec 5) (q : BitVec 3)
  /-- V_FSUB: FP32 lane-wise subtraction. (R136) -/
  | vFsub (sl : VSlot) (g : BitVec 4) (d a b : BitVec 5) (q : BitVec 3)
  /-- V_FMUL: FP32 lane-wise multiplication. (R136) -/
  | vFmul (sl : VSlot) (g : BitVec 4) (d a b : BitVec 5) (q : BitVec 3)
  /-- V_FMA: FP32 fused a·b + c rounded once into vd. (R136) -/
  | vFma (sl : VSlot) (g : BitVec 4) (d a b : BitVec 5) (q : BitVec 3)
  /-- V_FMS: FP32 fused a·b − c rounded once into vd. (R136) -/
  | vFms (sl : VSlot) (g : BitVec 4) (d a b : BitVec 5) (q : BitVec 3)
  /-- V_FMIN: FP32 lane-wise minimum with NaN and signed-zero rules. (R137) -/
  | vFmin (sl : VSlot) (g : BitVec 4) (d a b : BitVec 5) (q : BitVec 3)
  /-- V_FMAX: FP32 lane-wise maximum with NaN and signed-zero rules. (R137) -/
  | vFmax (sl : VSlot) (g : BitVec 4) (d a b : BitVec 5) (q : BitVec 3)
  /-- V_FABS: Clears the sign bit of each FP32 lane. (R136) -/
  | vFabs (sl : VSlot) (g : BitVec 4) (d a b : BitVec 5) (q : BitVec 3)
  /-- V_FNEG: Inverts the sign bit of each FP32 lane. (R136) -/
  | vFneg (sl : VSlot) (g : BitVec 4) (d a b : BitVec 5) (q : BitVec 3)
  /-- V_FSCALE: Multiplies each FP32 lane by 2 to the power of the i32 lane of vb, rounding once. (R136) -/
  | vFscale (sl : VSlot) (g : BitVec 4) (d a b : BitVec 5) (q : BitVec 3)
  /-- V_FADD_S: FP32 addition with a scalar operand from g[gs]. (R138) -/
  | vFaddS (sl : VSlot) (g : BitVec 4) (d a : BitVec 5) (s : BitVec 6) (q : BitVec 3)
  /-- V_FSUB_S: FP32 subtraction with a scalar operand. (R138) -/
  | vFsubS (sl : VSlot) (g : BitVec 4) (d a : BitVec 5) (s : BitVec 6) (q : BitVec 3)
  /-- V_FMUL_S: FP32 multiplication by a scalar operand. (R138) -/
  | vFmulS (sl : VSlot) (g : BitVec 4) (d a : BitVec 5) (s : BitVec 6) (q : BitVec 3)
  /-- V_FMA_S: FP32 fused multiply-add with a scalar operand. (R138) -/
  | vFmaS (sl : VSlot) (g : BitVec 4) (d a : BitVec 5) (s : BitVec 6) (q : BitVec 3)
  /-- V_FMIN_S: FP32 minimum with a scalar operand. (R138) -/
  | vFminS (sl : VSlot) (g : BitVec 4) (d a : BitVec 5) (s : BitVec 6) (q : BitVec 3)
  /-- V_FMAX_S: FP32 maximum with a scalar operand. (R138) -/
  | vFmaxS (sl : VSlot) (g : BitVec 4) (d a : BitVec 5) (s : BitVec 6) (q : BitVec 3)
  /-- V_FSCALE_S: Scales each FP32 lane by 2 to the scalar integer power. (R138) -/
  | vFscaleS (sl : VSlot) (g : BitVec 4) (d a : BitVec 5) (s : BitVec 6) (q : BitVec 3)
  /-- V_IADD: Integer element-wise addition modulo the element width. (R139) -/
  | vIadd (sl : VSlot) (g : BitVec 4) (d a b : BitVec 5) (q : BitVec 3)
  /-- V_ISUB: Integer element-wise subtraction modulo the element width. (R139) -/
  | vIsub (sl : VSlot) (g : BitVec 4) (d a b : BitVec 5) (q : BitVec 3)
  /-- V_IMUL: Low half of the element-wise integer product. (R139) -/
  | vImul (sl : VSlot) (g : BitVec 4) (d a b : BitVec 5) (q : BitVec 3)
  /-- V_IMULH: High half of the element-wise integer product. (R139) -/
  | vImulh (sl : VSlot) (g : BitVec 4) (d a b : BitVec 5) (q : BitVec 3)
  /-- V_IAND: Tag-transparent lane-wise AND. (R139) -/
  | vIand (sl : VSlot) (g : BitVec 4) (d a b : BitVec 5) (q : BitVec 3)
  /-- V_IOR: Tag-transparent lane-wise OR. (R139) -/
  | vIor (sl : VSlot) (g : BitVec 4) (d a b : BitVec 5) (q : BitVec 3)
  /-- V_IXOR: Tag-transparent lane-wise XOR. (R139) -/
  | vIxor (sl : VSlot) (g : BitVec 4) (d a b : BitVec 5) (q : BitVec 3)
  /-- V_ISHL: Element-wise left shift by b mod w. (R139) -/
  | vIshl (sl : VSlot) (g : BitVec 4) (d a b : BitVec 5) (q : BitVec 3)
  /-- V_ISHR: Element-wise logical right shift by b mod w. (R139) -/
  | vIshr (sl : VSlot) (g : BitVec 4) (d a b : BitVec 5) (q : BitVec 3)
  /-- V_ISRA: Element-wise arithmetic right shift by b mod w. (R139) -/
  | vIsra (sl : VSlot) (g : BitVec 4) (d a b : BitVec 5) (q : BitVec 3)
  /-- V_IMIN: Element-wise minimum, signed or unsigned by tag. (R139) -/
  | vImin (sl : VSlot) (g : BitVec 4) (d a b : BitVec 5) (q : BitVec 3)
  /-- V_IMAX: Element-wise maximum, signed or unsigned by tag. (R139) -/
  | vImax (sl : VSlot) (g : BitVec 4) (d a b : BitVec 5) (q : BitVec 3)
  /-- V_IMINU: Element-wise unsigned minimum. (R139) -/
  | vIminu (sl : VSlot) (g : BitVec 4) (d a b : BitVec 5) (q : BitVec 3)
  /-- V_IMAXU: Element-wise unsigned maximum. (R139) -/
  | vImaxu (sl : VSlot) (g : BitVec 4) (d a b : BitVec 5) (q : BitVec 3)
  /-- V_IADD_S: Integer addition of a scalar to every element. (R140) -/
  | vIaddS (sl : VSlot) (g : BitVec 4) (d a : BitVec 5) (s : BitVec 6) (q : BitVec 3)
  /-- V_ISUB_S: Integer subtraction of a scalar from every element. (R140) -/
  | vIsubS (sl : VSlot) (g : BitVec 4) (d a : BitVec 5) (s : BitVec 6) (q : BitVec 3)
  /-- V_IMUL_S: Integer multiplication of every element by a scalar. (R140) -/
  | vImulS (sl : VSlot) (g : BitVec 4) (d a : BitVec 5) (s : BitVec 6) (q : BitVec 3)
  /-- V_IAND_S: Lane-wise AND with g[gs][31:0]. (R140) -/
  | vIandS (sl : VSlot) (g : BitVec 4) (d a : BitVec 5) (s : BitVec 6) (q : BitVec 3)
  /-- V_IOR_S: Lane-wise OR with g[gs][31:0]. (R140) -/
  | vIorS (sl : VSlot) (g : BitVec 4) (d a : BitVec 5) (s : BitVec 6) (q : BitVec 3)
  /-- V_IXOR_S: Lane-wise XOR with g[gs][31:0]. (R140) -/
  | vIxorS (sl : VSlot) (g : BitVec 4) (d a : BitVec 5) (s : BitVec 6) (q : BitVec 3)
  /-- V_ISHL_S: Element-wise left shift by a scalar amount. (R140) -/
  | vIshlS (sl : VSlot) (g : BitVec 4) (d a : BitVec 5) (s : BitVec 6) (q : BitVec 3)
  /-- V_ISHR_S: Element-wise logical right shift by a scalar amount. (R140) -/
  | vIshrS (sl : VSlot) (g : BitVec 4) (d a : BitVec 5) (s : BitVec 6) (q : BitVec 3)
  /-- V_ISRA_S: Element-wise arithmetic right shift by a scalar amount. (R140) -/
  | vIsraS (sl : VSlot) (g : BitVec 4) (d a : BitVec 5) (s : BitVec 6) (q : BitVec 3)
  /-- V_IMIN_S: Element-wise minimum with a scalar. (R140) -/
  | vIminS (sl : VSlot) (g : BitVec 4) (d a : BitVec 5) (s : BitVec 6) (q : BitVec 3)
  /-- V_IMAX_S: Element-wise maximum with a scalar. (R140) -/
  | vImaxS (sl : VSlot) (g : BitVec 4) (d a : BitVec 5) (s : BitVec 6) (q : BitVec 3)
  /-- V_IADDS_S: Saturating addition of a scalar to 16-bit elements. (R141) -/
  | vIaddsS (sl : VSlot) (g : BitVec 4) (d a : BitVec 5) (s : BitVec 6) (q : BitVec 3)
  /-- V_ISUBS_S: Saturating subtraction of a scalar from 16-bit elements. (R141) -/
  | vIsubsS (sl : VSlot) (g : BitVec 4) (d a : BitVec 5) (s : BitVec 6) (q : BitVec 3)
  /-- V_IADDS: Saturating 16-bit element addition with saturation events. (R141) -/
  | vIadds (sl : VSlot) (g : BitVec 4) (d a b : BitVec 5) (q : BitVec 3)
  /-- V_ISUBS: Saturating 16-bit element subtraction with saturation events. (R141) -/
  | vIsubs (sl : VSlot) (g : BitVec 4) (d a b : BitVec 5) (q : BitVec 3)
  /-- V_IABSD: Exact absolute difference of 16-bit elements, tagged ui16x2. (R141) -/
  | vIabsd (sl : VSlot) (g : BitVec 4) (d a b : BitVec 5) (q : BitVec 3)
  /-- V_IAVG: Rounded-up average of integer elements. (R141) -/
  | vIavg (sl : VSlot) (g : BitVec 4) (d a b : BitVec 5) (q : BitVec 3)
  /-- V_IMAD16: Adds the two 16-bit products of each lane to the i32 lane of vd. (R141) -/
  | vImad16 (sl : VSlot) (g : BitVec 4) (d a b : BitVec 5) (q : BitVec 3)
  /-- V_FCMP_EQ: FP32 equality compare into lane masks qt and qf. (R142) -/
  | vFcmpEq (sl : VSlot) (g : BitVec 4) (t f : BitVec 3) (a b : BitVec 5) (q : BitVec 3)
  /-- V_FCMP_LT: FP32 less-than compare into lane masks. (R142) -/
  | vFcmpLt (sl : VSlot) (g : BitVec 4) (t f : BitVec 3) (a b : BitVec 5) (q : BitVec 3)
  /-- V_FCMP_LE: FP32 less-or-equal compare into lane masks. (R142) -/
  | vFcmpLe (sl : VSlot) (g : BitVec 4) (t f : BitVec 3) (a b : BitVec 5) (q : BitVec 3)
  /-- V_FCMP_UN: FP32 unordered compare into lane masks. (R142) -/
  | vFcmpUn (sl : VSlot) (g : BitVec 4) (t f : BitVec 3) (a b : BitVec 5) (q : BitVec 3)
  /-- V_ICMP_EQ: i32 equality compare into lane masks. (R142) -/
  | vIcmpEq (sl : VSlot) (g : BitVec 4) (t f : BitVec 3) (a b : BitVec 5) (q : BitVec 3)
  /-- V_ICMP_LT: Signed i32 less-than compare into lane masks. (R142) -/
  | vIcmpLt (sl : VSlot) (g : BitVec 4) (t f : BitVec 3) (a b : BitVec 5) (q : BitVec 3)
  /-- V_ICMP_LTU: Unsigned i32 less-than compare into lane masks. (R142) -/
  | vIcmpLtu (sl : VSlot) (g : BitVec 4) (t f : BitVec 3) (a b : BitVec 5) (q : BitVec 3)
  /-- V_FSUM: Sums the 64 FP32 lanes in the fixed pairwise tree into every lane of vd. (R57) -/
  | vFsum (sl : VSlot) (g : BitVec 4) (d a : BitVec 5) (q : BitVec 3)
  /-- V_FMAXR: Writes the greatest selected non-NaN FP32 lane into every lane. (R145) -/
  | vFmaxr (sl : VSlot) (g : BitVec 4) (d a : BitVec 5) (q : BitVec 3)
  /-- V_IMAXR: Signed maximum over selected i32 lanes into every lane. (R144) -/
  | vImaxr (sl : VSlot) (g : BitVec 4) (d a : BitVec 5) (q : BitVec 3)
  /-- V_IMINR: Signed minimum over selected i32 lanes into every lane. (R144) -/
  | vIminr (sl : VSlot) (g : BitVec 4) (d a : BitVec 5) (q : BitVec 3)
  /-- V_ISUMR: Sum modulo 2^32 of selected i32 lanes into every lane. (R144) -/
  | vIsumr (sl : VSlot) (g : BitVec 4) (d a : BitVec 5) (q : BitVec 3)
  /-- V_BCAST: Writes g[gs][31:0] into every selected lane, keeping the tag. (R146) -/
  | vBcast (sl : VSlot) (g : BitVec 4) (d : BitVec 5) (s : BitVec 6) (q : BitVec 3)
  /-- V_SLIDE_UP: Moves lanes of va up by s lanes, filling with zero. (R146) -/
  | vSlideUp (sl : VSlot) (g : BitVec 4) (d a : BitVec 5) (s : BitVec 6) (q : BitVec 3)
  /-- V_SLIDE_DN: Moves lanes of va down by s lanes, filling with zero. (R146) -/
  | vSlideDn (sl : VSlot) (g : BitVec 4) (d a : BitVec 5) (s : BitVec 6) (q : BitVec 3)
  /-- V_MOV: Copies selected lanes of va into vd with va's tag. (R147) -/
  | vMov (sl : VSlot) (g : BitVec 4) (d a : BitVec 5) (q : BitVec 3)
  /-- V_SEL: Selects each lane from va or vb by the mask bit, writing all lanes. (R147) -/
  | vSel (sl : VSlot) (g : BitVec 4) (d a b : BitVec 5) (q : BitVec 3)
  /-- V_PERM: Permutes lanes of va by the i32 indices in vb. (R147) -/
  | vPerm (sl : VSlot) (g : BitVec 4) (d a b : BitVec 5) (q : BitVec 3)
  /-- V_LIDX: Writes each lane's own index, tagged i32. (R147) -/
  | vLidx (sl : VSlot) (g : BitVec 4) (d : BitVec 5) (q : BitVec 3)
  /-- V_CVT: Converts position by position from va's tag to the named tag in the given rounding mode. (R148) -/
  | vCvt (sl : VSlot) (g : BitVec 4) (d a t : BitVec 5) (q : BitVec 3) (n : BitVec 2)
  /-- V_RETAG: Copies selected lanes unchanged and gives vd the named tag. (R148) -/
  | vRetag (sl : VSlot) (g : BitVec 4) (d a t : BitVec 5) (q : BitVec 3)
  /-- V_LD_L: Loads one row of each lane's slice into vt. (R150) -/
  | vLdL (sl : VSlot) (g : BitVec 4) (t : BitVec 5) (b : BitVec 6) (q : BitVec 3) (u : BitVec 2) (x : BitVec 6)
  /-- V_ST_L: Stores vt into one row of each lane's slice. (R150) -/
  | vStL (sl : VSlot) (g : BitVec 4) (t : BitVec 5) (b : BitVec 6) (q : BitVec 3) (x : BitVec 6)
  /-- V_LD_C: Loads 256 bytes of a local L-addressed space into vt. (R151) -/
  | vLdC (sl : VSlot) (g : BitVec 4) (t : BitVec 5) (b : BitVec 6) (q : BitVec 3) (u : BitVec 2) (x : BitVec 6)
  /-- V_LD_C_FE: Local vector load that holds until every granule of its selected lanes is full. (R152) -/
  | vLdCFe (sl : VSlot) (g : BitVec 4) (t : BitVec 5) (b : BitVec 6) (q : BitVec 3) (u : BitVec 2) (x : BitVec 6)
  /-- V_LD_C_TAKE: Local vector load that takes its full granules and empties them indivisibly. (R152) -/
  | vLdCTake (sl : VSlot) (g : BitVec 4) (t : BitVec 5) (b : BitVec 6) (q : BitVec 3) (u : BitVec 2) (x : BitVec 6)
  /-- V_ST_C: Stores the selected lanes of vt into a local space. (R151) -/
  | vStC (sl : VSlot) (g : BitVec 4) (t : BitVec 5) (b : BitVec 6) (q : BitVec 3) (x : BitVec 6)
  /-- V_ST_C_SET: Local vector store that marks its granules full after the data. (R152) -/
  | vStCSet (sl : VSlot) (g : BitVec 4) (t : BitVec 5) (b : BitVec 6) (q : BitVec 3) (x : BitVec 6)
  /-- V_LD_G: VY global load of 256 bytes into vt, counted in ld. (R154) -/
  | vLdG (g : BitVec 4) (y : BitVec 2) (t : BitVec 5) (b : BitVec 6) (q : BitVec 3) (u : BitVec 2) (x : BitVec 6)
  /-- V_ST_G: VY global store of selected lanes as one store with one ticket. (R154) -/
  | vStG (g : BitVec 4) (y : BitVec 2) (t : BitVec 5) (b : BitVec 6) (q : BitVec 3) (x : BitVec 6)
  /-- V_GATHER: VY gather of one element per selected lane from g[base] plus the lane index. (R155) -/
  | vGather (g : BitVec 4) (y : BitVec 2) (t i : BitVec 5) (b : BitVec 6) (q z : BitVec 3)
  /-- V_SCATTER: VY scatter of one element per selected lane as one store, highest lane prevailing on overlap. (R156) -/
  | vScatter (g : BitVec 4) (y : BitVec 2) (t i : BitVec 5) (b : BitVec 6) (q : BitVec 3) (z : BitVec 2)
  /-- MX_MMA: Accumulates the product of the A region and a B-store segment into tile m. (R171) -/
  | mxMma (g : BitVec 4) (m a : BitVec 2) (w : BitVec 1) (b : BitVec 4) (k : BitVec 6) (c : BitVec 1)
  /-- MX_MMAZ: Zeroes tile m and then accumulates the product into it. (R171) -/
  | mxMmaz (g : BitVec 4) (m a : BitVec 2) (w : BitVec 1) (b : BitVec 4) (k : BitVec 6) (c : BitVec 1)
  /-- MX_HROT16: Accumulates a Hadamard pass of order 16 over the A region into tile m. (R172) -/
  | mxHrot16 (g : BitVec 4) (m a : BitVec 2) (w : BitVec 1) (k : BitVec 6)
  /-- MX_HROT64: Accumulates a Hadamard pass of order 64 over the A region into tile m. (R172) -/
  | mxHrot64 (g : BitVec 4) (m a : BitVec 2) (w : BitVec 1) (k : BitVec 6)
  /-- MX_DRAIN: Converts tile m into local memory in the drain format without normalisation. (R174) -/
  | mxDrain (g : BitVec 4) (m d : BitVec 2) (w : BitVec 1) (t : BitVec 5) (n : BitVec 2) (s : BitVec 6)
  /-- MX_DRAIN_H16: Drains tile m scaled by 2^−2 after an order-16 pass. (R174) -/
  | mxDrainH16 (g : BitVec 4) (m d : BitVec 2) (w : BitVec 1) (t : BitVec 5) (n : BitVec 2) (s : BitVec 6)
  /-- MX_DRAIN_H64: Drains tile m scaled by 2^−3 after an order-64 pass. (R174) -/
  | mxDrainH64 (g : BitVec 4) (m d : BitVec 2) (w : BitVec 1) (t : BitVec 5) (n : BitVec 2) (s : BitVec 6)
  /-- MX_CPROG: Loads a cell program word from the constant store into CPROG of active sd at issue. (R173) -/
  | mxCprog (g : BitVec 4) (d : BitVec 2) (w : BitVec 1) (s : BitVec 6)
  /-- MX_MCLR: Sets tile m's tag to accumulating and zeroes every element. (R173) -/
  | mxMclr (g : BitVec 4) (m : BitVec 2)
  /-- MX_MTAG: Sets tile m's tag at issue. (R173) -/
  | mxMtag (g : BitVec 4) (m : BitVec 2) (t : BitVec 5)
  /-- MX_MSTAT: Writes a 32-byte status record of tile m into local memory in MX order. (R175) -/
  | mxMstat (g : BitVec 4) (m : BitVec 2) (s : BitVec 6)
  /-- X_CP: Copies element t of the source view to element t of the destination view. (R177) -/
  | xCp (sl : XSlot) (g : BitVec 4) (s d : BitVec 2) (w : BitVec 1) (e : BitVec 2) (h : BitVec 6) (y : BitVec 1)
  /-- X_CP_BS: Copies into the core's B-store and marks it dirty. (R178) -/
  | xCpBs (sl : XSlot) (g : BitVec 4) (s d : BitVec 2) (w : BitVec 1) (e : BitVec 2) (h : BitVec 6) (y : BitVec 1)
  /-- X_CP_SH: Copies into shadow pages of a global shadowable destination. (R180) -/
  | xCpSh (sl : XSlot) (g : BitVec 4) (s d : BitVec 2) (w : BitVec 1) (e : BitVec 2) (h : BitVec 6)
  /-- X_CP_BCAST: Copies into the same scratchpad address of every cluster core of the launch. (R179) -/
  | xCpBcast (sl : XSlot) (g : BitVec 4) (s d : BitVec 2) (w : BitVec 1) (e : BitVec 2) (h : BitVec 6) (y : BitVec 1)
  /-- X_CP_DZ: Decodes a CCSDS 121.0-B Rice-coded stream into 16-bit samples. (R187) -/
  | xCpDz (sl : XSlot) (g : BitVec 4) (s d : BitVec 2) (w : BitVec 1) (e : BitVec 5) (h : BitVec 6) (y : BitVec 1)
  /-- X_SREAD: Reads logical blocks of a granted NVMe namespace through a storage port into a destination. (R188) -/
  | xSread (sl : XSlot) (g : BitVec 4) (s d : BitVec 2) (w : BitVec 1) (e : BitVec 3) (h : BitVec 6)
  /-- X_PUB: Publishes the core's shadow set for a handle by swapping its pages at one tick. (R182) -/
  | xPub (sl : XSlot) (g : BitVec 4) (h : BitVec 6)
  /-- X_CANCEL: Ends the core's shadow set for a handle and frees its pages unseen. (R183) -/
  | xCancel (sl : XSlot) (g : BitVec 4) (h : BitVec 6)
  /-- PF_TRN8: Transposes a matrix of 8-bit elements. (R190) -/
  | pfTrn8 (g : BitVec 4) (s d : BitVec 2) (w : BitVec 1)
  /-- PF_TRN16: Transposes a matrix of 16-bit elements. (R190) -/
  | pfTrn16 (g : BitVec 4) (s d : BitVec 2) (w : BitVec 1)
  /-- PF_TRN32: Transposes a matrix of 32-bit elements. (R190) -/
  | pfTrn32 (g : BitVec 4) (s d : BitVec 2) (w : BitVec 1)
  /-- PF_FILL: Writes the low ESZ bytes of g[gv] into every destination element. (R191) -/
  | pfFill (g : BitVec 4) (d : BitVec 2) (w : BitVec 1) (v : BitVec 6)
  /-- PF_QNT: Quantises rows of FP32 or BF16 elements into SX blocks with a header plane. (R192) -/
  | pfQnt (g : BitVec 4) (s d : BitVec 2) (w : BitVec 1) (v : BitVec 6) (x : BitVec 5)
  /-- PF_DQNT: Dequantises SX blocks into FP32 or BF16 elements. (R193) -/
  | pfDqnt (g : BitVec 4) (s d : BitVec 2) (w : BitVec 1) (v : BitVec 6) (x : BitVec 5)
  /-- PF_UPX12: Unpacks 12-bit pixels into ui16 elements. (R194) -/
  | pfUpx12 (g : BitVec 4) (s d : BitVec 2) (w : BitVec 1)
  /-- PF_PKX12: Packs ui16 elements into 12-bit pixels with clamping. (R194) -/
  | pfPkx12 (g : BitVec 4) (s d : BitVec 2) (w : BitVec 1)
  /-- PF_SHUF: Writes each destination element from the source element named by a ui16 index table. (R196) -/
  | pfShuf (g : BitVec 4) (s d : BitVec 2) (w : BitVec 1) (v : BitVec 6)
  /-- E_CLR: Clears one staging-bundle slot word. (R209) -/
  | eClr (k : BitVec 3)
  /-- E_SET: Writes x[rs1][31:0] into one staging slot word. (R209) -/
  | eSet (k : BitVec 3) (a : BitVec 5)
  /-- E_TPL: Loads a 32-byte template into the staging bundle. (R209) -/
  | eTpl (i : BitVec 12) (a : BitVec 5)
  /-- E_PATCH: Writes the low bits of x[rs1] into the staging field named by a patch descriptor. (R210) -/
  | ePatch (b a : BitVec 5)
  /-- E_PROV: Sets or clears the provenance PC override. (R211) -/
  | eProv (a : BitVec 5)
  /-- E_EMIT_P: Checks and emits the staging bundle with its provenance record to a core's primary queue. (R217) -/
  | eEmitP (a : BitVec 5)
  /-- E_EMIT_S: Checks, including the window check, and emits the staging bundle to a core's secondary queue. (R217) -/
  | eEmitS (a : BitVec 5)
  /-- E_EMIT_A: Writes the staging bundle as 32 bytes to an emit-target code page. (R218) -/
  | eEmitA (a : BitVec 5)
  /-- E_EMITR_P: Emits n copies to a primary queue, stepping a patched field by an increment, resumable by eprog. (R219) -/
  | eEmitrP (c b a : BitVec 5)
  /-- E_EMITR_S: Emits n stepped copies to a secondary queue. (R219) -/
  | eEmitrS (c b a : BitVec 5)
  /-- E_QST: Writes the occupancy and binding status of a core's queue into rd. (R214) -/
  | eQst (q : BitVec 1) (a d : BitVec 5)
  /-- E_WAIT: Holds the slot until a queue's occupancy is at most the limit. (R215) -/
  | eWait (q : BitVec 1) (b a : BitVec 5)
  /-- E_BIND: Binds the slot to a granted queue of a core. (R212) -/
  | eBind (q : BitVec 1) (a : BitVec 5)
  /-- RV64IMAC_INSTRUCTION: A generator slot or the composer monitor executes a standard RV64IMAC, Zicsr or Zifencei instruction
  such as a load, store, AMO, FENCE, CSR access or wfi. (R202) -/
  | rv64imacInstruction (op : Rv) (short : Bool)
  /-- ILLEGAL_ENCODING: A fetched bundle that holds an illegal word, or is illegal as a whole, raises trap 0x01 at issue with
  nothing taking effect. (R71) -/
  | illegalEncoding (slot : Slot) (w : BitVec 32) (whole : Bool)
  /-- E_CLR_ALL: Clears all eight staging-bundle slot words. (R209) -/
  | eClrAll
  /-- ECALL_END: Ends the generator once its earlier emits have entered their queues. (R217) -/
  | ecallEnd
  /-- ECALL_LOG: Sends a0–a2 with the last provenance record to F7 as a log record. (R401) -/
  | ecallLog
  /-- ECALL_YIELD: Gives up the rest of the slot's round-robin turn. (R401) -/
  | ecallYield
  /-- ECALL_UNKNOWN: Returns all ones in a0 for an unassigned a7 without effect. (R401) -/
  | ecallUnknown
  /-- RESIDENCY_UPDATE: A residency register write takes effect at every L2 slice of the die within 64 cycles. (R276) -/
  | residencyUpdate
  /-- FIXED_LATENCY_RESULT: A fixed-latency result arrives at its register, ending any stretch hold. (R75) -/
  | fixedLatencyResult
  /-- COUNTED_LOAD_DELIVERY: A counted load writes its register, the ld counter falls and holds on the register end. (R76) -/
  | countedLoadDelivery
  /-- UNCORRECTABLE_MEMORY_ERROR: An uncorrectable error becomes known and raises trap 0x09 at the next bundle of the stream.
  (R101) -/
  | uncorrectableMemoryError
  /-- STORE_TICKET_KNOWN: A write's ticket becomes known, leaving its zones' pending counts and the st counter. (R280) -/
  | storeTicketKnown
  /-- FAR_STORE_PERFORMED: A store to another core's share or to die scratchpad is performed at its space. (R429) -/
  | farStorePerformed
  /-- REMOTE_TICK_CONFIRMATION: A home module confirms its VCLK has reached a remote ticket, releasing the pending access. (R283) -/
  | remoteTickConfirmation
  /-- VCLK_TICK: The visibility clock advances by one tick, letting tickets pass. (R9) -/
  | vclkTick
  /-- TICK_MARKED_PASSED: Hardware marks a held tick that has passed as passed. (R10) -/
  | tickMarkedPassed
  /-- LEASE_EXPIRY: A leased sector reaches its expiry tick and is dropped without a message. (R348) -/
  | leaseExpiry
  /-- MWAIT_TIMEOUT: The mwait timeout passes, ending the wait and disarming the monitor. (R123) -/
  | mwaitTimeout
  /-- IDLE_COUNT_EXPIRY: The idle count of ct.idle runs out and the stream resumes issue. (R129) -/
  | idleCountExpiry
  /-- SECONDARY_FAIRNESS_WITHHOLD: The secondary head's wait count reaches 64 and the primary stream is withheld for one cycle.
  (R79) -/
  | secondaryFairnessWithhold
  /-- HANDLE_ENTRY_READ: The uncached read of a handle entry completes and its seal and range are checked. (R164) -/
  | handleEntryRead
  /-- ENGINE_COMMAND_START: An engine starts a command once no conflicting earlier access remains in flight. (R269) -/
  | engineCommandStart
  /-- ENGINE_COMMAND_COMPLETE: An engine command completes, its counter falls and its scoreboard intervals are released. (R161) -/
  | engineCommandComplete
  /-- PUB_SWAP: After earlier cp.sh commands complete, the published pages are swapped at tick T. (R182) -/
  | pubSwap
  /-- SREAD_COMPLETION: F4 receives the NVMe completions for all blocks and the sread completes. (R188) -/
  | sreadCompletion
  /-- NVME_COMMAND_TIMEOUT: A Read command without completion after 30 s is aborted with status 0xFFFF. (R415) -/
  | nvmeCommandTimeout
  /-- REGION_ROLLBACK: After counted loads deliver, the region's checkpoint is restored and held effects discarded. (R315) -/
  | regionRollback
  /-- DIR_READ: A slice serves a read for a sector, recalling an owner or adding a sharer. (R351) -/
  | dirRead
  /-- DIR_OWNED_WRITE: A slice serves an owned write by sending invalidations and counting acknowledgements. (R351) -/
  | dirOwnedWrite
  /-- EVICTION_NOTICE_CLEAN: A clean eviction notice reaches the slice and may remove a pointer. (R351) -/
  | evictionNoticeClean
  /-- EVICTION_NOTICE_DATA: An eviction notice with data writes it into the L2 line. (R351) -/
  | evictionNoticeData
  /-- INVALIDATION: An invalidation reaches an L1 sector, which drops it and acknowledges. (R348) -/
  | invalidation
  /-- RECALL: A recall reaches an owning L1, which supplies modified data and goes to shared. (R348) -/
  | recall
  /-- ACKNOWLEDGEMENT: An acknowledgement decrements the transient line's count, ending the write at zero. (R351) -/
  | acknowledgement
  /-- L2_EVICTION: The die L2 evicts a line, invalidating L1 copies and writing back modified sectors. (R353) -/
  | l2Eviction
  /-- HOME_OWNED_WRITE: A home agent invalidates other dies and modules and recalls the owner for an owned write. (R354) -/
  | homeOwnedWrite
  /-- HOME_ENTRY_EVICTION: A home evicts a directory entry, invalidating every copy and raising its lease bound. (R355) -/
  | homeEntryEviction
  /-- INSTRUCTION_PREFETCH: Sequential prefetch fetches lines ahead of the line buffer without faults. (R360) -/
  | instructionPrefetch
  /-- SHOOTDOWN_ACK: A die acknowledges a shootdown once no access using the old translation remains. (R359) -/
  | shootdownAck
  /-- KEY_RETIREMENT: F6 retires a key after every cache writes back and invalidates its lines. (R356) -/
  | keyRetirement
  /-- TRAP_REPLAY: A handler frees a replayable record and replays the held bundle. (R378) -/
  | trapReplay
  /-- FETCH_MISS_PAGING: The steward pages in code for a fetch miss, maps it and replays the bundle. (R360) -/
  | fetchMissPaging
  /-- READ_DUPLICATE_COLLAPSE: F2 splits and collapses a read-duplicate group to the faulting module, then replays. (R361) -/
  | readDuplicateCollapse
  /-- TRAP_RECORD_FREE: The steward frees a trap record, ending any hold on the reserved record. (R381) -/
  | trapRecordFree
  /-- REAP: F3 reaps a faulted or queue-exhausted context. (R381) -/
  | reap
  /-- REMOTE_ROUTE_TIMEOUT: An access to an unreachable module raises trap 0x09 1 ms after its issue. (R418) -/
  | remoteRouteTimeout
  /-- STEWARD_CRASH: A steward's resident kernel crashes and every core of the die freezes. (R392) -/
  | stewardCrash
  /-- WARM_READOPTION: The rebooted steward rebuilds its state, frees records and resumes frozen contexts. (R392) -/
  | warmReadoption
  /-- READOPTION_TIMEOUT: A die not re-adopted within one second has its launches pre-empted by F3. (R392) -/
  | readoptionTimeout
  /-- COMPOSER_SLOT_SWITCH: After 64 instructions the composer moves to the next ready slot. (R206) -/
  | composerSlotSwitch
  /-- EMIT_QUEUE_ROOM: A core issues an entry of a full queue and the waiting emit enters. (R221) -/
  | emitQueueRoom
  /-- PRIMARY_BINDING_LAPSE_END: A lapsed primary binding with a drained queue and no ct.end ends the launch with cause 30. (R213)
  -/
  | primaryBindingLapseEnd
  /-- MAILBOX_DELIVERY: A 64-byte message is delivered whole into a firmware core's mailbox. (R400) -/
  | mailboxDelivery
  /-- DBELL: The host writes a new tail index and F0 reads the new ring entries in order. (R406) -/
  | dbell
  /-- RING_CONFIG_WRITE: The host sets or disables the base and size of a host ring. (R403) -/
  | ringConfigWrite
  /-- SEQUENCE_REREAD_TIMEOUT: After 16 stale re-reads within 10 µs the entry completes with status 0x09. (R406) -/
  | sequenceRereadTimeout
  /-- LAUNCH: F0 parses and admits a launch record, assigning a launch number. (R253) -/
  | launch
  /-- END_LAUNCH: The host asks F0 to end an admitted launch. (R405) -/
  | endLaunch
  /-- REGISTER_BUFFER: F2 maps, pins and optionally duplicates a buffer. (R412) -/
  | registerBuffer
  /-- UNREGISTER_BUFFER: F2 unmaps a registered buffer. (R412) -/
  | unregisterBuffer
  /-- CONFIGURE_ORDMODE: Changes ORDMODE when no launch runs, reported in MSTAT[2]. (R413) -/
  | configureOrdmode
  /-- CONFIGURE_TELEMETRY_PAGE: Sets the address of the telemetry page. (R426) -/
  | configureTelemetryPage
  /-- CONFIGURE_POWER_CAP: Sets the power cap within 8–15 kW. (R427) -/
  | configurePowerCap
  /-- TEAR_DOWN_SPACE: F2 tears down an address space identifier in order. (R365) -/
  | tearDownSpace
  /-- LAUNCH_CLAIM: F1 claims all resources of an eligible launch at once, pre-empting lower priorities if needed. (R254) -/
  | launchClaim
  /-- RELEASE_TICK: Every named core issues its first bundle and generators start when VCLK reads T. (R255) -/
  | releaseTick
  /-- PREEMPTION: F1 stops a launch's slots and cores, drains them and saves their contexts. (R387) -/
  | preemption
  /-- RESUME: F1 restores a pre-empted launch's cores and slots and releases them on a new common tick. (R226) -/
  | resume
  /-- LAUNCH_COMPLETION: The module reports completion to F1, which waits for generators and increments the completion word.
  (R260) -/
  | launchCompletion
  /-- COMPLETION_WORD_PASSED: The completion atomic's ticket passes; F1 writes the final completion entry and evaluates
  dependences. (R407) -/
  | completionWordPassed
  /-- FAULT_END_LAUNCH: F3 ends a faulted launch and F1 cancels dependents whose threshold it would have met. (R259) -/
  | faultEndLaunch
  /-- IMAGE_LOAD: The island loads a firmware image only when both signatures verify. (R419) -/
  | imageLoad
  /-- POWER_ON: Power-on restarts an interrupted wipe from its first step. (R421) -/
  | powerOn
  /-- MODULE_RESET: The module wipes SRAMs, memory and keys in order before any other work. (R421) -/
  | moduleReset
  /-- LIFECYCLE_CHANGE: A doubly signed command moves the module to a new lifecycle state after a wipe. (R420) -/
  | lifecycleChange
  /-- DIE_STAGE_ONE_PASSED: A die passes stage one of bring-up and Twilight service may begin. (R422) -/
  | dieStageOnePassed
  /-- FULL_SERVICE_START: Every die passes stage two; launches are pre-empted, the clock raised and launches resumed. (R423) -/
  | fullServiceStart
  /-- HEARTBEAT: F5 sends a heartbeat to its four designated neighbours every 10 ms. (R424) -/
  | heartbeat
  /-- HEARTBEAT_MISS: A neighbour counts a missed beat and votes for reset after three in a row. (R424) -/
  | heartbeatMiss
  /-- RESET_VOTE: The island receives a signed reset vote and resets on three valid votes within 100 ms. (R425) -/
  | resetVote
  /-- TELEMETRY_REWRITE: F7 rewrites the telemetry page every 100 ms, sequence word last. (R426) -/
  | telemetryRewrite
  /-- POWER_CAP_LIMITING: Mean power over 1 ms above the cap makes F7 limit every sequencer's issue. (R427) -/
  | powerCapLimiting
  /-- JUNCTION_TEMPERATURE: A die junction at 105 °C limits issue, and at 115 °C power is removed from the compute dies. (R428) -/
  | junctionTemperature
  /-- THERMAL_RECOVERY: After a thermal shutdown the temperature falls below 85 °C and a module reset follows. (R428) -/
  | thermalRecovery
  /-- NOP: A slot word 0x0000_0000, or a bundle of only NOP words, issues and does nothing. (R62) -/
  | nop
  /-- HOST_MEMORY_ACCESS: The host reads or writes HBM over CXL.mem or BAR2, with back-invalidation keeping host copies current.
  (R402) -/
  | hostMemoryAccess
  /-- HOME_READ: A home agent serves a read request from a die or a remote module, recalling a modified copy, tracking it or
  granting a lease. (R355) -/
  | homeRead
  /-- FAR_LOAD_PERFORMED: A load from another core's share of cluster memory or from die scratchpad is performed when its value is
  read at that space. (R429) -/
  | farLoadPerformed
  /-- LINK_LEVEL_RETRY: A Rhodel flit that arrives with a failed CRC is retried at link level. (R418) -/
  | linkLevelRetry
  /-- POWER_CAP_LIMITING_END: The mean power falls below 95% of the cap and F7 ends issue limiting. (R427) -/
  | powerCapLimitingEnd
  deriving DecidableEq, Repr

end Sys2Proof
end

