-- ==== Sys2Proof/Machine/State.lean ====
section
/-! DEFINITION. The state of a VLS-6412 module as plain data: every core, composer, die, home agent and firmware record,
the memories, and the agenda that says which agent moves next. Default values are the reset values (R14, R250, R421; for
those the spec does not give, log 3). -/

namespace Sys2Proof.Machine

/-! ### Registers of a core -/

/-- A vector register with its format tag (R14, R19). -/
structure VReg where
  data : VData := 0
  tag : BitVec 5 := 0
  deriving DecidableEq, Repr

/-- An accumulator tile: cell (i, j) under key 128 i + j, its tag, and the k-groups accumulated (R14, R175). -/
structure Tile where
  cells : Sparse (BitVec 32) := []
  tag : BitVec 5 := 0x11
  groups : BitVec 64 := 0
  deriving DecidableEq, Repr

/-- A shape register: the active copy and its shadow (R14, R26). -/
structure ShapePair where
  active : BitVec 256 := 0
  shadow : BitVec 256 := 0
  deriving DecidableEq, Repr

/-- The register state a region's checkpoint holds (R305). Bit n of `p` is pn (bit 0 is never set); shape register r
of engine e (0 MX, 1 CA, 2 CB, 3 PF) stands under 4 e + r. -/
structure Regs where
  g : Sparse Dword := []
  p : BitVec 16 := 0
  v : Sparse VReg := []
  q : Sparse Dword := []
  roff : BitVec 4 := 0
  shapes : Sparse ShapePair := []
  deriving DecidableEq, Repr

/-- The control registers that no other part of the state gives (R27). -/
structure Ctl where
  dmem : BitVec 32 := 0
  lattab : BitVec 2 := 2
  cover : BitVec 2 := 0
  reason : BitVec 4 := 0
  rollTick : Tick := 0
  regcnt : BitVec 64 := 0
  lease : BitVec 16 := 256
  seed : BitVec 32 := 0
  frm : BitVec 2 := 0
  keyid : BitVec 6 := 0
  space : BitVec 36 := 0
  deriving DecidableEq, Repr

/-- A pending transfer: its target and the bundles remaining before it (R83, R390). -/
structure Transfer where
  target : Dword
  left : Nat
  deriving DecidableEq, Repr

/-- The trap registers, the transfers and the primary bundle address kept with them, the stream of the bundle that trapped, and
monitor mode (R27, R83, R376). -/
structure TrapRegs where
  tcause : Dword := 0
  taddr : Dword := 0
  tprov : Dword := 0
  tval : Dword := 0
  epc : Dword := 0
  kept : List Transfer := []
  resume : Dword := 0
  stream : Stream := .primary
  monitor : Bool := false
  deriving DecidableEq, Repr

/-- One epoch of a zone: the accesses pending and the maximum ticket; `none` once it has passed (R285, R10). -/
structure Epoch where
  id : Nat
  count : Nat := 0
  ticket : Option Tick := none
  deriving DecidableEq, Repr

/-- A zone register, its epochs oldest first (R14, R285). A zone of base 1 and limit 0 holds no address (R250). -/
structure Zone where
  base : Dword := 1
  limit : Dword := 0
  epochs : List Epoch := [{ id := 0 }]
  nextId : Nat := 1
  deriving DecidableEq, Repr

/-- An entry of an emit queue: a bundle and its provenance record (R216, R220). -/
structure Entry where
  bundle : Bundle
  prov : Dword
  deriving DecidableEq, Repr

/-- What a ct.fence.acq leaves behind: the zones whose accesses it holds, and the loads it waits for: counted loads by
operation number, local loads by the issue that came before the fence's (R288). -/
structure AcqHold where
  zones : BitVec 8
  loads : List Nat
  before : Nat
  deriving DecidableEq, Repr

/-- What stands at the head of one stream, beyond its bundles (R74, R129, R247, R287 to R289); `heldSlot` is the slot of the
instruction that its stretch cycles wait for (R77, R382). -/
structure StreamState where
  acq : List AcqHold := []
  vis : List (List (Nat × Nat)) := []
  fence : Option (List (Nat × Nat)) := none
  mwait : Option (Option Tick) := none
  idle : Nat := 0
  barSync : Nat := 0
  heldCycles : Nat := 0
  heldSlot : Nat := 0
  deriving DecidableEq, Repr

/-- The front of a core: where its streams take bundles from (R23, R27 STREAMCTL, R79, R83); `awaits` stands from the release of
its launch to its first cycle (R255). -/
structure Front where
  pc : Dword := 0
  transfers : List Transfer := []
  primary : List Entry := []
  secondary : List Entry := []
  fed : Bool := false
  bound : Bool := false
  paused : Bool := false
  waitCount : Nat := 0
  withhold : Bool := false
  awaits : Bool := false
  sp : StreamState := {}
  ss : StreamState := {}
  deriving DecidableEq, Repr

/-! ### Operations in flight -/

/-- A memory space (R264, R269): the local spaces of a core, cluster or die, and global memory. -/
inductive Space where
  | csp (core : Nat)
  | clm (cluster : Nat)
  | dsm (die : Nat)
  | const (core : Nat)
  | lanes (core : Nat)
  | bstore (core : Nat)
  | glob
  deriving DecidableEq, Repr

/-- The register a result goes to, by physical number (R17). -/
inductive Dest where
  | g (n : Nat)
  | mon (n : Nat)
  | p (n : Nat)
  | v (n : Nat)
  | q (n : Nat)
  | roff
  deriving DecidableEq, Repr

/-- The bundle that issued an operation: its address, or its provenance record when it was fed (R101, R166). -/
structure Origin where
  addr : Dword := 0
  fed : Bool := false
  prov : Dword := 0
  deriving DecidableEq, Repr

/-- A fixed-latency result on its way (R75): the lanes and the tag of a vector result, the steps of its stream until it
is visible, the cycles until it has arrived, the slot and the issue it comes from, the far load it waits for. -/
structure Pending where
  dest : Dest
  value : VData
  lanes : BitVec 64 := 0
  tag : Option (BitVec 5) := none
  stream : Stream
  steps : Nat
  cycles : Nat
  slot : Nat
  issue : Nat
  load : Bool := false
  far : Option Nat := none
  deriving DecidableEq, Repr

/-- One element of a load: the lane it fills, the cell of its first byte, its size and extension (R100, R155). -/
structure Elem where
  lane : Nat
  addr : Nat
  size : Nat
  signed : Bool
  deriving DecidableEq, Repr

/-- The atomic operations (R104). -/
inductive AmoOp where
  | add | and | or | xor | max | min | maxu | minu | swap | cas
  deriving DecidableEq, Repr

/-- An atomic in flight: its operation, operand, expected value and the store that follows it (R104). -/
structure Amo where
  op : AmoOp
  operand : Dword
  expected : Dword
  store : Nat
  deriving DecidableEq, Repr

/-- What a load takes when it is performed (R278, R282): its bytes, the ticket of the writes it returns, and those whose ticket is
not known yet. -/
structure Taken where
  bytes : List (BitVec 8)
  ticket : Option Tick := none
  owes : List (Nat × Nat) := []
  deriving DecidableEq, Repr

/-- A counted load not yet delivered (R76, R100, R285). `data` is set when it has been performed; `zones` are its
charges (zone, epoch). `overlay` are the bytes of held writes of its region (R306); `loose` are its cells on untracked pages (R363).
`pieces` have been performed ahead of the rest (R298). `floor` is what the load would have taken when an access behind it was
performed first, and `stale` says that a core of its own die has since written its bytes (R295). -/
structure LoadOp where
  id : Nat
  issue : Nat
  stream : Stream
  slot : Nat
  origin : Origin
  va : Dword
  dest : Option Dest
  elems : List Elem
  tag : Option (BitVec 5) := none
  overlay : List (Nat × BitVec 8) := []
  data : Option Taken := none
  pieces : List (Nat × BitVec 8) := []
  floor : Option Taken := none
  stale : Bool := false
  rq : BitVec 2 := 0
  zones : List (Nat × Nat) := []
  inRegion : Bool := false
  amo : Option Amo := none
  remote : Bool := false
  loose : List Nat := []
  device : Bool := false
  deriving DecidableEq, Repr

/-- A store that counts in st: its bytes, the granules it makes full, whether it has been performed, its charges; an
atomic's store waits for its load; `group` numbers the ct.dusk that released it (R316) (R100, R103, R280, R285, R429). A store
whose `ticket` is known stays until it is performed everywhere, no later than the ticket (R281); a completed write of the engine
of slot `slot`, under `engine`, until it is performed and has its ticket (R291). `done` are cells performed ahead of the rest
(R298). `loose` are its cells on untracked pages, which `entered` says are in the L1 (R363). -/
structure StoreOp where
  id : Nat
  issue : Nat
  stream : Stream
  slot : Nat
  origin : Origin
  space : Space
  bytes : List (Nat × BitVec 8)
  sets : List Nat := []
  clears : List Nat := []
  zones : List (Nat × Nat) := []
  rq : BitVec 2 := 0
  performed : Bool := false
  waits : Option Nat := none
  group : Nat := 0
  ticket : Option Tick := none
  engine : Bool := false
  done : List Nat := []
  remote : Bool := false
  loose : List Nat := []
  entered : Bool := false
  va : Dword := 0
  deriving DecidableEq, Repr

/-- A far local load that has not yet been read at its space (R429): its bytes and the lanes they fill. -/
structure FarLoad where
  id : Nat
  space : Space
  elems : List Elem
  overlay : List (Nat × BitVec 8) := []
  zones : List (Nat × Nat) := []
  issue : Nat := 0
  stream : Stream := .primary
  deriving DecidableEq, Repr

/-- An interval of the scoreboard (R162, R269): bytes lo to hi of a space. -/
structure Interval where
  space : Space
  lo : Nat
  hi : Nat
  write : Bool
  deriving DecidableEq, Repr

/-- A view as a command took it: the shape register and the resolved base (R167, R168). -/
structure View where
  shape : BitVec 256 := 0
  base : Nat := 0
  deriving DecidableEq, Repr

/-- The kinds of copy (R176). -/
inductive CopyKind where
  | plain | bstore | shadow | bcast | rice
  deriving DecidableEq, Repr

/-- What an engine command does, with everything it read at issue (R160). -/
inductive CmdKind where
  | mma (zero : Bool) (m : Nat) (shape : BitVec 256) (seg k0 : Nat) (cp : Bool)
  | hrot (order m : Nat) (shape : BitVec 256) (k0 : Nat)
  | drain (m : Nat) (shape : BitVec 256) (factor : Nat) (tag : BitVec 5) (rnd : Nat) (dst : Nat) (seed : BitVec 32)
  | mclr (m : Nat)
  | mstat (m dst before : Nat)
  | copy (kind : CopyKind) (src dst : View) (handle : Dword) (mode : Nat)
  | sread (src dst : View) (handle : Dword) (port block : Nat)
  | pub (handle : Dword)
  | cancel (handle : Dword)
  | transpose (src dst : View)
  | fill (dst : View) (value : Dword)
  | quantise (src dst : View) (plane : Nat) (aux : Nat) (seed : BitVec 32) (frm : BitVec 2)
  | dequantise (src dst : View) (plane : Nat) (aux : Nat) (seed : BitVec 32) (frm : BitVec 2)
  | unpack (src dst : View)
  | pack (src dst : View)
  | shuffle (src dst : View) (table : Nat)
  deriving DecidableEq, Repr

/-- An engine command issued and not complete (R160 to R165). `after` is the copy a command held by fo waits for; `done` are the
elements it has dealt with, from first to last, and `tally` the events they gave (R298, R341); `farRead` and `farWrite` say that
some of those were read or written at another module (R283). -/
structure Command where
  id : Nat
  issue : Nat
  slot : Nat
  stream : Stream
  origin : Origin
  word : SlotWord := 0
  kind : CmdKind
  ivals : List Interval := []
  zonesRead : List (Nat × Nat) := []
  zonesWrite : List (Nat × Nat) := []
  running : Bool := false
  after : Option Nat := none
  rq : BitVec 2 := 0
  inRegion : Bool := false
  group : Nat := 0
  done : List (Nat × Nat) := []
  tally : List (BitVec 8 × Nat × Nat) := []
  farRead : Bool := false
  farWrite : Bool := false
  deriving DecidableEq, Repr

/-- A handle entry being read while its bundle is held (R164): its address, and whether the read has completed. -/
structure HandleRead where
  addr : Dword
  stream : Stream
  read : Bool := false
  deriving DecidableEq, Repr

/-- A shadow page: the cell and the virtual address of its live page, its size in 16 KiB units, and its own content
(R180). -/
structure ShadowPage where
  live : Nat
  va : Nat
  units : Nat
  data : Mem
  inRegion : Bool
  deriving DecidableEq, Repr

/-- The shadow set of one handle (R180). -/
structure ShadowSet where
  handle : Dword
  pages : List ShadowPage
  deriving DecidableEq, Repr

/-- The monitor of ct.arm: the cell of the armed 256-byte line, and whether it has fired (R122). -/
structure Monitor where
  line : Nat
  fired : Bool := false
  deriving DecidableEq, Repr

/-- An uncorrectable error known and not yet raised (R101, R165). -/
structure KnownError where
  stream : Stream
  taddr : Dword
  tval : Dword
  draining : Bool := false
  deriving DecidableEq, Repr

/-- What is in flight in a core (`landed`: results that became visible in the cycle at hand, R16; `remotes`: accesses whose remote
ticket awaits its confirmation, R283; `owed`: charges of performed loads until the ticket of a write they returned is known,
R282), with the numbers of its issues and operations (log 4). -/
structure Flight where
  pend : List Pending := []
  landed : List Pending := []
  loads : List LoadOp := []
  stores : List StoreOp := []
  fars : List FarLoad := []
  cmds : List Command := []
  handles : List HandleRead := []
  errors : List KnownError := []
  remotes : List (Nat × List (Nat × Nat)) := []
  owed : List (List (Nat × Nat) × (Nat × Nat)) := []
  issue : Nat := 0
  nextOp : Nat := 0
  deriving DecidableEq, Repr

/-- The outstanding-operation counters (R272). -/
structure Counters where
  ld : BitVec 6 := 0
  st : BitVec 6 := 0
  cp : BitVec 6 := 0
  mx : BitVec 6 := 0
  deriving DecidableEq, Repr

/-! ### Regions -/

/-- An alias guard: bytes lo to hi of a space, and the issue of the load that set it (R311). -/
structure Guard where
  space : Space
  lo : Nat
  hi : Nat
  issue : Nat
  deriving DecidableEq, Repr

/-- A line of the load set, with its lease under .si (R312). `bare` is set when an engine of the core has read it: the L1 then
holds the mark without the data. -/
structure LoadMark where
  line : Nat
  lease : Option Tick
  bare : Bool := false
  deriving DecidableEq, Repr

/-- A write held in the region store buffer, and the 16-byte entries it takes (R306). -/
structure HeldWrite where
  store : StoreOp
  entries : Nat
  ranges : List (Nat × Nat)
  deriving DecidableEq, Repr

/-- A held effect, in program order (R306 to R308). -/
inductive Held where
  | write (w : HeldWrite)
  | take (space : Space) (granule : Nat)
  | cmd (c : Command) (ranges : List (Nat × Nat × Bool))
  deriving DecidableEq, Repr

/-- An open region: the recovery path, the checkpoint, held effects, guards, load set and reservations (R305 to R313).
`roll` is the reason of a rollback that has been taken and waits for its loads (R314, R315); `fault` is the fatal fault of a
command issued before it, cause and address, which is reported after the rollback (R379, log 108). -/
structure Region where
  recovery : Dword
  regs : Regs
  tags : List (BitVec 5)
  held : List Held := []
  guards : Sparse Guard := []
  marks : List LoadMark := []
  reserved : List (Space × Nat) := []
  pendingRoll : Option (BitVec 4) := none
  roll : Option (BitVec 4) := none
  fault : Option (Command × BitVec 8 × Dword) := none
  deriving DecidableEq, Repr

/-! ### Memories, caches and queues of a core -/

/-- A local space with full-empty bits: its bytes and the full granules of 16 bytes (R267). -/
structure Store where
  bytes : Mem := []
  full : Sparse Bool := []
  deriving DecidableEq, Repr

/-- The local memories of one core (R264). -/
structure LocalMem where
  csp : Store := {}
  const : Mem := []
  lanes : Mem := []
  bstore : Mem := []
  bdirty : Bool := false
  deriving DecidableEq, Repr

/-- A TLB entry: the space it is tagged with, the page number of its first byte and its size as shifts of 16 KiB pages,
and the leaf (R359). -/
structure TlbEntry where
  space : BitVec 36
  page : Nat
  shift : Nat
  leaf : BitVec 64
  deriving DecidableEq, Repr

/-- The states of an L1 sector (R348); a leased sector carries its expiry. -/
inductive Sector where
  | invalid | shared | exclusive | modified
  | leased (expiry : Tick)
  deriving DecidableEq, Repr

/-- A sector of an untracked page held in the L1: its 64 bytes, whether it is dirty, its lease under .si (R346, R363). One that is
`leaving` has been evicted, and its data is on its way to the home. -/
structure UntrackedSector where
  sector : Nat
  data : BitVec 512
  dirty : Bool
  lease : Option Tick := none
  leaving : Bool := false
  deriving DecidableEq, Repr

/-- The caches of one core (R274, R348, R359, R363). Data lines are keyed by cell / 256; a line has four sectors; `order` lists the
lines used, the least recently used first (R367). -/
structure Caches where
  tlb : List TlbEntry := []
  l1 : Sparse (List Sector) := []
  order : List Nat := []
  untracked : List UntrackedSector := []
  icache : List (Nat × BitVec 2048) := []
  lineBuf : Option (Nat × BitVec 2048) := none
  deriving DecidableEq, Repr

/-- A record of the trap queue (R380). -/
structure TrapRec where
  bits : BitVec 512
  fatal : Bool
  replay : Bool
  deriving DecidableEq, Repr

/-- The trap queue and the indices of the statistics queue (R380, R382, R385). -/
structure Queues where
  trapq : List TrapRec := []
  trapHead : Nat := 0
  stqh : BitVec 8 := 0
  stqt : BitVec 8 := 0
  dropped : BitVec 16 := 0
  deriving DecidableEq, Repr

/-- The states of a registry entry (R391). -/
inductive Status where
  | idle | running | frozen | saved | faulted | exhausted | ended
  deriving DecidableEq, Repr

/-- An entry of the context registry (R391), of a core or of a slot, with the mapped address of a core's statistics ring (R382) and
the range table of its space (R412). -/
structure Registry where
  status : Status := .idle
  launch : BitVec 32 := 0
  saveArea : Nat := 0
  trapRing : Nat := 0
  statRing : Nat := 0
  statVa : Dword := 0
  rangeTable : Nat := 0
  deriving DecidableEq, Repr

/-- One core. `releasing` holds what a ct.dusk has committed and not yet released, under the number `releaseGroup` (R316). -/
structure CoreState where
  regs : Regs := {}
  mon : Sparse Dword := []
  tiles : Sparse Tile := []
  ctl : Ctl := {}
  trap : TrapRegs := {}
  zones : List Zone := List.replicate 8 {}
  front : Front := {}
  cnt : Counters := {}
  arrive : BitVec 5 := 0
  monitor : Option Monitor := none
  flight : Flight := {}
  shadows : List ShadowSet := []
  region : Option Region := none
  releasing : List Held := []
  releaseGroup : Nat := 0
  loc : LocalMem := {}
  caches : Caches := {}
  queues : Queues := {}
  reg : Registry := {}
  replay : List (Stream × BitVec 8 × Dword) := []
  twilight : Bool := false
  limitPhase : Nat := 0
  deriving DecidableEq, Repr

/-! ### Composers -/

/-- Why a slot does not issue (R206), or that it does. -/
inductive HartStatus where
  | free | ready | waitRoom | waitOccupancy | waitMemory | wfi | stopped
  deriving DecidableEq, Repr

/-- A store of a slot whose ticket has not passed (R207): its bytes while it is not performed, and whether it writes code
(R218). -/
structure HartStore where
  id : Nat
  bytes : List (Nat × BitVec 8)
  performed : Bool := false
  ticket : Option Tick := none
  code : Bool := false
  deriving DecidableEq, Repr

/-- One generator slot: its RISC-V state, staging bundle and custom CSRs (R202 to R208, R225), and its registry entry (R391). `waits`
names the queue a slot waits for, core and queue, and the occupancy it waits for (R215, R221). -/
structure Hart where
  x : Sparse Dword := []
  pc : Dword := 0
  user : Bool := false
  status : HartStatus := .free
  mie : Bool := false
  mpie : Bool := false
  mpp : Bool := false
  msie : Bool := false
  msip : Bool := false
  mtvec : Dword := 0
  mepc : Dword := 0
  mcause : Dword := 0
  mtval : Dword := 0
  mscratch : Dword := 0
  cycle : Dword := 0
  instret : Dword := 0
  stage : Bundle := 0
  eprog : BitVec 16 := 0
  eseq : BitVec 28 := 0
  eprov : Dword := 0
  mgspace : BitVec 42 := 0
  mgrant : BitVec 8 := 0
  mbind : BitVec 8 := 0
  mgbase : Dword := 0
  lapsed : BitVec 8 := 0
  lastProv : Dword := 0
  resv : Option (Nat × Nat) := none
  stores : List HartStore := []
  waits : Option (Nat × Nat × Nat) := none
  nextOp : Nat := 0
  launch : BitVec 32 := 0
  fault : Option (BitVec 512) := none
  reg : Registry := {}
  deriving DecidableEq, Repr

/-- A core whose primary binding lapsed when its generator ended: the slot, the launch, and the record of cause 30 that a drained
queue would give (R213). -/
structure Lapse where
  core : Nat
  slot : Nat
  launch : BitVec 32
  record : BitVec 512
  deriving DecidableEq, Repr

/-- A composer: its eight slots, the current one and the instructions it has taken since the last switch (R206), and the primary
bindings that have lapsed (R213). -/
structure Composer where
  harts : Sparse Hart := []
  current : Nat := 0
  run : Nat := 0
  watch : List Lapse := []
  deriving DecidableEq, Repr

/-! ### Dies, homes and messages -/

/-- A request to a slice (R351): the core, the sector or, from 4 on, all four; the kind of a write, or none for a read; whether it
is of an engine (R430), or a read under .si; the store of the core that it is for. -/
structure DirReq where
  core : Nat
  part : Nat
  kind : Option WriteKind
  flag : Bool := false
  store : Option Nat := none
  deriving DecidableEq, Repr

/-- A die directory entry (R349). Sharers are pointers (core-in-die numbers) or, in coarse mode, a bit for each cluster;
`count` messages are outstanding for the request `req`, behind which others wait (R351). `way` and `use` are the place of the
line in its set of the L2 and when it was last used; `retained` names the range that keeps it (R276). -/
structure DirEntry where
  coarse : Bool := false
  ptrs : List Nat := []
  clusters : BitVec 4 := 0
  owners : List (Option Nat) := [none, none, none, none]
  lease : Option Tick := none
  count : Nat := 0
  req : Option DirReq := none
  waiting : List DirReq := []
  permission : Bool := false
  retained : Option Nat := none
  way : Nat := 0
  use : Nat := 0
  deriving DecidableEq, Repr

/-- A home directory entry (R354). `waiting` are the dies whose request the home has not taken up, as another die is being served
for the line. -/
structure HomeEntry where
  dies : BitVec 64 := 0
  owner : Option Nat := none
  remote : List Nat := []
  lease : Option Tick := none
  waiting : List Nat := []
  deriving DecidableEq, Repr

/-- A message between an L1 and its slice, named by the core (R351, R352): an eviction notice carries the sectors it writes; or
between the home and a die that is to drop a line for the owned write of die `writer` (R354). -/
inductive Msg where
  | invalidate (core line sector : Nat)
  | recall (core line sector : Nat)
  | ack (core line sector : Nat)
  | notice (core line : Nat) (written : List Nat)
  | drop (die line writer : Nat)
  | dropped (die line writer : Nat)
  deriving DecidableEq, Repr

/-- A store performed at a die ahead of the other observers (R281, R296): the core and the number of the store, and its bytes. -/
structure Early where
  core : Nat
  id : Nat
  bytes : List (Nat × BitVec 8)
  deriving DecidableEq, Repr

/-- An upper level that the walkers of a die keep (R359): for a space and a 2 MiB region, the level-0 table. -/
structure Walked where
  space : BitVec 36
  region : Nat
  table : Nat
  deriving DecidableEq, Repr

/-- A die: its scratchpad and the launch that claims it, residency registers (12, as R27 orders them) and what each of the 16
slices still uses, accumulators, directory with the count of its uses, stores performed here first, service entry, steward,
bring-up (R256, R275, R349, R376, R392, R422). -/
structure Die where
  dsm : Store := {}
  claim : Option (BitVec 32) := none
  rsv : Sparse Dword := []
  rsvSlice : Sparse (Sparse Dword) := []
  acc : Sparse Nat := []
  dir : Sparse DirEntry := []
  uses : Nat := 0
  early : List Early := []
  service : Dword := 0
  steward : Bool := true
  stage : Nat := 0
  shootdown : Bool := false
  walks : List Walked := []
  deriving DecidableEq, Repr

/-- A cluster: its memory and its middle instruction cache (R264, R274). -/
structure Cluster where
  clm : Store := {}
  icache : List (Nat × BitVec 2048) := []
  deriving DecidableEq, Repr

/-- A performed write whose ticket has not passed (R282): the cell, the ticket once it is known, the agent that wrote (a core, or
2,048 + a slot), the number of the write, and the stream, if a stream of a core wrote. -/
structure Recent where
  cell : Nat
  tick : Option Tick
  agent : Nat
  op : Nat
  stream : Option Stream
  deriving DecidableEq, Repr

/-! ### Firmware, host and fleet -/

/-- The states of a launch in F0, F1 and F3 (R254 to R260). -/
inductive LaunchStatus where
  | waiting | claimed | running | stopping | saved | completing | ended
  deriving DecidableEq, Repr

/-- A core entry of a launch (R409). -/
structure LaunchCore where
  core : Nat
  fed : Bool
  flags : BitVec 5
  dmem : BitVec 32
  start : Dword
  g2 : Dword
  args : List Dword
  deriving DecidableEq, Repr

/-- A generator entry of a launch, with the slot F1 chose (R410); `interrupted` says that a software interrupt stopped the saved
slot (R226). -/
structure LaunchGen where
  comp : Nat
  grants : BitVec 8
  binds : BitVec 8
  arg : Dword
  sp : Dword
  hart : Option Nat := none
  saved : Option Hart := none
  interrupted : Bool := false
  deriving DecidableEq, Repr

/-- What of a saved core stands outside its save area (R30, R249, R283, R385): arrival flags, counts of k-groups, zones of a
standing ct.fence.vis of each stream, accesses that await a confirmation, its queues, its shadow sets, the stream whose bundle
service code deals with, and the maximum ticket of each zone, none once it has passed (R10). -/
structure SavedCore where
  core : Nat
  arrive : BitVec 5
  groups : List (BitVec 64)
  visPrimary : BitVec 8
  visSecondary : BitVec 8
  remotes : List (Nat × List (Nat × Nat))
  queues : Queues
  nextOp : Nat
  shadows : List ShadowSet := []
  stream : Stream := .primary
  tickets : List (Option Tick) := []
  deriving DecidableEq, Repr

/-- The image of a local space or of the constant store: type 3 of space 1, 2 or 3, or type 4 (R230, R232). -/
structure Image where
  space : Nat
  addr : Nat
  bytes : List (BitVec 8)
  deriving DecidableEq, Repr

/-- A launch that F0 has admitted (R405, R408). `eligible` is its place in the order of eligibility (R257); `arrived` counts the
arrivals of a domain's phase under 1024 level + unit (R245), `others` the level-5 members of the other modules of its job and
`away` those of their arrivals that this phase has counted (R243); `windows` and `leaves` are the windows onto its die scratchpads
(R266); `rolled` are the cores in which pre-emption rolls a region back (R390); `slotBase` is where the save areas of its generators
lie (R391); `paused` says that the start of full service pre-empted it (R423). -/
structure Launch where
  number : BitVec 32
  status : LaunchStatus := .waiting
  eligible : Option Nat := none
  ring : Nat
  seq : BitVec 16
  priority : Nat
  space : BitVec 36
  keyid : BitVec 6
  completion : Nat
  deps : List (Nat × Nat)
  lease : BitVec 16
  frm : BitVec 2
  seed : BitVec 32
  claims : BitVec 64
  grants : List (Nat × Nat × Nat)
  domain : Nat
  modules : Nat
  cores : List LaunchCore
  gens : List LaunchGen
  images : List Image := []
  gentry : Dword := 0
  handles : Dword := 0
  lattab : BitVec 2 := 2
  cover : BitVec 2 := 0
  tick : Option Tick := none
  ticket : Option Tick := none
  arrived : Sparse Nat := []
  members : Sparse Nat := []
  others : Sparse Nat := []
  away : Sparse Nat := []
  windows : List (Nat × Nat) := []
  leaves : List (Nat × BitVec 64) := []
  reported : List Nat := []
  rolled : List Nat := []
  restricted : Bool := false
  paused : Bool := false
  started : Nat := 0
  saved : List SavedCore := []
  savedDsm : List (Nat × Store) := []
  saveBase : Nat := 0
  trapBase : Nat := 0
  statBase : Nat := 0
  statVa : Dword := 0
  slotBase : Nat := 0
  deriving DecidableEq, Repr

/-- A host ring (R403, R404): RING_n, the count of entries F0 has taken since the ring was enabled, the count the host has
announced, and the count of completion entries written. -/
structure Ring where
  value : BitVec 64 := 0
  head : Nat := 0
  tail : Nat := 0
  comp : Nat := 0
  deriving DecidableEq, Repr

/-- A registered buffer: its table entries and its physical ranges (R412); `leaving` while its unmapping is being shot down
(R359). -/
structure Buffer where
  space : BitVec 36
  va : Nat
  size : Nat
  rdup : Bool
  tables : List (Nat × BitVec 64)
  ranges : List (Nat × Nat)
  leaving : Bool := false
  deriving DecidableEq, Repr

/-- A read-duplicate collapse that waits for its shootdown (R361): the space, the 64 KiB group, and the copies to be freed. -/
structure Collapse where
  space : BitVec 36
  group : Nat
  copies : List (Nat × Nat)
  deriving DecidableEq, Repr

/-- What F2 holds of a space: the root table in each module, and, while new launches are refused, the ring and the sequence of
the entry that tears it down, with the keys to retire once its translations are being shot down (R357, R365). -/
structure SpaceRec where
  roots : Sparse Nat := []
  generation : BitVec 16 := 0
  closing : Option (Nat × BitVec 16) := none
  keys : Option (List Nat) := none
  rangeTable : Nat := 0
  deriving DecidableEq, Repr

/-- An attestation quote of F6 (R419, R420): the request, the module state it is made in, and its two signatures. -/
structure Quote where
  request : BitVec 512
  installation : Bool
  ed25519 : Nat
  mlDsa : Nat
  deriving DecidableEq, Repr

/-- The firmware complex (R399 to R415). `mailHeld` are the messages whose senders a full mailbox holds (R400); `awaits` the other
modules that have not acknowledged a shootdown (R359); `failed` the images that failed verification, 0 firmware, 1 identity, 2
attestation (R419). `windows` are the global windows onto die scratchpads, die and first cell (R266); `freed`
the physical ranges, address and length, that F2 has freed (R361). -/
structure Firmware where
  launches : List Launch := []
  nextLaunch : BitVec 32 := 1
  starts : Nat := 0
  rings : Sparse Ring := []
  mailboxes : Sparse (List (BitVec 512)) := []
  mailHeld : Sparse (List (BitVec 512)) := []
  quotes : List Quote := []
  logs : List (BitVec 256) := []
  spaces : Sparse SpaceRec := []
  buffers : List Buffer := []
  retired : List (BitVec 6) := []
  keyDraw : Nat := 0
  malformed : List Nat := []
  collapses : List Collapse := []
  freed : List (Nat × Nat) := []
  windows : List (Nat × Nat) := []
  namespaces : List (Nat × Nat × Nat) := []
  unreachable : List Nat := []
  registryBase : Nat := 0
  awaits : List Nat := []
  failed : List Nat := []
  imageVersion : BitVec 32 := 0
  deriving DecidableEq, Repr

/-- The fleet side: MSTAT, ORDMODE, lifecycle and identity keys, power, telemetry and votes (R294, R403, R420 to R428). `neighbours` are
the four designated neighbours of this module, `watched` the modules whose designated neighbour it is (R424). -/
structure Fleet where
  fullService : Bool := false
  twilight : Bool := false
  tempered : Bool := false
  temperedPeers : List Nat := []
  configured : Option Bool := none
  lifecycle : Lifecycle := .provisioned
  identityKeys : Bool := true
  wiping : Bool := false
  cause : BitVec 8 := 0
  teleAddr : Dword := 0
  teleSeq : Dword := 0
  cap : BitVec 32 := 15000
  limit : Nat := 16
  thermal : Nat := 16
  hot : Bool := false
  throttled : Dword := 0
  mismatches : Sparse (BitVec 16) := []
  drops : Sparse (BitVec 16) := []
  number : BitVec 10 := 0
  votes : List (Nat × Nat) := []
  neighbours : List Nat := []
  watched : List Nat := []
  misses : Sparse Nat := []
  voted : List Nat := []
  beats : Nat := 0
  retries : Nat := 0
  deriving DecidableEq, Repr

/-- The module (R1), less what only says who moves next. -/
structure Mach where
  vclk : Tick := 0
  mem : Mem := []
  cores : Sparse CoreState := []
  clusters : Sparse Cluster := []
  dies : Sparse Die := []
  comps : Sparse Composer := []
  homes : Sparse HomeEntry := []
  bounds : Sparse Tick := []
  msgs : List Msg := []
  recent : List Recent := []
  fw : Firmware := {}
  fleet : Fleet := {}
  fresh : Nat := 0
  deriving DecidableEq, Repr

/-! ### Traps and the issue being evaluated -/

/-- A trap found at issue: cause, flags, registers (R374). -/
structure Trap where
  cause : BitVec 8
  fatal : Bool := false
  replay : Bool := false
  taddr : Dword := 0
  tval : Dword := 0
  draining : Bool := false
  deriving DecidableEq, Repr

/-- What a held bundle leaves in the state while it stands at issue: nothing; the deadline of its mwait (R123); the handle
entry it has asked for (R164); nothing, for a ct.end, which occupies no slot meanwhile (R78); a cycle of the scoreboard
hold (R271). -/
inductive HoldMark where
  | plain
  | mwait (deadline : Option Tick)
  | handle (addr : Dword)
  | ending
  | intervals
  deriving DecidableEq, Repr

/-- What a word does when it does not simply take effect: it traps, holds its stream, or rolls the region back. -/
inductive Stop where
  | trap (t : Trap)
  | hold (mark : HoldMark)
  | roll (reason : BitVec 4)
  deriving DecidableEq, Repr

/-- A statistics event, before it is stamped (R382, R383). -/
structure Event where
  kind : BitVec 8
  slot : Nat
  stream : Stream
  count : Nat
  first : Nat
  detail : BitVec 32 := 0
  deriving DecidableEq, Repr

/-- The issue being evaluated (R72, R375): the core, the module as every read of the issue sees it, the words, what
they asked for, the events they append, and the trap that follows the bundle (R109). -/
structure Issue where
  core : Nat
  stream : Stream
  pre : Mach
  back : Mach
  words : List (Stream × Instr)
  origins : List (Stream × Origin)
  stops : List (Stream × Nat × Stop) := []
  events : List Event := []
  after : Option (Stream × Trap) := none
  dusk : Bool := false
  ends : Bool := false
  transfer : Option Dword := none
  ctWord : Option (BitVec 32) := none
  eret : Bool := false
  deriving DecidableEq, Repr

/-- The operands of an event: the agent it concerns (a core, die, composer, ring, launch, neighbour or port), the item
of that agent (an operation, line, slot, slice or zone) and its part (a sector), and what the outside world or the
firmware chooses. -/
structure EventArgs where
  agent : Nat := 0
  item : Nat := 0
  part : Nat := 0
  tick : Tick := 0
  word : BitVec 64 := 0
  flag : Bool := false
  stream : Stream := .primary
  kind : WriteKind := .owned
  lifecycle : Lifecycle := .provisioned
  message : BitVec 512 := 0
  bytes : List (BitVec 8) := []
  cells : List (Nat × BitVec 8) := []
  tables : List (Nat × BitVec 64) := []
  ranges : List (Nat × Nat) := []
  addrs : List (BitVec 64) := []
  deriving DecidableEq, Repr

/-- Who moves: a core for one cycle, a composer for one instruction, or an event of the opcode table (log 1). -/
inductive Action where
  | cycle (core : Nat)
  | compose (comp : Nat)
  | event (i : Instr) (arg : EventArgs)
  deriving DecidableEq, Repr

/-- The whole state: the module, the agenda of agents that move next, the issue or the slot being evaluated, and the
operands of the event being evaluated (log 1, log 6). -/
structure State where
  mach : Mach := {}
  agenda : List Action := []
  iss : Option Issue := none
  core : Nat := 0
  hart : Nat := 0
  arg : EventArgs := {}
  deriving DecidableEq, Repr

/-- Why the machine stops with a fault. -/
inductive Fault where
  /-- The agenda names a core or a composer that the module does not have (R1, R201). Raised by `move`; safe: no such agent
  exists. -/
  | noSuchAgent
  deriving DecidableEq, Repr

/-- Why an instruction has no meaning. -/
inductive Refusal where
  /-- Raised by an arm of `exec` whose instruction is not modelled; safe: nothing is claimed of it. -/
  | notModelled (mnemonic : String)
  deriving DecidableEq, Repr

/-- The module right after reset: every field at the value of R14, R250 and R421, or of log 3. -/
def State.reset : State := {}

end Sys2Proof.Machine
end

