-- ==== Sys2Proof/Machine/Access.lean ====
section
/-! DEFINITION. Reaching the agents of the module, the registers of a core under rotation, ticks, latencies and the landing
of fixed-latency results. -/

namespace Sys2Proof.Machine

/-! ### Agents -/

/-- Core `c` of the module; a core that is not listed is as reset left it. -/
def Mach.core (m : Mach) (c : Nat) : CoreState := Sparse.get {} m.cores c

def Mach.setCore (m : Mach) (c : Nat) (x : CoreState) : Mach := { m with cores := Sparse.put m.cores c x }

def Mach.modCore (m : Mach) (c : Nat) (f : CoreState → CoreState) : Mach := m.setCore c (f (m.core c))

/-- Apply a function to every core that the state lists. -/
def Mach.mapCores (m : Mach) (f : Nat → CoreState → CoreState) : Mach :=
  { m with cores := m.cores.map (fun e => (e.1, f e.1 e.2)) }

def Mach.cluster (m : Mach) (k : Nat) : Cluster := Sparse.get {} m.clusters k

def Mach.modCluster (m : Mach) (k : Nat) (f : Cluster → Cluster) : Mach :=
  { m with clusters := Sparse.put m.clusters k (f (m.cluster k)) }

def Mach.die (m : Mach) (d : Nat) : Die := Sparse.get {} m.dies d

def Mach.modDie (m : Mach) (d : Nat) (f : Die → Die) : Mach := { m with dies := Sparse.put m.dies d (f (m.die d)) }

def Mach.comp (m : Mach) (k : Nat) : Composer := Sparse.get {} m.comps k

def Mach.modComp (m : Mach) (k : Nat) (f : Composer → Composer) : Mach :=
  { m with comps := Sparse.put m.comps k (f (m.comp k)) }

def Composer.hart (k : Composer) (h : Nat) : Hart := Sparse.get {} k.harts h

/-- Slot `h` of the module: slot h mod 8 of composer h div 8 (R201, mhartid). -/
def Mach.hart (m : Mach) (h : Nat) : Hart := (m.comp (h / 8)).hart (h % 8)

def Mach.modHart (m : Mach) (h : Nat) (f : Hart → Hart) : Mach :=
  m.modComp (h / 8) (fun k => { k with harts := Sparse.put k.harts (h % 8) (f (k.hart (h % 8))) })

/-- The die, the cluster of the module and the core-in-cluster number of a core (R27 LOC, R201). -/
def dieOf (c : Nat) : Nat := c / 16
def clusterOf (c : Nat) : Nat := c / 4
def inCluster (c : Nat) : Nat := c % 4

/-- The core belongs to a running launch (R265, R391). -/
def CoreState.running (c : CoreState) : Bool := c.reg.status = .running

/-! ### Ticks (R10) -/

/-- Tick `a` is at or after tick `b`. -/
def tickGe (a b : Tick) : Bool := (a - b).toNat < 2 ^ 47

/-- A ticket has passed at `now`; an absent one has (R278). -/
def passed (now : Tick) : Option Tick → Bool
  | none => true
  | some t => tickGe now t

/-- The later of two tickets. -/
def laterTick : Option Tick → Option Tick → Option Tick
  | none, b => b
  | a, none => a
  | some a, some b => if tickGe a b then some a else some b

/-! ### Rotation (R17) -/

/-- The physical scalar register of a logical name. -/
def gPhys (roff : BitVec 4) (n : BitVec 6) : Nat :=
  if 32 ≤ n.toNat ∧ n.toNat ≤ 47 then 32 + (n.toNat - 32 + 16 - roff.toNat) % 16 else n.toNat

/-- The physical vector register of a logical name. -/
def vPhys (roff : BitVec 4) (n : BitVec 5) : Nat :=
  if 16 ≤ n.toNat ∧ n.toNat ≤ 23 then 16 + (n.toNat - 16 + 16 - roff.toNat) % 8 else n.toNat

/-- The physical predicate register of a logical name. -/
def pPhys (roff : BitVec 4) (n : BitVec 4) : Nat :=
  if 8 ≤ n.toNat then 8 + (n.toNat - 8 + 16 - roff.toNat) % 8 else n.toNat

/-! ### Register reads (R14, R15, R377) -/

/-- A physical scalar register; g0 reads zero. -/
def Regs.gAt (r : Regs) (n : Nat) : Dword := if n = 0 then 0 else Sparse.get 0 r.g n

/-- A physical predicate; p0 is always true. -/
def Regs.pAt (r : Regs) (n : Nat) : Bool := n = 0 || bit r.p n

/-- A physical vector register. -/
def Regs.vAt (r : Regs) (n : Nat) : VReg := Sparse.get {} r.v n

/-- A lane mask; q0 is all ones. -/
def Regs.qAt (r : Regs) (n : Nat) : BitVec 64 := if n = 0 then BitVec.allOnes 64 else Sparse.get 0 r.q n

/-- The scalar register a name reads: in monitor mode g48–g63 name the monitor bank (R377). -/
def CoreState.g (c : CoreState) (n : BitVec 6) : Dword :=
  if c.trap.monitor && 48 ≤ n.toNat then Sparse.get 0 c.mon n.toNat else c.regs.gAt (gPhys c.regs.roff n)

def CoreState.p (c : CoreState) (n : BitVec 4) : Bool := c.regs.pAt (pPhys c.regs.roff n)

def CoreState.v (c : CoreState) (n : BitVec 5) : VReg := c.regs.vAt (vPhys c.regs.roff n)

def CoreState.q (c : CoreState) (n : BitVec 3) : BitVec 64 := c.regs.qAt n.toNat

/-- The tile m. -/
def CoreState.tile (c : CoreState) (n : Nat) : Tile := Sparse.get {} c.tiles n

/-- The shape register `r` of engine `e` (0 MX, 1 CA, 2 CB, 3 PF). -/
def Regs.shape (x : Regs) (e r : Nat) : ShapePair := Sparse.get {} x.shapes (4 * e + r)

/-! ### Destinations: the physical register chosen at issue (R17); g0, p0 and q0 discard writes (R15) -/

def CoreState.destG (c : CoreState) (n : BitVec 6) : Option Dest :=
  if n = 0 then none
  else if c.trap.monitor && 48 ≤ n.toNat then some (.mon n.toNat)
  else some (.g (gPhys c.regs.roff n))

def CoreState.destP (c : CoreState) (n : BitVec 4) : Option Dest :=
  if n = 0 then none else some (.p (pPhys c.regs.roff n))

def CoreState.destV (c : CoreState) (n : BitVec 5) : Option Dest := some (.v (vPhys c.regs.roff n))

def CoreState.destQ (_c : CoreState) (n : BitVec 3) : Option Dest := if n = 0 then none else some (.q n.toNat)

/-! ### Register writes -/

/-- Write a register by physical number: under `lanes` for a vector register, with its tag from the same write. -/
def writeDest (c : CoreState) (d : Dest) (value : VData) (lanes : BitVec 64) (tag : Option (BitVec 5)) : CoreState :=
  match d with
  | .g n => { c with regs.g := Sparse.set 0 c.regs.g n (value.setWidth 64) }
  | .mon n => { c with mon := Sparse.set 0 c.mon n (value.setWidth 64) }
  | .p n => { c with regs.p := setBit c.regs.p n (bit value 0) }
  | .v n =>
    let old := c.regs.vAt n
    let new : VReg := { data := mergeLanes lanes value old.data, tag := tag.getD old.tag }
    { c with regs.v := Sparse.set {} c.regs.v n new }
  | .q n => { c with regs.q := Sparse.set 0 c.regs.q n (value.setWidth 64) }
  | .roff => { c with regs.roff := value.setWidth 4 }

/-- The class and number of a register as a write-conflict event names it (R383). -/
def Dest.conflictCode : Dest → Nat
  | .g n => n
  | .mon n => n
  | .p n => 64 + n
  | .v n => 128 + n
  | .q n => 192 + n
  | .roff => 0

/-! ### Latencies (R75) -/

/-- The classes of fixed latency. -/
inductive LatClass where
  | A | B | C | D | E | F | G | H | I | J | K
  deriving DecidableEq, Repr

/-- The latency of table 1. -/
def LatClass.table1 : LatClass → Nat
  | .A => 1 | .B => 3 | .C => 18 | .D => 4 | .E => 2 | .F => 2 | .G => 3 | .H => 4 | .I => 6 | .J => 3 | .K => 6

/-- The latency of table 2, which is the true latency of this part. -/
def LatClass.table2 : LatClass → Nat
  | .A => 1 | .B => 4 | .C => 22 | .D => 5 | .E => 2 | .F => 2 | .G => 4 | .H => 5 | .I => 8 | .J => 4 | .K => 8

/-- The latency of the table that LATTAB names. -/
def latency (lattab : BitVec 2) (k : LatClass) : Nat := if lattab = 1 then k.table1 else k.table2

/-! ### Fixed-latency results (R75 to R77) -/

/-- A guard is cleared when a write to its register takes effect from an operation issued after the load (R311). -/
def clearGuard (c : CoreState) (d : Dest) (issue : Nat) : CoreState :=
  match d, c.region with
  | .g n, some r =>
    { c with region := some { r with guards := r.guards.filter (fun e => e.1 ≠ n || decide (issue ≤ e.2.issue)) } }
  | _, _ => c

/-- Make one result visible in its register. -/
def landOne (c : CoreState) (p : Pending) : CoreState :=
  clearGuard (writeDest c p.dest p.value p.lanes p.tag) p.dest p.issue

/-- Later issues, and within one issue higher slots, come last, so that their write prevails (R16). -/
def landsBefore (a b : Pending) : Bool := a.issue < b.issue || (a.issue = b.issue && a.slot ≤ b.slot)

/-- Insert a result in the order of R16. -/
def insertPending (p : Pending) : List Pending → List Pending
  | [] => [p]
  | x :: r => if landsBefore x p then x :: insertPending p r else p :: x :: r

def sortPending (l : List Pending) : List Pending := l.foldl (fun acc p => insertPending p acc) []

/-- Make a list of results visible in one cycle, in the order of R16. -/
def landAll (c : CoreState) (l : List Pending) : CoreState := (sortPending l).foldl landOne c

/-- The core as a stream reads it: of the other stream's results on their way it sees the old or the new value, unpredictably
(R75, log 7). -/
def CoreState.seenBy (x : CoreState) (s : Stream) (n : Nat) : CoreState :=
  let seen := x.flight.pend.zipIdx.filter (fun e => decide (e.1.stream ≠ s) && e.1.far.isNone && Config.seesPending n e.2)
  (sortPending (seen.map (·.1))).foldl (fun y p => writeDest y p.dest p.value p.lanes p.tag) x

/-- The pairs of results that take effect in one cycle and name one register (R16): one write-conflict event each. `meet` says
which pairs do. DESIGN CHOICE (log 110): writes of ROFF and of shape shadows, which R383 does not
name, give none. -/
def conflicts (meet : Pending → Pending → Bool) (stream : Stream) : List Pending → List Event
  | [] => []
  | p :: r =>
    (match r.find? (fun x => p.dest ≠ .roff && meet p x) with
      | some x => [{ kind := 0x33, slot := x.slot, stream := stream, count := 1, first := 0,
                     detail := BitVec.ofNat 32 (p.dest.conflictCode + 512 * x.slot + 4096 * p.slot) }]
      | none => []) ++ conflicts meet stream r

/-- Read the bytes of an element from what a far load returned. -/
def elemValue (e : Elem) (bytes : List (BitVec 8)) : Dword := extendTo64 e.signed (8 * e.size) (ofBytes bytes)

/-- Push a fixed-latency result (R75), `late` cycles past the true latency. A write to g0, p0 or q0 names no destination and is
discarded (R15). -/
def pushResult (c : CoreState) (stream : Stream) (slot : Nat) (k : LatClass) (d : Option Dest) (value : VData)
    (lanes : BitVec 64 := BitVec.allOnes 64) (tag : Option (BitVec 5) := none) (load : Bool := false)
    (far : Option Nat := none) (late : Nat := 0) : CoreState :=
  match d with
  | none => c
  | some d => { c with flight.pend := c.flight.pend ++
      [{ dest := d, value := value, lanes := lanes, tag := tag, stream := stream, steps := latency c.ctl.lattab k,
         cycles := k.table2 + late, slot := slot, issue := c.flight.issue, load := load, far := far }] }

/-- One cycle passes for every result on its way. -/
def passCycle (c : CoreState) : CoreState :=
  { c with flight.pend := c.flight.pend.map (fun p => { p with cycles := p.cycles - 1 }), flight.landed := [] }

/-- A result of the stream reaches its last step in this cycle and has not arrived. -/
def lateResult (stream : Stream) (p : Pending) : Bool := p.stream = stream && p.steps ≤ 1 && (0 < p.cycles || p.far.isSome)

/-- A result of the stream is late: the stream is stretched (R77). -/
def stretched (c : CoreState) (stream : Stream) : Bool := c.flight.pend.any (lateResult stream)

/-- Results become visible in the cycle at hand; `rest` stay on their way. Those that the same cycle has already made visible in
their registers take their place in the order of R16. DESIGN CHOICE (log 94): the event of a conflict is stamped with `stream`. -/
def landNow (c : CoreState) (due rest : List Pending) (stream : Stream) : CoreState × List Event :=
  let before := c.flight.landed
  let all := due ++ before.filter (fun p => due.any (fun d => d.dest = p.dest))
  let meet := fun (p x : Pending) => decide (x.dest = p.dest) && !(before.contains p && before.contains x)
  (landAll { c with flight.pend := rest, flight.landed := before ++ due } all, conflicts meet stream (sortPending all))

/-- One step of the streams: results whose last step this is become visible (R74, R75). DESIGN CHOICE (log 94): the event of a
conflict bears the first stream of the step, the primary in a merged issue. -/
def stepResults (c : CoreState) (streams : List Stream) : CoreState × List Event :=
  let mine := fun (p : Pending) => streams.contains p.stream
  let due := c.flight.pend.filter (fun p => mine p && p.steps ≤ 1)
  let rest := (c.flight.pend.filter (fun p => !(mine p && p.steps ≤ 1))).map
    (fun p => if mine p then { p with steps := p.steps - 1 } else p)
  landNow c due rest (streams.headD .primary)

end Sys2Proof.Machine
end

