-- ==== Sys2Proof/Machine/Cache.lean ====
section
/-! DEFINITION. The caches, the die directories and the home agents (R274 to R276, R312, R346 to R355, R430). They keep who
holds what; the bytes themselves are in the one memory of the module (log 19). -/

namespace Sys2Proof.Machine

/-- Ask an open region to roll back at its next issue; the lowest code is kept (R314). -/
def askRoll (reason : BitVec 4) (c : CoreState) : CoreState :=
  match c.region with
  | none => c
  | some r =>
    let new := match r.pendingRoll with
      | none => reason
      | some o => if reason.toNat < o.toNat then reason else o
    { c with region := some { r with pendingRoll := some new } }

/-! ### L1 sectors (R348) -/

/-- The state of a sector in a core's L1. -/
def CoreState.sector (x : CoreState) (line s : Nat) : Sector := ((Sparse.get [] x.caches.l1 line)[s]?).getD .invalid

/-- Set the state of a sector; a line of which no sector is held leaves the L1. -/
def CoreState.setSector (x : CoreState) (line s : Nat) (v : Sector) : CoreState :=
  let l := (List.range 4).map (fun i => if i = s then v else x.sector line i)
  { x with caches.l1 := Sparse.set [] x.caches.l1 line (if l.all (fun e => e = .invalid) then [] else l) }

/-- The core's region holds the line in its load set (R312). -/
def CoreState.marks (x : CoreState) (line : Nat) : Bool :=
  match x.region with
  | some r => r.marks.any (fun k => k.line = line)
  | none => false

/-- The module of a cell (R357), and whether it is another one (R418). -/
def cellModule (cell : Nat) : Nat := cell % 2 ^ 56 / 2 ^ 46
def remoteCell (m : Mach) (cell : Nat) : Bool := cellModule cell ≠ m.fleet.number.toNat

/-- The L1 holds the line by a mark alone, without its data (R312). -/
def CoreState.bareMark (x : CoreState) (line : Nat) : Bool :=
  match x.region with
  | some r => r.marks.any (fun k => k.line = line && k.bare)
  | none => false

/-- An invalidation of a sector reaches an L1 (R348); a region that has read the line rolls back with CONFLICT (R312). -/
def CoreState.invalidate (x : CoreState) (line s : Nat) : CoreState :=
  let y := x.setSector line s .invalid
  if x.marks line then askRoll 3 y else y

/-- A recall reaches an owning L1: the sector goes to S (R348). -/
def CoreState.recall (x : CoreState) (line s : Nat) : CoreState :=
  match x.sector line s with
  | .modified => x.setSector line s .shared
  | .exclusive => x.setSector line s .shared
  | _ => x

/-- Every sector of a line leaves an L1. -/
def CoreState.dropLine (x : CoreState) (line : Nat) : CoreState :=
  { x with caches.l1 := Sparse.erase x.caches.l1 line }

/-- The modified sectors of a line in an L1. -/
def CoreState.modifiedSectors (x : CoreState) (line : Nat) : List Nat :=
  (List.range 4).filter (fun s => x.sector line s = .modified)

/-- The monitor of a core fires when it is armed on the line (R122). -/
def CoreState.fireOn (x : CoreState) (line : Nat) : CoreState :=
  match x.monitor with
  | some k => if k.line = line then { x with monitor := some { k with fired := true } } else x
  | none => x

/-- The sectors of a line of an untracked page leave the L1: the dirty ones are on their way to the home (R363). -/
def CoreState.expelLoose (x : CoreState) (line : Nat) : CoreState :=
  { x with caches.untracked := (x.caches.untracked.filter (fun u => u.sector / 4 ≠ line || u.dirty)).map (fun u =>
      if u.sector / 4 = line then { u with leaving := true } else u) }

/-- A core's own allocation displaces a line, and sends the slice a notice (R351), or the home the dirty sectors of an untracked page
(R363); a line that its region has read rolls the region back with OVERFLOW (R312). -/
def Mach.evict (m : Mach) (c line : Nat) : Mach :=
  let written := (m.core c).modifiedSectors line
  let tracked := decide (Sparse.get [] (m.core c).caches.l1 line ≠ []) || (m.core c).bareMark line
  let m := m.modCore c (fun x =>
    let y := (x.dropLine line).expelLoose line
    if x.marks line then askRoll 4 y else y)
  if tracked then { m with msgs := m.msgs ++ [.notice c line written] } else m

/-- A load or a store of a core uses a line of its L1 (R367). -/
def CoreState.touch (x : CoreState) (line : Nat) : CoreState :=
  { x with caches.order := (x.caches.order.filter (fun l => l ≠ line
      && (x.bareMark l || x.caches.l1.any (fun e => e.1 = l) || x.caches.untracked.any (fun u => u.sector / 4 = l)))) ++ [line] }

/-- The lines of untracked pages that an L1 holds (R363). -/
def CoreState.looseLines (x : CoreState) : List Nat := (x.caches.untracked.filter (fun u => !u.leaving)).map (fun u => u.sector / 4)

/-- The lines that an L1 holds in the set of a line, those of untracked pages and bare marks among them: 128 sets of 8 ways, chosen
by PA[14:8] (R274). -/
def CoreState.setLines (x : CoreState) (line : Nat) : List Nat :=
  let bare := match x.region with
    | some r => (r.marks.filter (·.bare)).map (·.line)
    | none => []
  ((x.caches.l1.map (·.1) ++ x.looseLines ++ bare).filter (fun l => decide (l % 128 = line % 128))).eraseDups

/-- A line is to enter an L1, or its mark alone: where its set is full the line least recently used leaves (R274, R367). -/
def Mach.makeRoom (m : Mach) (c line : Nat) : Mach :=
  let x := m.core c
  let set := x.setLines line
  let oldest := (set.filter (fun l => !(x.caches.order.contains l))) ++ x.caches.order.filter set.contains
  if set.contains line || decide (set.length < 8) then m
  else match oldest.head? with
    | some out => m.evict c out
    | none => m

/-- A sector enters an L1 in a state. -/
def Mach.fillSector (m : Mach) (c line s : Nat) (v : Sector) : Mach :=
  (m.makeRoom c line).modCore c (fun x => (x.setSector line s v).touch line)

/-! ### The directory entry (R349, R350) -/

/-- The cores that a directory entry of die `d` may include as sharers, by core number. -/
def DirEntry.mayInclude (e : DirEntry) (d : Nat) : List Nat :=
  if e.coarse then ((List.range 16).filter (fun k => bit e.clusters (k / 4))).map (fun k => 16 * d + k)
  else e.ptrs.map (fun k => 16 * d + k)

/-- Add a core, by its number in the die, to the sharers (R350). -/
def DirEntry.addSharer (e : DirEntry) (k : Nat) : DirEntry :=
  if e.coarse then { e with clusters := setBit e.clusters (k / 4) true }
  else if e.ptrs.contains k then e
  else if e.ptrs.length < 4 then { e with ptrs := e.ptrs ++ [k] }
  else { e with coarse := true, ptrs := [], clusters := (k :: e.ptrs).foldl (fun v j => setBit v (j / 4) true) e.clusters }

/-- Set the owner of one sector. -/
def DirEntry.setOwner (e : DirEntry) (s : Nat) (o : Option Nat) : DirEntry :=
  { e with owners := e.owners.mapIdx (fun i v => if i = s then o else v) }

def DirEntry.owner (e : DirEntry) (s : Nat) : Option Nat := (e.owners[s]?).getD none

/-- The line is transient (R349). -/
def DirEntry.transient (e : DirEntry) : Bool := e.req.isSome

/-- The directory entry of a line in a die. -/
def Mach.dirOf (m : Mach) (d line : Nat) : Option DirEntry := Sparse.find (m.die d).dir line

def Mach.setDir (m : Mach) (d line : Nat) (e : DirEntry) : Mach := m.modDie d (fun x => { x with dir := Sparse.put x.dir line e })

/-- The line is transient at a die: a request waits (R351). -/
def Mach.lineBusy (m : Mach) (d line : Nat) : Bool := (m.dirOf d line).any DirEntry.transient

/-! ### The home (R354, R355) -/

/-- A cell of second-tier memory (R417, log 57). -/
def secondTier (cell : Nat) : Bool := decide (2 ^ 41 ≤ cell % 2 ^ 46)

/-- The home agent of a cell (R354): for HBM the channel, by the address; second-tier memory has one agent for each of the 16 CXL
ports of the hub, numbered from 1,024. DESIGN CHOICE (log 57): port p has the 2^40 bytes from 2^41 + p · 2^40 of the module on. -/
def homeAgent (cell : Nat) : Nat :=
  if !(secondTier cell) then (cell / 2 ^ 8 % 1024) ^^^ (cell / 2 ^ 18 % 1024) ^^^ (cell / 2 ^ 28 % 1024)
  else 1024 + (cell % 2 ^ 46 / 2 ^ 40 - 2) % 16

/-- The home entry of a line. -/
def Mach.home (m : Mach) (line : Nat) : HomeEntry := Sparse.get {} m.homes line

def Mach.setHome (m : Mach) (line : Nat) (h : HomeEntry) : Mach := { m with homes := Sparse.put m.homes line h }

/-- Every copy of a line leaves a die, as its L2 drops it (R353): regions that read it roll back, monitors on it fire. Requests for
the line that wait at the slice go on waiting (R351). -/
def Mach.dropDie (m : Mach) (d line : Nat) : Mach :=
  let m := m.mapCores (fun k x => if dieOf k = d then
    (let y := (x.dropLine line).fireOn line
     if x.marks line then askRoll 3 y else y) else x)
  m.modDie d (fun x => { x with dir := match Sparse.find x.dir line with
    | some e => if e.transient then
        Sparse.put x.dir line { e with coarse := false, ptrs := [], clusters := 0, owners := [none, none, none, none],
                                       lease := none, permission := false }
      else Sparse.erase x.dir line
    | none => x.dir })

/-- The owner of a line gives up its modified copy: every sector that its die owns goes to S (R354). -/
def Mach.recallOwner (m : Mach) (o line : Nat) : Mach :=
  let m := m.mapCores (fun k x => if dieOf k = o then (List.range 4).foldl (fun x s => x.recall line s) x else x)
  match m.dirOf o line with
  | some e =>
    let sharers := e.owners.filterMap id
    let e := sharers.foldl (fun e k => e.addSharer (k % 16)) e
    m.setDir o line { e with owners := [none, none, none, none], permission := false }
  | none => m

/-- A read by a die at the home: a modified copy elsewhere is recalled, and the die is marked (R354). -/
def Mach.homeMark (m : Mach) (d line : Nat) : Mach :=
  let h := m.home line
  let m := match h.owner with
    | some o => if o = d then m else m.recallOwner o line
    | none => m
  m.setHome line { h with dies := setBit h.dies d true, owner := if h.owner = some d then h.owner else none }

/-- A read at the home that no entry tracks: a modified copy is recalled, and a lease outstanding at the home is recorded (R346,
R347, R355). -/
def Mach.homeLease (m : Mach) (d line : Nat) (t : Tick) : Mach :=
  let h := m.home line
  let m := match h.owner with
    | some o => if o = d then m else m.recallOwner o line
    | none => m
  m.setHome line { h with owner := if h.owner = some d then h.owner else none, lease := laterTick h.lease (some t) }

/-- The dies other than `d` that the home marks for a line. -/
def Mach.otherDies (m : Mach) (d line : Nat) : List Nat :=
  (List.range 64).filter (fun k => k ≠ d && bit (m.home line).dies k)

/-- No other die or module holds a tracked copy of the line. -/
def Mach.soleDie (m : Mach) (d line : Nat) : Bool := m.otherDies d line = [] && (m.home line).remote = []

/-- The home has given a die owned permission: it marks no other die and no module (R354). -/
def Mach.homeOwned (m : Mach) (d line : Nat) : Mach :=
  m.setHome line { m.home line with dies := setBit 0 d true, owner := some d, remote := [] }

/-- A write at the home invalidates every tracked copy of the written sectors (R346): every L1 that may hold one, at every die. The
other sectors of the line stay as they are held. -/
def Mach.homeInvalidate (m : Mach) (line : Nat) (ss : List Nat) : Mach :=
  let m := m.mapCores (fun _ x => ss.foldl (fun x s =>
    if x.sector line s = .invalid && !(x.bareMark line) then x else x.invalidate line s) x)
  { m with dies := m.dies.map (fun d => (d.1, { d.2 with dir := d.2.dir.map (fun e =>
    if e.1 = line then (e.1, ss.foldl (fun e s => e.setOwner s none) e.2) else e) })) }

/-! ### The L2 (R274 to R276) -/

/-- The slice of a cell (R274), and its set in the slice, whose choice the spec does not give (log 97). -/
def sliceOf (cell : Nat) : Nat := (cell / 256 % 16) ^^^ (cell / 4096 % 16)
def setOf (line : Nat) : Nat := line / 16 % 1536

/-- The ways of the four residency ranges as a die's slices hold them (R275): enabled ranges take ways in range order, and none
takes ways 0 to 3. -/
def rangeWays (rsv : Sparse Dword) : List Nat :=
  ((List.range 4).foldl (fun (acc : List Nat × Nat) n =>
    let ctl := Sparse.get 0 rsv (8 + n)
    let w := if bit ctl 0 then min (field ctl 1 4 + 1) acc.2 else 0
    (acc.1 ++ [w], acc.2 - w)) ([], 12)).1

/-- The ways that range `n` holds, from way 15 downward (R275). -/
def waysOf (rsv : Sparse Dword) (n : Nat) : List Nat :=
  let above := ((rangeWays rsv).take n).sum
  (List.range (((rangeWays rsv)[n]?).getD 0)).map (fun k => 15 - above - k)

/-- The ways that no range reserves. -/
def freeWays (rsv : Sparse Dword) : List Nat := List.range (16 - (rangeWays rsv).sum)

/-- The range of an address: the lowest enabled one that holds it (R275). -/
def rangeOf (rsv : Sparse Dword) (pa : Nat) : Option Nat :=
  (List.range 4).find? (fun n => decide (0 < ((rangeWays rsv)[n]?).getD 0)
    && decide ((Sparse.get 0 rsv n).toNat / 16384 ≤ pa / 16384) && decide (pa / 16384 ≤ (Sparse.get 0 rsv (4 + n)).toNat / 16384))

/-- The L2 of a die evicts a line: the L1s of the die lose it, modified sectors go home, and the home learns that the die has
dropped it (R353). -/
def Mach.leaveL2 (m : Mach) (d line : Nat) : Mach :=
  let m := m.dropDie d line
  match Sparse.find m.homes line with
  | some h => m.setHome line { h with dies := setBit h.dies d false, owner := if h.owner = some d then none else h.owner }
  | none => m

/-- The line least recently used of a list. -/
def oldest (l : List (Nat × DirEntry)) : Option (Nat × DirEntry) :=
  l.foldl (fun acc e => match acc with
    | none => some e
    | some a => if e.2.use < a.2.use then some e else some a) none

/-- The line of an L2 set that gives up its way to a new one: in a range's ways a line that the range does not retain, else the
retained line least recently used; in unreserved ways one that the spec does not name (R276, log 97). A transient line stays. -/
def Mach.l2Victim (m : Mach) (range : Option Nat) (line : Nat) (l : List (Nat × DirEntry)) : Option (Nat × DirEntry) :=
  let l := l.filter (fun e => !e.2.transient)
  match range with
  | some n => match l.find? (fun e => e.2.retained ≠ some n) with
    | some e => some e
    | none => oldest l
  | none => l[Config.l2Victim m.fresh line % l.length]?

/-- The L2 of a die takes a line in (R276): its class by the accumulator of its range, and its way. -/
def Mach.allocate (m : Mach) (d line : Nat) : Mach × DirEntry :=
  let die := m.die d
  let slice := sliceOf (256 * line)
  let rsv := Sparse.get [] die.rsvSlice slice
  let range := rangeOf rsv (256 * line % 2 ^ 56)
  let a := match range with
    | some n => Sparse.get 0 die.acc (4 * slice + n) + field (Sparse.get 0 rsv (8 + n)) 8 8
    | none => 0
  let m := match range with
    | some n => m.modDie d (fun x => { x with acc := Sparse.set 0 x.acc (4 * slice + n) (a % 256) })
    | none => m
  let retained := if 256 ≤ a then range else none
  let ways := match retained with
    | some n => waysOf rsv n
    | none => freeWays rsv
  let set := die.dir.filter (fun e => sliceOf (256 * e.1) = slice && setOf e.1 = setOf line && e.1 ≠ line)
  match ways.find? (fun w => set.all (fun e => e.2.way ≠ w)) with
  | some w => (m, { retained := retained, way := w, use := die.uses })
  | none => match m.l2Victim retained line (set.filter (fun e => ways.contains e.2.way)) with
    | some out => (m.leaveL2 d out.1, { retained := retained, way := out.2.way, use := die.uses })
    | none => (m, { retained := retained, way := (ways.head?).getD 0, use := die.uses })

/-- The directory entry of a line, used now, and taken in where the L2 does not hold it. -/
def Mach.dirEntry (m : Mach) (d line : Nat) : Mach × DirEntry :=
  let m := m.modDie d (fun x => { x with uses := x.uses + 1 })
  match m.dirOf d line with
  | some e => (m, { e with use := (m.die d).uses })
  | none => m.allocate d line

/-- The slices have taken residency registers: lines whose range no longer holds their way are normal from then on (R276). -/
def unreserve (rsv : Sparse (Sparse Dword)) (line : Nat) (e : DirEntry) : DirEntry :=
  match e.retained with
  | some n => if (waysOf (Sparse.get [] rsv (sliceOf (256 * line))) n).contains e.way then e else { e with retained := none }
  | none => e

/-! ### Serving requests (R351, R352) -/

/-- A core of die `d` holds the sector, or one other than `c` the line by a mark alone. -/
def Mach.heldOnDie (m : Mach) (d line s c : Nat) : Bool :=
  (List.range 16).any (fun k =>
    let x := m.core (16 * d + k)
    (decide (16 * d + k ≠ c) && x.bareMark line) || (match x.sector line s with
      | .shared => true
      | .exclusive => true
      | .modified => true
      | _ => false))

/-- The sectors that a request names: one, or all four. -/
def partSectors (part : Nat) : List Nat := if part < 4 then [part] else [0, 1, 2, 3]

/-- The end of a read that finds another L1 holding the sector, or has recalled it from its owner (R351): the core is a sharer. -/
def Mach.fillShared (m : Mach) (d line : Nat) (e : DirEntry) (c s : Nat) : Mach :=
  (m.setDir d line (e.addSharer (c % 16))).fillSector c line s .shared

/-- The end of a read of a sector that no L1 owns (R347, R348, R351): exclusive where no L1 of the package holds it, the home then
giving owned permission, else shared. -/
def Mach.fillRead (m : Mach) (d line : Nat) (e : DirEntry) (c s : Nat) : Mach :=
  if !(m.heldOnDie d line s c) && (e.permission || m.soleDie d line) then
    ((if e.permission then m else m.homeOwned d line).setDir d line { e.setOwner s (some c) with permission := true }).fillSector
      c line s .exclusive
  else m.fillShared d line e c s

/-- A core holds the sector in S, E or M. -/
def CoreState.holdsSector (x : CoreState) (line s : Nat) : Bool :=
  match x.sector line s with
  | .shared => true
  | .exclusive => true
  | .modified => true
  | _ => false

/-- The end of an owned write whose acknowledgements are all in (R346, R350, R351). Under .wt a copy of the writer stays, shared, and
the writer in the sharer set (R349); a leased one stays leased. An engine leaves no copy (R430). -/
def Mach.finishWrite (m : Mach) (d line : Nat) (e : DirEntry) (r : DirReq) (kind : WriteKind) : Mach :=
  let c := r.core
  let ss := partSectors r.part
  let kept := !r.flag && ss.any ((m.core c).holdsSector line)
  let e := { e with req := none, count := 0 }
  let e := if 4 ≤ r.part && e.coarse then { e with coarse := false, ptrs := [], clusters := 0 } else e
  let e := ss.foldl (fun e s => e.setOwner s (if kind = .owned then some c else none)) e
  let e := if kind = .through && kept then e.addSharer (c % 16) else e
  let m := m.setDir d line e
  ss.foldl (fun m s => match kind with
    | .owned => m.fillSector c line s .modified
    | .through => m.modCore c (fun x => if r.flag || !(x.holdsSector line s) then x else (x.setSector line s .shared).touch line)
    | .home => m.modCore c (fun x => x.invalidate line s)) m

/-- The request that a line was transient for has been served. A read was transient for a recall: the sector is shared (R351). -/
def Mach.finishReq (m : Mach) (d line : Nat) (e : DirEntry) (r : DirReq) : Mach :=
  match r.kind with
  | none => m.fillShared d line { e with req := none, count := 0 } r.core r.part
  | some k => m.finishWrite d line e r k

/-- The home serves a line for one die at a time (R354): no other die waits for answers about it. -/
def Mach.homeFree (m : Mach) (d line : Nat) : Bool :=
  m.dies.all (fun k => k.1 = d || (match Sparse.find k.2.dir line with
    | some e => !(e.transient && decide (e.count ≠ 0))
    | none => true))

/-- A request for which the slice turns to the home (R347, R351, R354): a read of a line that the home does not mark for the die, or
a write without owned permission. -/
def Mach.asksHome (m : Mach) (d line : Nat) (r : DirReq) : Bool :=
  let permission := ((m.dirOf d line).map (·.permission)).getD false
  !permission && (r.kind.isSome || r.flag || !(bit (m.home line).dies d))

/-- A slice starts to serve a request to a line that is not transient (R351). A read under .si is granted a lease of the core's
LEASE ticks (R346, R347); a read of a sector that another core owns recalls it. A write obtains owned permission, for which
every other die that the home marks drops the line (R354), and sends invalidations to every core that may hold the sector:
the writer's own copy too for an engine's write (R430). While the home serves another die the request waits there. -/
def Mach.serve (m : Mach) (d line : Nat) (r : DirReq) : Mach :=
  let c := r.core
  if m.asksHome d line r && !(m.homeFree d line) then
    let (m, e) := m.dirEntry d line
    let m := m.setDir d line { e with req := some r, count := 0 }
    m.setHome line { m.home line with waiting := (m.home line).waiting ++ [d] }
  else
    let (m, e) := m.dirEntry d line
    match r.kind with
    | none =>
      if r.flag then
        let t := m.vclk + (m.core c).ctl.lease.setWidth 48
        let m := if e.permission then m else m.homeLease d line t
        (m.setDir d line { e with lease := laterTick e.lease (some t) }).fillSector c line r.part (.leased t)
      else
        let m := if e.permission then m else m.homeMark d line
        match e.owner r.part with
        | some o =>
          if o = c then m.fillRead d line (e.setOwner r.part none) c r.part
          else
            let e := (e.addSharer (o % 16)).setOwner r.part none
            let m := m.setDir d line { e with req := some r, count := 1 }
            { m with msgs := m.msgs ++ [.recall o line r.part] }
        | none => m.fillRead d line e c r.part
    | some k =>
      let drops := if e.permission then [] else (m.otherDies d line).map (fun o => Msg.drop o line d)
      let m := m.homeOwned d line
      let e := { e with permission := true }
      let ss := partSectors r.part
      let all := (e.mayInclude d ++ ss.filterMap e.owner).eraseDups
      let targets := if k = .home || r.flag then all else all.filter (fun o => o ≠ c)
      let new := targets.flatMap (fun o => ss.map (fun s => Msg.invalidate o line s)) ++ drops
      if new = [] then m.finishWrite d line e r k
      else
        let m := m.setDir d line { e with count := new.length, req := some r }
        { m with msgs := m.msgs ++ new }

/-- Requests that waited are served in their order, until the line is transient again (R351). -/
def serveAll (d line : Nat) : List DirReq → Mach → Mach
  | [], m => m
  | r :: l, m =>
    let m := m.serve d line r
    match m.dirOf d line with
    | some e => if e.transient then m.setDir d line { e with waiting := l } else serveAll d line l m
    | none => serveAll d line l m

/-- The home takes up the requests of dies that waited, in their order, while it is free for them (R354). -/
def homeNext (line : Nat) : Nat → Mach → Mach
  | 0, m => m
  | n + 1, m =>
    let h := m.home line
    match h.waiting with
    | [] => m
    | d :: l =>
      if !(m.homeFree d line) then m
      else
        let m := m.setHome line { h with waiting := l }
        match m.dirOf d line with
        | some e => match e.req with
          | some r => homeNext line n (serveAll d line (r :: e.waiting) (m.setDir d line { e with req := none, waiting := [] }))
          | none => homeNext line n m
        | none => homeNext line n m

/-- One of the answers that a transient line waits for is in; at the last one the request is done, and those behind it are served,
at the slice and at the home (R351, R354). -/
def Mach.answered (m : Mach) (d line : Nat) : Mach :=
  match m.dirOf d line with
  | some e => match e.req with
    | some r =>
      if e.count = 0 then m
      else if e.count = 1 then
        let m := serveAll d line e.waiting (m.finishReq d line { e with waiting := [] } r)
        homeNext line ((m.home line).waiting.length) m
      else m.setDir d line { e with count := e.count - 1 }
    | none => m
  | none => m

/-- A notice reaches the slice: while the line is transient its data is written and the rest discarded; else the owner of each
written sector is none, and the pointer of a core that holds no sector is removed (R351, R352). -/
def Mach.notice (m : Mach) (c line : Nat) (written : List Nat) : Mach :=
  let d := dieOf c
  match m.dirOf d line with
  | none => m
  | some e =>
    if e.transient then m
    else
      let e := written.foldl (fun e s => if e.owner s = some c then e.setOwner s none else e) e
      let holds := (List.range 4).any (fun s => (m.core c).sector line s ≠ .invalid)
      let e := if e.coarse || holds then e else { e with ptrs := e.ptrs.filter (fun k => k ≠ c % 16) }
      m.setDir d line e

/-- The line of a message, and the channel in which messages are delivered in the order sent (R352): from a slice to one L1, from
one L1 to a slice, from the home to a die and back. -/
def Msg.line : Msg → Nat
  | .invalidate _ l _ => l
  | .recall _ l _ => l
  | .ack _ l _ => l
  | .notice _ l _ => l
  | .drop _ l _ => l
  | .dropped _ l _ => l

def Msg.channel : Msg → Nat × Nat × Nat
  | .invalidate c l _ => (0, c, sliceOf (256 * l))
  | .recall c l _ => (0, c, sliceOf (256 * l))
  | .ack c l _ => (1, c, sliceOf (256 * l))
  | .notice c l _ => (1, c, sliceOf (256 * l))
  | .drop d l _ => (2, d, l)
  | .dropped d l _ => (3, d, l)

/-- A die that serves a request for a line drops it for another die's write when it has done so (R354). -/
def Mach.msgWaits (m : Mach) : Msg → Bool
  | .drop o l _ => (m.dirOf o l).any (fun e => e.transient && decide (e.count ≠ 0))
  | _ => false

/-- Take a message off the queue if it is the next one of its channel (R352). -/
def Mach.takeMsg (m : Mach) (g : Msg) : Option Mach :=
  if m.msgs.find? (fun e => e.channel = g.channel) = some g && !(m.msgWaits g) then some { m with msgs := m.msgs.erase g } else none

/-- A message arrives: an L1 drops a sector and acknowledges, an owning L1 gives a sector up and answers (R348), a slice takes an
acknowledgement, an answer or a notice, a die drops a line and acknowledges once its own L1s have lost it (R354). -/
def Mach.deliverMsg (m : Mach) : Msg → Mach
  | .invalidate c l s =>
    let m := m.modCore c (fun x => x.invalidate l s)
    { m with msgs := m.msgs ++ [.ack c l s] }
  | .recall c l s =>
    let m := m.modCore c (fun x => x.recall l s)
    { m with msgs := m.msgs ++ [.ack c l s] }
  | .ack c l _ => m.answered (dieOf c) l
  | .notice c l w => m.notice c l w
  | .drop o l d =>
    let m := m.dropDie o l
    { m with msgs := m.msgs ++ [.dropped o l d] }
  | .dropped _ l d => m.answered d l

/-- Deliver some messages, in the order sent. -/
def Mach.deliverAll (m : Mach) (l : List Msg) : Mach :=
  l.foldl (fun m g => if m.msgs.contains g && !(m.msgWaits g) then ({ m with msgs := m.msgs.erase g } : Mach).deliverMsg g else m) m

/-- What an L1 has sent to the slice of a line before (R352). -/
def Mach.sentBefore (m : Mach) (c line : Nat) : List Msg := m.msgs.filter (fun g => g.channel = (1, c, sliceOf (256 * line)))

/-- A request of a core reaches a slice, behind what its L1 has sent there before (R352): it waits while the line is transient
(R351). -/
def Mach.request (m : Mach) (d line : Nat) (r : DirReq) : Mach :=
  let m := m.deliverAll (m.sentBefore r.core line)
  match m.dirOf d line with
  | some e => if e.transient then m.setDir d line { e with waiting := e.waiting ++ [r] } else m.serve d line r
  | none => m.serve d line r

/-- Messages about a line are delivered, in the order sent, and so are the answers, `n` times. -/
def settleRounds (line : Nat) : Nat → Mach → Mach
  | 0, m => m
  | n + 1, m =>
    let l := m.msgs.filter (fun g => g.line = line)
    if l = [] then m else settleRounds line n (m.deliverAll l)

/-- Requests for a line that have not been served. -/
def Mach.requestsOf (m : Mach) (line : Nat) : Nat :=
  (m.dies.map (fun d => match Sparse.find d.2.dir line with
    | some e => e.waiting.length + e.req.isSome.toNat
    | none => 0)).sum

/-- Every message about a line is delivered, and every request for it served: an invalidation and its answer, or a drop and its
answer, for each request and each message under way. -/
def Mach.settleLine (m : Mach) (line : Nat) : Mach := settleRounds line (4 * (m.requestsOf line + 1) + m.msgs.length) m

/-- Every exchange under way about the lines that `p` chooses is brought to its end. -/
def Mach.settleWhere (m : Mach) (p : Nat → Bool) : Mach :=
  (((m.dies.flatMap (fun d => (d.2.dir.filter (fun e => e.2.transient && p e.1)).map (·.1)))).eraseDups).foldl Mach.settleLine m

/-! ### The accesses of a core (R346) -/

/-- The sectors of some cells, each with its line. -/
def sectorsOf (cells : List Nat) : List (Nat × Nat) := (cells.map (fun a => (a / 256, a / 64 % 4))).eraseDups

/-- A modified copy of a line, wherever it is, is recalled for a read at the home (R346). -/
def Mach.homeRecall (m : Mach) (line : Nat) : Mach :=
  match (m.home line).owner with
  | some o => (m.recallOwner o line).setHome line { m.home line with owner := none }
  | none => m

/-- A core reads sectors under a request type, as it performs a load (R346): from its L1, or through its slice. A sector under a
lease serves a read under .si, and one homed at another module, which was leased for want of a pointer there (R355). The whole
exchange of messages takes place in the move. -/
def Mach.readSectors (m : Mach) (c : Nat) (rq : BitVec 2) (cells : List Nat) : Mach :=
  (sectorsOf cells).foldl (fun m p =>
    let hit := match (m.core c).sector p.1 p.2 with
      | .invalid => false
      | .leased _ => rq = 2 || remoteCell m (256 * p.1)
      | _ => true
    if rq = 3 then (m.settleLine p.1).homeRecall p.1
    else if hit then m.modCore c (fun x => x.touch p.1)
    else (m.request (dieOf c) p.1 { core := c, part := p.2, kind := none, flag := rq = 2 }).settleLine p.1) m

/-- The L2 of a die reads a line for an engine or a walker of the die, as an owned read (R346, R359): modified copies are recalled,
and the home marks the die. Nothing enters an L1. -/
def Mach.l2Read (m : Mach) (d line : Nat) : Mach :=
  let m := m.settleLine line
  let permission := ((m.dirOf d line).map (·.permission)).getD false
  let m := if permission then m else m.homeMark d line
  let (m, e) := m.dirEntry d line
  let owners := e.owners.filterMap id
  let m := owners.foldl (fun m o => m.modCore o (fun x => (List.range 4).foldl (fun x s => x.recall line s) x)) m
  m.setDir d line (owners.foldl (fun e o => e.addSharer (o % 16)) { e with owners := [none, none, none, none] })

/-- An engine reads a line under a request type (R346, R430): nothing enters the L1. A line that the core's open region marks for a
command of its own holds a mark there without its data, of which the slice knows, or under .si a lease (R312). -/
def Mach.engineRead (m : Mach) (c : Nat) (rq : BitVec 2) (inRegion : Bool) (line : Nat) : Mach :=
  let d := dieOf c
  let t := m.vclk + (m.core c).ctl.lease.setWidth 48
  let marked := inRegion && (m.core c).marks line
  if rq = 3 then (m.settleLine line).homeRecall line
  else
    let m := m.l2Read d line
    if !marked then m
    else
      let leased := decide (rq = 2)
      let m := if leased then m.homeLease d line t else m
      let m := match m.dirOf d line with
        | some e => m.setDir d line (if leased then { e with lease := laterTick e.lease (some t) } else e.addSharer (c % 16))
        | none => m
      let read := fun (k : LoadMark) =>
        if k.line = line then { k with bare := true, lease := if leased then k.lease.or (some t) else k.lease } else k
      let mark := fun (r : Region) => ({ r with marks := r.marks.map read } : Region)
      (m.makeRoom c line).modCore c (fun x => CoreState.touch { x with region := x.region.map mark } line)

/-- The lines of some cells with the sectors of each. -/
def linesOf (cells : List Nat) : List (Nat × List Nat) :=
  ((cells.map (· / 256)).eraseDups).map (fun l => (l, ((sectorsOf cells).filter (fun p => p.1 = l)).map (·.2)))

/-- The core holds a sector in E or M, and its slice knows it (R348). -/
def Mach.ownsSector (m : Mach) (c line s : Nat) : Bool :=
  match (m.core c).sector line s, (m.dirOf (dieOf c) line).bind (fun e => e.owner s) with
  | .exclusive, some o => o = c
  | .modified, some o => o = c
  | _, _ => false

/-- A core, or one of its engines, owns sectors as it performs a write (R346, R430): under .ow a sector it holds in E or M goes to
M silently (R348); else through its slice, in one request where the write covers all four sectors (R350); under .si and .uc
through the home. -/
def Mach.ownSectors (m : Mach) (c : Nat) (rq : BitVec 2) (engine : Bool) (cells : List Nat) : Mach :=
  (linesOf cells).foldl (fun m p =>
    if 2 ≤ rq.toNat then (m.settleLine p.1).homeInvalidate p.1 p.2
    else
      let silent := fun (m : Mach) (s : Nat) => rq = 0 && !engine && m.ownsSector c p.1 s
      let ask := fun (m : Mach) (part : Nat) =>
        (m.request (dieOf c) p.1 { core := c, part := part, kind := some (if rq = 0 && !engine then .owned else .through),
                                   flag := engine }).settleLine p.1
      let take := fun (m : Mach) (s : Nat) =>
        if silent m s then m.modCore c (fun x => (x.setSector p.1 s .modified).touch p.1) else ask m s
      if p.2.length = 4 && !(p.2.all (silent m)) then ask m 4 else p.2.foldl take m) m

/-- A line of some cells is transient at the core's die: the access waits its turn (R351). -/
def Mach.cellsBusy (m : Mach) (c : Nat) (cells : List Nat) : Bool :=
  (cells.map (· / 256)).eraseDups.any (fun l => m.lineBusy (dieOf c) l)

end Sys2Proof.Machine
end

