-- ==== Sys2Proof/Machine/Memory.lean ====
section
/-! DEFINITION. Local spaces with full-empty bits, address translation, global reads and writes as a core sees them, and zones. -/

namespace Sys2Proof.Machine

/-! ### Local spaces (R264 to R268) -/

/-- The bytes of a space. Global memory is keyed by cell: key identifier · 2^56 + physical address (R274). -/
def Mach.bytesOf (m : Mach) : Space → Mem
  | .csp c => (m.core c).loc.csp.bytes
  | .clm k => (m.cluster k).clm.bytes
  | .dsm d => (m.die d).dsm.bytes
  | .const c => (m.core c).loc.const
  | .lanes c => (m.core c).loc.lanes
  | .bstore c => (m.core c).loc.bstore
  | .glob => m.mem

def Mach.setBytes (m : Mach) (sp : Space) (b : Mem) : Mach :=
  match sp with
  | .csp c => m.modCore c (fun x => { x with loc.csp.bytes := b })
  | .clm k => m.modCluster k (fun x => { x with clm.bytes := b })
  | .dsm d => m.modDie d (fun x => { x with dsm.bytes := b })
  | .const c => m.modCore c (fun x => { x with loc.const := b })
  | .lanes c => m.modCore c (fun x => { x with loc.lanes := b })
  | .bstore c => m.modCore c (fun x => { x with loc.bstore := b })
  | .glob => { m with mem := b }

/-- The full granules of a space; only CSP, CLM and DSM have them (R267). -/
def Mach.fullOf (m : Mach) : Space → Sparse Bool
  | .csp c => (m.core c).loc.csp.full
  | .clm k => (m.cluster k).clm.full
  | .dsm d => (m.die d).dsm.full
  | _ => []

def Mach.setFullOf (m : Mach) (sp : Space) (f : Sparse Bool) : Mach :=
  match sp with
  | .csp c => m.modCore c (fun x => { x with loc.csp.full := f })
  | .clm k => m.modCluster k (fun x => { x with clm.full := f })
  | .dsm d => m.modDie d (fun x => { x with dsm.full := f })
  | _ => m

/-- The granule is full. -/
def Mach.isFull (m : Mach) (sp : Space) (granule : Nat) : Bool := Sparse.get false (m.fullOf sp) granule

/-- The space has full-empty bits (R102, R267). -/
def Space.hasBits : Space → Bool
  | .csp _ => true | .clm _ => true | .dsm _ => true | _ => false

/-- Every region that has reserved one of the granules loses its reservation (R307): CONFLICT. -/
def Mach.touchGranules (m : Mach) (sp : Space) (gs : List Nat) : Mach :=
  m.mapCores (fun _ c => match c.region with
    | some r => if r.reserved.any (fun e => e.1 = sp && gs.contains e.2) then askRoll 3 c else c
    | none => c)

/-- A write is performed on lines, at every die but those of `skip`: monitors armed on them fire (R122), reservations of composers
end. -/
def Mach.linesWritten (m : Mach) (skip : List Nat) (lines : List Nat) : Mach :=
  let m := m.mapCores (fun k c => if skip.contains (dieOf k) then c else match c.monitor with
    | some mon => if lines.contains mon.line then { c with monitor := some { mon with fired := true } } else c
    | none => c)
  let lose := fun (h : Hart) => match h.resv with
    | some x => if lines.contains (x.1 / 256) then { h with resv := none } else h
    | none => h
  { m with comps := m.comps.map (fun e =>
    (e.1, if skip.contains (e.1 / 4) then e.2 else { e.2 with harts := e.2.harts.map (fun h => (h.1, lose h.2)) })) }

/-- Tracked copies of the sectors of some cells are invalidated by a write that the home performs (R346). -/
def Mach.homeWrite (m : Mach) (cells : List Nat) : Mach := (sectorsOf cells).foldl (fun m p => m.homeInvalidate p.1 [p.2]) m

/-- Set the full-empty bits of granules (R267). -/
def Mach.setFull (m : Mach) (sp : Space) (gs : List Nat) (full : Bool) : Mach :=
  let m := m.setFullOf sp (gs.foldl (fun f g => Sparse.set false f g full) (m.fullOf sp))
  if full then m else m.touchGranules sp gs

/-- Bytes of a die scratchpad change in the global windows onto it as well (R266). -/
def Mach.mirrorOut (m : Mach) (d : Nat) (cells : List (Nat × BitVec 8)) : Mach :=
  (m.fw.windows.filter (fun w => w.1 = d)).foldl (fun m w =>
    let l := cells.map (fun e => (w.2 + e.1, e.2))
    let lines : List Nat := l.map (fun e => e.1 / 256)
    (({ m with mem := m.mem.writeAll l } : Mach).homeWrite (l.map (fun e => e.1))).linesWritten [] lines.eraseDups) m

/-- Write cells of a local space, full-empty bits unchanged (R267). -/
def Mach.writeLocal (m : Mach) (sp : Space) (cells : List (Nat × BitVec 8)) : Mach :=
  let m := (m.setBytes sp ((m.bytesOf sp).writeAll cells)).touchGranules sp (cells.map (fun e => e.1 / 16))
  match sp with
  | .dsm d => m.mirrorOut d cells
  | _ => m

/-- Bytes written through a global window change the die scratchpad behind it; its full-empty bits stay (R266). -/
def Mach.mirrorIn (m : Mach) (cells : List (Nat × BitVec 8)) : Mach :=
  m.fw.windows.foldl (fun m w =>
    let l := (cells.filter (fun e => decide (w.2 ≤ e.1) && decide (e.1 < w.2 + 0x2000000))).map (fun e => (e.1 - w.2, e.2))
    if l = [] then m
    else (m.setBytes (.dsm w.1) ((m.bytesOf (.dsm w.1)).writeAll l)).touchGranules (.dsm w.1) (l.map (fun e => e.1 / 16))) m

/-- The granules that hold bytes lo to lo + n − 1. -/
def granules (lo n : Nat) : List Nat :=
  (List.range ((lo + n - 1) / 16 - lo / 16 + 1)).map (fun i => lo / 16 + i)

/-- The core belongs to the launch of core `c` (R265). -/
def Mach.sameLaunch (m : Mach) (c k : Nat) : Bool :=
  k = c || ((m.core k).reg.launch = (m.core c).reg.launch && (m.core k).reg.launch ≠ 0
    && (m.core k).reg.status ≠ .idle && (m.core k).reg.status ≠ .saved)

/-- The space and offset of `n` bytes at an L-address, when R102, R264, R265 and R256 accept them. -/
def Mach.locate (m : Mach) (c : Nat) (s n : Nat) : Option (Space × Nat) :=
  let off := s % 2 ^ 28
  match s / 2 ^ 28 with
  | 0 => if off + n ≤ 0x300000 then some (.csp c, off) else none
  | 1 =>
    if off + n ≤ 0x400000 ∧ m.sameLaunch c (4 * clusterOf c + off / 4096 % 4)
        ∧ m.sameLaunch c (4 * clusterOf c + (off + n - 1) / 4096 % 4) then
      some (.clm (clusterOf c), off) else none
  | 2 =>
    if off + n ≤ 0x2000000 ∧ (m.die (dieOf c)).claim = some (m.core c).reg.launch then
      some (.dsm (dieOf c), off) else none
  | 3 => if off + n ≤ 0x10000 then some (.const c, off) else none
  | _ => none

/-- An access of the core that is performed some cycles after its issue (R429): another core's share, or the die
scratchpad. -/
def isFar (c : Nat) (sp : Space) (off : Nat) : Bool :=
  match sp with
  | .clm _ => off / 4096 % 4 ≠ inCluster c
  | .dsm _ => true
  | _ => false

/-! ### Translation (R357 to R359) -/

/-- What a walk finds. -/
inductive Walk where
  | none
  | malformed (entry : Nat)
  | leaf (e : BitVec 64) (shift : Nat)
  deriving DecidableEq, Repr

def pteValid (e : BitVec 64) : Bool := bit e 0
def pteLeaf (e : BitVec 64) : Bool := bit e 1
def pteG64 (e : BitVec 64) : Bool := bit e 2
def pteKind (e : BitVec 64) : Nat := field e 3 2
def pteTracked (e : BitVec 64) : Bool := bit e 5
def pteRdup (e : BitVec 64) : Bool := bit e 6
def pteShadow (e : BitVec 64) : Bool := bit e 7
def pteEmit (e : BitVec 64) : Bool := bit e 8
def pteWritable (e : BitVec 64) : Bool := bit e 9
def pteEnd (e : BitVec 64) : Bool := bit e 10
def ptePa (e : BitVec 64) : Nat := field e 14 42 * 2 ^ 14
def pteKey (e : BitVec 64) : BitVec 6 := e.extractLsb' 56 6

/-- The limits of R358 on an entry at a level, for the leaf size `shift` where it is a leaf. -/
def pteWellFormed (level : Nat) (e : BitVec 64) : Bool :=
  let shift := if level = 0 then 14 else if level = 1 then 21 else 30
  field e 11 3 = 0 && field e 62 2 = 0 && pteKind e ≠ 3
  && (pteLeaf e || 1 ≤ level) && (!pteLeaf e || level ≤ 2)
  && (!pteG64 e || level = 0)
  && (!pteRdup e || (pteLeaf e && (level = 1 || (level = 0 && pteG64 e))))
  && (!pteShadow e || (pteLeaf e && level = 0))
  && ((!pteEmit e && !pteEnd e) || pteKind e = 2)
  && (!pteLeaf e || ptePa e % 2 ^ shift = 0)

/-- A 64 KiB group: four aligned entries that differ in nothing but consecutive physical addresses (R357, R358). -/
def groupWellFormed (m : Mem) (first : Nat) : Bool :=
  let e := fun k => BitVec.ofNat 64 (Mem.load m (first + 8 * k) 8)
  ptePa (e 0) % 65536 = 0 && [1, 2, 3].all (fun k => (e k).toNat = (e 0).toNat + k * 16384)

/-- The walk from a table at `table`, through the levels listed. -/
def walkFrom (m : Mem) (retired : List (BitVec 6)) (va : Nat) : List Nat → Nat → Walk
  | [], _ => .none
  | level :: rest, table =>
    let index := if level = 0 then va / 2 ^ 14 % 128 else va / 2 ^ (9 * level + 12) % 512
    let at_ := table + 8 * index
    let e := BitVec.ofNat 64 (Mem.load m at_ 8)
    if !pteValid e then .none
    else if !pteWellFormed level e then .malformed at_
    else if pteLeaf e then
      if pteG64 e && !groupWellFormed m (table + 8 * (index / 4 * 4)) then .malformed at_
      else if retired.contains (pteKey e) then .none
      else if pteG64 e then .leaf (BitVec.ofNat 64 (Mem.load m (table + 8 * (index / 4 * 4)) 8)) 16
      else .leaf e (if level = 0 then 14 else if level = 1 then 21 else 30)
    else walkFrom m retired va rest (ptePa e)

/-- The root table of a space in this module, when the generation is the current one (R357, R365). -/
def Mach.root (m : Mach) (space : BitVec 36) : Option Nat :=
  match Sparse.find m.fw.spaces (field space 0 20) with
  | some s => if s.generation.toNat = field space 20 16 then Sparse.find s.roots m.fleet.number.toNat else none
  | none => none

/-- The walk of a virtual address under a space. -/
def Mach.walk (m : Mach) (space : BitVec 36) (va : Dword) : Walk :=
  match m.root space with
  | some r => walkFrom m.mem m.fw.retired (va.toNat % 2 ^ 57) [4, 3, 2, 1, 0] r
  | none => .none

/-- The level-0 table of an address, where the upper levels lead to one. -/
def tableFrom (m : Mem) (va : Nat) : List Nat → Nat → Option Nat
  | [], _ => none
  | level :: rest, table =>
    let e := BitVec.ofNat 64 (Mem.load m (table + 8 * (va / 2 ^ (9 * level + 12) % 512)) 8)
    if level = 0 then some table
    else if pteValid e && pteWellFormed level e && !pteLeaf e then tableFrom m va rest (ptePa e)
    else none

/-- The walk by the walkers of a die, which keep upper levels until a shootdown (R359, log 16). -/
def Mach.walkAt (m : Mach) (d : Nat) (space : BitVec 36) (va : Dword) : Walk :=
  match (m.die d).walks.find? (fun w => w.space = space && w.region = va.toNat % 2 ^ 57 / 2 ^ 21), m.root space with
  | some w, some _ => walkFrom m.mem m.fw.retired (va.toNat % 2 ^ 57) [0] w.table
  | _, _ => m.walk space va

/-- The walkers of a die keep the upper levels of a walk. -/
def Mach.keepWalk (m : Mach) (d : Nat) (space : BitVec 36) (va : Dword) : Mach :=
  let a := va.toNat % 2 ^ 57
  match (m.root space).bind (tableFrom m.mem a [4, 3, 2, 1, 0]) with
  | some t =>
    let w : Walked := { space := space, region := a / 2 ^ 21, table := t }
    m.modDie d (fun x => if x.walks.any (fun e => e.space = space && e.region = w.region) then x
      else { x with walks := x.walks ++ [w] })
  | none => m

/-- The TLB entry that holds an address (R359). -/
def tlbFind (c : CoreState) (va : Dword) : Option TlbEntry :=
  c.caches.tlb.find? (fun e => e.space = c.ctl.space && va.toNat % 2 ^ 57 / 2 ^ e.shift = e.page)

/-- Translate for a core: its TLB first, then a walk (R359). -/
def Mach.translate (m : Mach) (c : Nat) (va : Dword) : Walk :=
  match tlbFind (m.core c) va with
  | some e => .leaf e.leaf e.shift
  | none => m.walkAt (dieOf c) (m.core c).ctl.space va

/-- The lines of the entries that a walk reads from a table on, through the levels listed. -/
def walkLines (m : Mem) (va : Nat) : List Nat → Nat → List Nat
  | [], _ => []
  | level :: rest, table =>
    let at_ := table + 8 * (if level = 0 then va / 2 ^ 14 % 128 else va / 2 ^ (9 * level + 12) % 512)
    let e := BitVec.ofNat 64 (Mem.load m at_ 8)
    at_ / 256 :: (if pteValid e && !pteLeaf e then walkLines m va rest (ptePa e) else [])

/-- A walker of a die reads the entries of an address as owned reads through the die L2 (R359): those below the upper levels that it
keeps. -/
def Mach.walkReads (m : Mach) (d : Nat) (space : BitVec 36) (va : Dword) : Mach :=
  let a := va.toNat % 2 ^ 57
  let lines := match (m.die d).walks.find? (fun w => w.space = space && w.region = a / 2 ^ 21), m.root space with
    | some w, some _ => walkLines m.mem a [0] w.table
    | none, some r => walkLines m.mem a [4, 3, 2, 1, 0] r
    | _, none => []
  lines.foldl (fun m l => m.l2Read d l) m

/-- Keep a translation in the core's TLB of 2,048 entries; the oldest leaves first (log 16). -/
def Mach.fillTlb (m : Mach) (c : Nat) (va : Dword) : Mach :=
  match tlbFind (m.core c) va, m.walkAt (dieOf c) (m.core c).ctl.space va with
  | none, .leaf e shift =>
    let m := (m.walkReads (dieOf c) (m.core c).ctl.space va).keepWalk (dieOf c) (m.core c).ctl.space va
    m.modCore c (fun x => { x with caches.tlb :=
      ({ space := x.ctl.space, page := va.toNat % 2 ^ 57 / 2 ^ shift, shift := shift, leaf := e } :: x.caches.tlb).take 2048 })
  | _, _ => m

/-- The cell of an address under a leaf. -/
def leafCell (e : BitVec 64) (shift : Nat) (va : Dword) : Nat :=
  (pteKey e).toNat * 2 ^ 56 + ptePa e + va.toNat % 2 ^ shift

/-- Bits [63:57] of an address all equal bit 56 (R99). -/
def canonical (va : Dword) : Bool := field va 56 8 = 0 || field va 56 8 = 255

/-- A translated access: the cell of its first byte, and the leaf. -/
structure Phys where
  cell : Nat
  leaf : BitVec 64
  shift : Nat
  deriving DecidableEq, Repr

/-- The checks of R99, in order, for an access of `size` bytes; `align` is the multiple it must be. -/
def Mach.checkGlobal (m : Mach) (c : Nat) (va : Dword) (align : Nat) (store : Bool) (rq : BitVec 2) :
    Except Trap Phys :=
  if va.toNat % align ≠ 0 then .error { cause := 7, taddr := va }
  else if !canonical va then .error { cause := 5, taddr := va }
  else match m.translate c va with
    | .leaf e shift =>
      if pteKind e = 2 ∨ (pteKind e = 1 ∧ rq ≠ 3) ∨ (store ∧ !(pteWritable e)) ∨ (store ∧ pteKind e ≠ 0) then
        .error { cause := 5, taddr := va }
      else if store ∧ pteRdup e then .error { cause := 6, replay := true, taddr := va }
      else .ok { cell := leafCell e shift va, leaf := e, shift := shift }
    | _ => .error { cause := 3, fatal := true, taddr := va }

/-! ### Zones (R284, R285) -/

/-- The zone holds a byte of lo to hi (57-bit virtual addresses). -/
def Zone.holds (z : Zone) (lo hi : Nat) : Bool :=
  z.base.toNat ≤ z.limit.toNat && meets (z.base.toNat % 2 ^ 57) (z.limit.toNat % 2 ^ 57) lo hi

/-- The zones a global access to the ranges is charged to: z1–z7 that hold a byte, else z0 (R284). DEDUCED (log 106): an access
under an empty mask, which touches no byte, is charged to z0. -/
def CoreState.zonesOf (c : CoreState) (ranges : List (Nat × Nat)) : List Nat :=
  let hit := (List.range 8).filter (fun k => k ≠ 0 &&
    match c.zones[k]? with
    | some z => ranges.any (fun r => z.holds r.1 r.2)
    | none => false)
  if hit = [] then [0] else hit

/-- An epoch that is empty and passed merges into the next (R285). -/
def mergeEpochs (now : Tick) : List Epoch → List Epoch
  | e :: f :: r =>
    if e.count = 0 && passed now e.ticket then mergeEpochs now (f :: r) else e :: mergeEpochs now (f :: r)
  | l => l

def Zone.merge (now : Tick) (z : Zone) : Zone := { z with epochs := mergeEpochs now z.epochs }

/-- The newest epoch of a zone. -/
def Zone.newest (z : Zone) : Nat := (z.epochs.getLast?.map (·.id)).getD 0

/-- Apply a function to one zone. -/
def CoreState.modZone (c : CoreState) (k : Nat) (f : Zone → Zone) : CoreState :=
  { c with zones := c.zones.mapIdx (fun i z => if i = k then f z else z) }

def Zone.modEpoch (z : Zone) (id : Nat) (f : Epoch → Epoch) : Zone :=
  { z with epochs := z.epochs.map (fun e => if e.id = id then f e else e) }

/-- Charge an access to zones: pending in the newest epoch of each (R285). -/
def CoreState.charge (c : CoreState) (zs : List Nat) : CoreState × List (Nat × Nat) :=
  let marks := zs.map (fun k => (k, ((c.zones[k]?).map Zone.newest).getD 0))
  (marks.foldl (fun c e => c.modZone e.1 (fun z => z.modEpoch e.2 (fun x => { x with count := x.count + 1 }))) c, marks)

/-- The epoch a charge now counts in: its own, or the oldest one left when it has merged. -/
def Zone.epochOf (z : Zone) (id : Nat) : Nat :=
  if z.epochs.any (fun e => e.id = id) then id else ((z.epochs.head?).map (·.id)).getD 0

/-- A performed access raises the maximum of its epochs to its ticket, and is pending there once more for each write it returned
whose ticket is not known yet (R282, R285). -/
def CoreState.owe (c : CoreState) (marks : List (Nat × Nat)) (t : Option Tick) (owes : List (Nat × Nat)) : CoreState :=
  let c := marks.foldl (fun c e => c.modZone e.1 (fun z => z.modEpoch (z.epochOf e.2) (fun x =>
    { x with count := x.count + owes.length, ticket := laterTick x.ticket t }))) c
  if marks = [] then c else { c with flight.owed := c.flight.owed ++ owes.map (fun w => (marks, w)) }

/-- A performed access settles its charges (R282, R285): what it owes stays pending, the access itself leaves. -/
def CoreState.settle (c : CoreState) (now : Tick) (marks : List (Nat × Nat)) (t : Option Tick) (owes : List (Nat × Nat)) :
    CoreState :=
  marks.foldl (fun c e => c.modZone e.1 (fun z =>
    (z.modEpoch (z.epochOf e.2) (fun x => { x with count := x.count - 1 })).merge now)) (c.owe marks t owes)

/-- A charge leaves its zone, and raises the epoch's maximum ticket (R285). -/
def CoreState.discharge (c : CoreState) (now : Tick) (marks : List (Nat × Nat)) (t : Option Tick) : CoreState :=
  c.settle now marks t []

/-- Open a new epoch in the zones of a mask (R285). -/
def CoreState.openEpochs (c : CoreState) (mask : BitVec 8) : CoreState :=
  { c with zones := c.zones.mapIdx (fun i z => if bit mask i then
      { z with epochs := z.epochs ++ [{ id := z.nextId }], nextId := z.nextId + 1 } else z) }

/-- Every zone of the mask has room for one more epoch (R285). -/
def CoreState.canOpen (c : CoreState) (now : Tick) (mask : BitVec 8) : Bool :=
  (List.range 8).all (fun i => !(bit mask i) ||
    match c.zones[i]? with
    | some z => (mergeEpochs now z.epochs).length < 4
    | none => true)

/-- The newest epochs of the zones of a mask. -/
def CoreState.epochMarks (c : CoreState) (mask : BitVec 8) : List (Nat × Nat) :=
  ((List.range 8).filter (fun i => bit mask i)).map (fun i => (i, ((c.zones[i]?).map Zone.newest).getD 0))

/-- Every epoch older than the marked one is empty and its maximum ticket has passed (R287). -/
def CoreState.fenceMet (c : CoreState) (now : Tick) (marks : List (Nat × Nat)) : Bool :=
  marks.all (fun e => match c.zones[e.1]? with
    | some z => z.epochs.all (fun x => decide (e.2 ≤ x.id) || (x.count = 0 && passed now x.ticket))
    | none => true)

/-! ### Global memory as a core sees it -/

/-- Insert a store in the order of issue. -/
def insertStore (s : StoreOp) : List StoreOp → List StoreOp
  | [] => [s]
  | y :: l => if y.issue ≤ s.issue then y :: insertStore s l else s :: y :: l

/-- A store puts its bytes of untracked pages into the core's L1 (R346, R363): one of the core itself under .ow. -/
def StoreOp.cached (s : StoreOp) : Bool := !s.engine && decide (s.rq = 0)

/-- The bytes of a store that no read of its core finds elsewhere yet: not those that have entered the L1 (R363). -/
def StoreOp.unseen (s : StoreOp) : List (Nat × BitVec 8) :=
  if s.entered then s.bytes.filter (fun b => !(s.loose.contains b.1)) else s.bytes

/-- Own earlier writes to global memory that are not yet performed and that `p` chooses, the latest issued first (R279). -/
def pendingStores (c : CoreState) (p : StoreOp → Bool) : List StoreOp :=
  ((c.flight.stores.filter (fun s => s.space = .glob && !s.performed && p s)).foldl (fun l s => insertStore s l) []).reverse

/-- Their bytes, the latest first. An atomic hides the older bytes of its cells, whose value it has not read yet. -/
def pendingBytes (c : CoreState) (p : StoreOp → Bool) : List (Nat × BitVec 8) :=
  (pendingStores c p).foldr (fun s acc => match s.waits with
    | none => s.unseen.reverse ++ acc
    | some n => match c.flight.loads.find? (fun l => l.id = n) with
      | some l => acc.filter (fun e => !(l.elems.any (fun x => decide (x.addr ≤ e.1) && decide (e.1 < x.addr + x.size))))
      | none => acc) []

/-- The stores that a load reads before they are performed: those of its stream that issued before it, and completed engine writes
of commands that did, which the core reads after it has waited on cp (R72, R164, R279). -/
def LoadOp.follows (l : LoadOp) (s : StoreOp) : Bool := (decide (s.stream = l.stream) || s.engine) && decide (s.issue < l.issue)

/-- What covers the cells of a load: held writes of its region, then pending stores (R279, R306). An atomic reads memory. -/
def LoadOp.above (l : LoadOp) (x : CoreState) : List (Nat × BitVec 8) :=
  if l.amo.isSome then [] else l.overlay ++ pendingBytes x l.follows

/-- Bytes of the writes that a region holds in a space, the latest first (R306). -/
def heldBytes (c : CoreState) (sp : Space) : List (Nat × BitVec 8) :=
  match c.region with
  | none => []
  | some r => (r.held.flatMap (fun h => match h with
      | .write w => if w.store.space = sp then w.store.bytes else []
      | _ => [])).reverse

/-- What covers the cells of a load at its issue: held writes of the region, then own pending stores. -/
def overlayFor (above : List (Nat × BitVec 8)) (cells : List Nat) : List (Nat × BitVec 8) :=
  cells.filterMap (fun a => (above.find? (fun e => e.1 = a)))

/-- The byte of an overlay, else of the memory under it. -/
def overlayByte (above : List (Nat × BitVec 8)) (m : Mem) (a : Nat) : BitVec 8 :=
  match above.find? (fun e => e.1 = a) with
  | some e => e.2
  | none => Mem.read m a

/-- A byte of an untracked sector the core holds (R363). -/
def untrackedByte (c : CoreState) (m : Mem) (a : Nat) : BitVec 8 :=
  match c.caches.untracked.find? (fun s => s.sector = a / 64 && !s.leaving) with
  | some s => s.data.extractLsb' (8 * (a % 64)) 8
  | none => Mem.read m a

/-- The cells of an element. -/
def Elem.cells (e : Elem) : List Nat := (List.range e.size).map (fun i => e.addr + i)

/-- The sector of a cell as the L1 takes it in from memory. -/
def sectorFrom (m : Mem) (sector : Nat) : BitVec 512 := BitVec.ofNat 512 (Mem.load m (64 * sector) 64)

/-- Write cells into untracked sectors the core holds: `dirty` where the core's own store does so, else over a copy of what has been
written to memory (R346, R363). -/
def writeUntracked (c : CoreState) (cells : List (Nat × BitVec 8)) (dirty : Bool) : CoreState :=
  let put := fun (u : UntrackedSector) (e : Nat × BitVec 8) =>
    if e.1 / 64 = u.sector && !u.leaving then
      { u with data := setField u.data (8 * (e.1 % 64)) 8 e.2.toNat, dirty := u.dirty || dirty,
               lease := if dirty then none else u.lease }
    else u
  { c with caches.untracked := c.caches.untracked.map (fun u => cells.foldl put u) }

/-- Global memory as the cores, engines and composers of a die see it: stores performed there first lie over it (R281, R296). -/
def Mach.seenMem (m : Mach) (d : Nat) : Mem := (m.die d).early.foldl (fun mem e => mem.writeAll e.bytes) m.mem

/-- Write cells of global memory: every observer that has not seen them reads them from now on (R278, R281). -/
def Mach.putGlobal (m : Mach) (skip : List Nat) (cells : List (Nat × BitVec 8)) : Mach :=
  if cells = [] then m
  else
    let lines : List Nat := cells.map (fun e => e.1 / 256)
    ({ m with
        mem := m.mem.writeAll cells,
        recent := m.recent.filter (fun r => !(cells.any (fun e => e.1 = r.cell))) }.linesWritten skip lines.eraseDups).mirrorIn
      cells

/-- A write of the host, of firmware or of a composer is performed at the home (R346). -/
def Mach.performGlobal (m : Mach) (cells : List (Nat × BitVec 8)) : Mach :=
  (m.homeWrite (cells.map (·.1))).putGlobal [] cells

/-- Remember a performed write until its ticket has passed (R282): the agent and the number of the write, and its stream. -/
def Mach.noteWrite (m : Mach) (agent op : Nat) (stream : Option Stream) (cells : List Nat) (t : Option Tick) : Mach :=
  match t with
  | some t => if tickGe m.vclk t then m
    else { m with recent := cells.map (fun a => { cell := a, tick := some t, agent := agent, op := op, stream := stream }) ++ m.recent }
  | none =>
    { m with recent := cells.map (fun a => { cell := a, tick := none, agent := agent, op := op, stream := stream }) ++ m.recent }

/-- The ticket of a performed write becomes known: loads that returned it settle what they owe (R282). With none the write has
none. -/
def Mach.ticketKnown (m : Mach) (agent op : Nat) (t : Option Tick) : Mach :=
  let mine := fun (r : Recent) => decide (r.agent = agent) && decide (r.op = op)
  let m := { m with
    recent := (m.recent.map (fun r => if mine r then { r with tick := t } else r)).filter
      (fun r => !(mine r) || !(passed m.vclk t)) }
  m.mapCores (fun _ x =>
    let due := x.flight.owed.filter (fun o => o.2 = (agent, op))
    if due = [] then x
    else due.foldl (fun x o => x.settle m.vclk o.1 t []) { x with flight.owed := x.flight.owed.filter (fun o => o.2 ≠ (agent, op)) })

/-- A load returns what a write wrote: its ticket, where it is known and has not passed, or the write (R282). -/
def addOwed (now : Tick) (acc : Option Tick × List (Nat × Nat)) (t : Option Tick) (w : Nat × Nat) : Option Tick × List (Nat × Nat) :=
  match t with
  | some t => if tickGe now t then acc else (laterTick acc.1 (some t), acc.2)
  | none => if acc.2.contains w then acc else (acc.1, acc.2 ++ [w])

/-- What the engine writes of its core that a load reads before they are performed make it carry: they are not its own (R282). -/
def engineOwes (now : Tick) (x : CoreState) (c : Nat) (l : LoadOp) (cells : List Nat) : Option Tick × List (Nat × Nat) :=
  let above := pendingStores x l.follows
  cells.foldl (fun acc a => match above.find? (fun s => s.unseen.any (fun b => b.1 = a)) with
    | some s => if s.engine then addOwed now acc s.ticket (c, s.id) else acc
    | none => acc) (none, [])

/-- What the writes of some cells, as a stream of core `c` reads them, make its load carry (R282): the latest ticket not passed, and
the writes whose ticket is not known. -/
def Mach.loadOwes (m : Mach) (c : Nat) (stream : Option Stream) (cells : List Nat) : Option Tick × List (Nat × Nat) :=
  let early := (m.die (dieOf c)).early.reverse
  let add := addOwed m.vclk
  cells.foldl (fun acc a => match early.find? (fun e => e.bytes.any (fun b => b.1 = a)) with
    | some e => match (m.core e.core).flight.stores.find? (fun s => s.id = e.id) with
      | some s => if e.core = c && !s.engine && stream = some s.stream then acc else add acc s.ticket (e.core, e.id)
      | none => acc
    | none => match m.recent.find? (fun r => r.cell = a) with
      | some r => if r.agent = c && stream.isSome && r.stream = stream then acc else add acc r.tick (r.agent, r.op)
      | none => acc) (none, [])

/-- What a load that takes some of its cells now carries (R282): nothing for held writes of its region and its own stores. -/
def Mach.owesOf (m : Mach) (c : Nat) (l : LoadOp) (cells : List Nat) : Option Tick × List (Nat × Nat) :=
  let x := m.core c
  let above := l.above x
  let new := cells.filter (fun a => !(l.overlay.any (fun e => e.1 = a)))
  let owes := m.loadOwes c (some l.stream) (new.filter (fun a => !(above.any (fun e => e.1 = a))))
  let late := engineOwes m.vclk x c l (if l.amo.isSome then [] else new)
  (laterTick owes.1 late.1, owes.2 ++ late.2.filter (fun w => !(owes.2.contains w)))

/-- Another core writes the sector through a tracked mapping: its L1 holds the sector modified, or its write has not passed its
ticket (R364). -/
def Mach.aliased (m : Mach) (c sector : Nat) : Bool :=
  m.cores.any (fun e => decide (e.1 ≠ c)
      && (match (Sparse.get [] e.2.caches.l1 (sector / 4))[sector % 4]? with
        | some .modified => true
        | _ => false))
    || m.recent.any (fun r => decide (r.agent ≠ c) && decide (r.cell / 64 = sector))

/-! ### Performing loads and stores in flight -/

/-- What a load takes as its core sees memory now (R278, R282). -/
def Mach.takes (m : Mach) (c : Nat) (l : LoadOp) : Taken :=
  let cells := l.elems.flatMap Elem.cells
  let core := m.core c
  let mem := m.seenMem (dieOf c)
  let above := l.above core
  let byte := fun (p : Nat × Nat) =>
    if l.device then Config.deviceByte (m.fresh + p.1)
    else match l.pieces.find? (fun e => e.1 = p.2), above.find? (fun e => e.1 = p.2) with
      | some e, _ => e.2
      | none, some e => e.2
      | none, none => if l.loose.contains p.2 && decide (l.rq ≠ 3) then untrackedByte core mem p.2 else Mem.read mem p.2
  let owes := m.owesOf c l (cells.filter (fun a => !(l.pieces.any (fun e => e.1 = a))))
  { bytes := ((List.range cells.length).zip cells).map byte, ticket := owes.1, owes := owes.2 }

/-- Perform a load: fix the value it returns (R278). One behind which an access has been performed returns what it would have
taken then, where a core of its own die has written its bytes since: within a die the pair is kept (R295). -/
def Mach.capture (m : Mach) (c : Nat) (l : LoadOp) : LoadOp :=
  match l.data, l.floor, l.stale with
  | some _, _, _ => l
  | none, some f, true => { l with data := some f }
  | none, _, _ => { l with data := some (m.takes c l) }

/-- Read a far load at its space (R429): its bytes in element order. -/
def Mach.readFar (m : Mach) (f : FarLoad) : List (BitVec 8) :=
  (f.elems.flatMap Elem.cells).map (overlayByte f.overlay (m.bytesOf f.space))

/-- The value of a register from the bytes of elements: one scalar, or 64 lanes. -/
def elemsValue (elems : List Elem) (bytes : List (BitVec 8)) (vector : Bool) : VData :=
  if vector then
    let vals := (elems.foldl (fun (acc : List (Nat × BitVec 32) × List (BitVec 8)) e =>
      (acc.1 ++ [(e.lane, (elemValue e (acc.2.take e.size)).setWidth 32)], acc.2.drop e.size)) ([], bytes)).1
    ofLanes (fun n => ((vals.find? (fun v => v.1 = n)).map (·.2)).getD 0)
  else match elems with
    | e :: _ => (elemValue e (bytes.take e.size)).setWidth 2048
    | [] => 0

/-- A far load has been read: its result arrives with the value (R75, R429). -/
def Mach.finishFar (m : Mach) (c : Nat) (f : FarLoad) : Mach :=
  let bytes := m.readFar f
  let vector := fun (p : Pending) => match p.dest with
    | .v _ => true
    | _ => false
  let fill := fun (p : Pending) =>
    if p.far = some f.id then { p with far := none, value := elemsValue f.elems bytes (vector p) } else p
  m.modCore c (fun x => { x with
    flight.fars := x.flight.fars.filter (fun g => g.id ≠ f.id),
    flight.pend := x.flight.pend.map fill }.discharge m.vclk f.zones none)

/-! ### The order in which accesses of a core are performed (R72, R269, R279, R293, R295, R316) -/

/-- An access that is not yet performed: its place in the order of issue, what it is, the space and cells it touches, the ct.dusk
that released it, whether it is a completed write of an engine, whether a byte of it is homed at another module, and at one that
does not run tempered mode (R294). -/
structure OpRef where
  id : Nat
  issue : Nat
  slot : Nat := 0
  stream : Stream
  load : Bool := false
  store : Bool := false
  space : Space := .glob
  cells : List Nat := []
  group : Nat := 0
  engine : Bool := false
  remote : Bool := false
  loosened : Bool := false
  deriving DecidableEq, Repr

/-- The place of an access within its issue: reads before writes, a store of a higher slot later (R72). -/
def OpRef.rank (r : OpRef) : Nat := if !r.store then 0 else if r.load then 1 else 2 + r.slot

/-- Access `a` comes before `b` in the order of issue. -/
def OpRef.before (a b : OpRef) : Bool := decide (a.issue < b.issue) || (decide (a.issue = b.issue) && decide (a.rank < b.rank))

/-- The accesses touch a byte in common. -/
def OpRef.meets (a b : OpRef) : Bool := decide (a.space = b.space) && a.cells.any (fun x => b.cells.contains x)

/-- The pairs of R295 on different bytes: `loads` where load, load and load, store are kept, `stores` where store, store is. -/
def pairKept (loads stores : Bool) (a b : OpRef) : Bool :=
  (loads && a.load && (b.load || b.store)) || (stores && a.store && b.store)

/-- Of two accesses of a core in the order of issue, the first is performed everywhere before the second is: accesses of one
stream to one byte, but for a load that returns the stream's own store (R279); what a completed engine write overwrites (R164,
R279); local accesses of either stream that conflict (R269); within one issue what a write overlaps (R72); writes that one
ct.dusk released (R316); and the pairs that R295 keeps wherever the observers lie: local ones (R293), and under tempered mode the
between-dies column, where a pair that involves a module of another mode counts as open (R294). -/
def keptPair (tempered : Bool) (a b : OpRef) : Bool :=
  let local2 := decide (a.space ≠ .glob) && decide (b.space ≠ .glob)
  let firm := tempered && !a.loosened && !b.loosened
  let released := decide (a.group ≠ 0) && decide (a.group = b.group) && a.store && b.store
  let forwards := a.store && !a.load && !b.store && decide (a.space = .glob)
  if a.engine || b.engine then released || (!a.engine && a.store && a.meets b)
  else if a.issue = b.issue then a.meets b
  else if a.stream ≠ b.stream then local2 && a.meets b && (a.store || b.store)
  else (a.meets b && !forwards) || pairKept (local2 || firm) local2 a b || released

/-- The pair is kept at the observers of the core's own die (R295): the within-die column, for bytes homed in this module. -/
def keptNear (a b : OpRef) : Bool :=
  !a.engine && !b.engine && decide (a.issue ≠ b.issue) && decide (a.stream = b.stream) && !a.remote && !b.remote
    && pairKept true true a b

/-- Insert an access, the latest issued first. -/
def insertRef (r : OpRef) : List OpRef → List OpRef
  | [] => [r]
  | y :: l => if y.before r then r :: y :: l else y :: insertRef r l

/-- The access touches a byte that is homed at another module which does not run tempered mode (R294). -/
def Mach.loosens (m : Mach) (cells : List Nat) : Bool :=
  cells.any (fun a => remoteCell m a && !(m.fleet.temperedPeers.contains (cellModule a)))

/-- The reference of a load, of a store, and of a far local load. -/
def Mach.loadRef (m : Mach) (l : LoadOp) : OpRef :=
  let cells := l.elems.flatMap Elem.cells
  { id := l.id, issue := l.issue, slot := l.slot, stream := l.stream, load := true, store := l.amo.isSome, cells := cells,
    remote := l.remote, loosened := m.loosens cells }

def Mach.storeRef (m : Mach) (s : StoreOp) : OpRef :=
  let cells := s.bytes.map (·.1)
  { id := s.id, issue := s.issue, slot := s.slot, stream := s.stream, store := true, space := s.space, cells := cells,
    group := s.group, engine := s.engine, remote := s.remote, loosened := decide (s.space = .glob) && m.loosens cells }

def farRef (f : FarLoad) : OpRef :=
  { id := f.id, issue := f.issue, stream := f.stream, load := true, space := f.space, cells := f.elems.flatMap Elem.cells }

/-- The accesses of a core that are not yet performed. -/
def Mach.openRefs (m : Mach) (c : Nat) : List OpRef :=
  let x := m.core c
  (x.flight.loads.filter (fun l => l.data.isNone)).map m.loadRef
    ++ (x.flight.stores.filter (fun s => !s.performed && s.waits.isNone)).map m.storeRef
    ++ x.flight.fars.map farRef

/-- The accesses of a core that come before one in the order of issue and are not yet performed, the latest first. -/
def Mach.refsBefore (m : Mach) (c : Nat) (r : OpRef) : List OpRef :=
  ((m.openRefs c).filter (fun k => k.id ≠ r.id && k.before r)).foldl (fun l k => insertRef k l) []

/-- The accesses that must be performed before one of them may be, in the order of issue. -/
def mustPrecede (kept : OpRef → OpRef → Bool) (r : OpRef) (before : List OpRef) : List OpRef :=
  (before.foldl (fun acc k => if acc.any (kept k) then k :: acc else acc) [r]).filter (fun k => k.id ≠ r.id)

/-- The new value of an atomic on `size` bytes (R104); none where a cas fails. -/
def amoResult (a : Amo) (size : Nat) (old : Nat) : Option Nat :=
  let w := 8 * size
  let s := a.operand.toNat % 2 ^ w
  match a.op with
  | .add => some ((old + s) % 2 ^ w)
  | .and => some (old &&& s)
  | .or => some (old ||| s)
  | .xor => some (old ^^^ s)
  | .max => some (if signedOf w old < signedOf w s then s else old)
  | .min => some (if signedOf w s < signedOf w old then s else old)
  | .maxu => some (max old s)
  | .minu => some (min old s)
  | .swap => some s
  | .cas => if old = a.expected.toNat % 2 ^ w then some s else none

/-- Set the state of one load in flight. -/
def Mach.setLoad (m : Mach) (c : Nat) (l : LoadOp) : Mach :=
  m.modCore c (fun x => { x with flight.loads := x.flight.loads.map (fun o => if o.id = l.id then l else o) })

/-- Apply a function to one store in flight. -/
def Mach.modStore (m : Mach) (c id : Nat) (f : StoreOp → StoreOp) : Mach :=
  m.modCore c (fun x => { x with flight.stores := x.flight.stores.map (fun s => if s.id = id then f s else s) })

/-- A store leaves the core: its charges leave their zones, with its ticket if it has one, and st falls (R100, R285). -/
def Mach.dropStore (m : Mach) (c : Nat) (s : StoreOp) (ticket : Option Tick) : Mach :=
  m.modCore c (fun x => { x with
    flight.stores := x.flight.stores.filter (fun o => o.id ≠ s.id),
    cnt.st := x.cnt.st - 1 }.discharge m.vclk s.zones ticket)

/-- The ticket of a core store, or of a completed engine write, is known (R280, R285): st falls for a store of the core, and its
charges leave their zones; those of a remote one when the ticket is confirmed (R283). The write itself stays until it is performed
everywhere (R281). -/
def Mach.fixTicket (m : Mach) (c : Nat) (s : StoreOp) (tick : Tick) : Mach :=
  let m := (m.modStore c s.id (fun o => { o with ticket := some tick, zones := [] })).ticketKnown c s.id (some tick)
  m.modCore c (fun x =>
    let x := if s.engine then x else { x with cnt.st := x.cnt.st - 1 }
    let x := if s.remote then
        (if s.zones = [] then x else { x with flight.remotes := x.flight.remotes ++ [(s.id, s.zones)] })
      else x.discharge m.vclk s.zones (some tick)
    if s.performed then { x with flight.stores := x.flight.stores.filter (fun o => o.id ≠ s.id) } else x)

/-- Tracked copies of a sector are written back and leave, as another value of it is the one last written back: a tracked writer
fetches that value before it writes again (R364, log 12). -/
def Mach.evictTracked (m : Mach) (c sector : Nat) : Mach :=
  m.cores.foldl (fun m e =>
    if e.1 ≠ c && (m.core e.1).sector (sector / 4) (sector % 4) ≠ .invalid then m.evict e.1 (sector / 4) else m) m

/-- Write the core's dirty untracked sectors chosen by `p` back to the home, whole (R363). Of a sector that a tracked writer holds
too, either value is the one last written back (R364, log 12): where it is this one, the tracked L1 has written its own back
before and holds it no longer. The bytes that stores had put into those sectors are performed; a store of which no byte is left
has its ticket. -/
def Mach.writeBack (m : Mach) (c : Nat) (p : Nat → Bool) : Mach :=
  let lands := fun (s : Nat) => !(m.aliased c s) || Config.laterSector m.fresh s
  let dirty := (m.core c).caches.untracked.filter (fun u => u.dirty && p u.sector && lands u.sector)
  let m := dirty.foldl (fun m u => m.evictTracked c u.sector) { m with fresh := m.fresh + 1 }
  let cells := dirty.flatMap (fun u => (List.range 64).map (fun i => (64 * u.sector + i, u.data.extractLsb' (8 * i) 8)))
  let m := m.putGlobal [] cells
  let clean := fun (u : UntrackedSector) => if p u.sector then { u with dirty := false } else u
  let m := m.modCore c (fun x => { x with caches.untracked :=
    (x.caches.untracked.filter (fun u => !(u.leaving && p u.sector))).map clean })
  let gone := fun (s : StoreOp) (b : Nat × BitVec 8) => s.entered && s.loose.contains b.1 && p (b.1 / 64)
  ((m.core c).flight.stores.filter (fun s => s.bytes.any (gone s))).foldl (fun m s =>
    let s := { s with bytes := s.bytes.filter (fun b => !(gone s b)), done := s.done ++ (s.bytes.filter (gone s)).map (·.1) }
    let m := m.modStore c s.id (fun _ => s)
    if s.bytes = [] then m.fixTicket c { s with performed := true } m.vclk else m) m

/-- The L1 of a core takes in the untracked sectors of some cells that it does not hold (R346, R363): under .si with a lease, which
the home records. An evicted sector reaches the home first. -/
def Mach.holdLoose (m : Mach) (c : Nat) (rq : BitVec 2) (cells : List Nat) : Mach :=
  ((cells.map (· / 64)).eraseDups).foldl (fun m s =>
    let m := if (m.core c).caches.untracked.any (fun u => u.sector = s && u.leaving) then m.writeBack c (fun k => k = s) else m
    if (m.core c).caches.untracked.any (fun u => u.sector = s && (decide (rq = 2) || u.lease.isNone)) then
      m.modCore c (fun x => x.touch (s / 4))
    else
      let t := m.vclk + (m.core c).ctl.lease.setWidth 48
      let m := if rq = 2 then m.homeLease (dieOf c) (s / 4) t else m
      let new : UntrackedSector :=
        { sector := s, data := sectorFrom (m.seenMem (dieOf c)) s, dirty := false, lease := if rq = 2 then some t else none }
      let put := fun (x : CoreState) =>
        ({ x with caches.untracked := x.caches.untracked.filter (fun u => u.sector ≠ s) ++ [new] } : CoreState)
      (m.makeRoom c (s / 4)).modCore c (fun x => (put x).touch (s / 4))) m

/-- A store puts its bytes of untracked pages into the L1 of its core (R363). -/
def Mach.enterStore (m : Mach) (c : Nat) (s : StoreOp) : Mach :=
  let own := s.bytes.filter (fun b => s.loose.contains b.1)
  if s.entered || !s.cached || own = [] then m
  else ((m.holdLoose c 0 (own.map (·.1))).modCore c (fun x => writeUntracked x own true)).modStore c s.id
    (fun o => { o with entered := true })

/-- A core of a die writes cells: loads of the die that wait behind a performed access may no longer see them new (R295). -/
def Mach.staleLoads (m : Mach) (d : Nat) (cells : List Nat) : Mach :=
  m.mapCores (fun k x => if dieOf k ≠ d || x.flight.loads.all (fun l => l.floor.isNone) then x
    else { x with flight.loads := x.flight.loads.map (fun l =>
      if l.floor.isSome && (l.elems.flatMap Elem.cells).any cells.contains then { l with stale := true } else l) })

/-- The dies at which a store has been performed ahead. -/
def Mach.earlyDies (m : Mach) (c id : Nat) : List Nat :=
  (m.dies.filter (fun d => d.2.early.any (fun e => decide (e.core = c) && decide (e.id = id)))).map (·.1)

/-- The latest lease under which a core's L1 holds one of some sectors. -/
def CoreState.leaseOf (x : CoreState) (line : Nat) (ss : List Nat) : Option Tick :=
  ss.foldl (fun acc s => match x.sector line s with
    | .leased e => (match acc with
      | some b => if tickGe e b then some b else some e
      | none => some e)
    | _ => acc) none

/-- A performed load settles its charges (R285); one of another module keeps them until its confirmation, and what it owes for bytes
of this module stays too (R282, R283). A lease under which its sectors are held counts from now in the load set of its region
(R312, R355). -/
def Mach.settleLoad (m : Mach) (c : Nat) (l : LoadOp) : Mach :=
  match l.data with
  | none => m
  | some t =>
    let lines := linesOf (l.elems.flatMap Elem.cells)
    let sooner := fun (a b : Option Tick) => match a, b with
      | some a, some b => if tickGe a b then some b else some a
      | a, b => a.or b
    let mark := fun (x : CoreState) (k : LoadMark) => match lines.find? (fun p => p.1 = k.line) with
      | some p => { k with lease := sooner k.lease (x.leaseOf k.line p.2) }
      | none => k
    m.modCore c (fun x =>
      let x := if l.inRegion then { x with region := x.region.map (fun r => { r with marks := r.marks.map (mark x) }) } else x
      if l.remote then ({ x with flight.loads := x.flight.loads.map (fun (o : LoadOp) => if o.id = l.id then l else o) } :
        CoreState).owe l.zones t.ticket t.owes
      else ({ x with flight.loads := x.flight.loads.map (fun (o : LoadOp) =>
        if o.id = l.id then { l with zones := [] } else o) } : CoreState).settle m.vclk l.zones t.ticket t.owes)

/-- Perform an atomic: its read and its write in one step (R104), at the die L2 with the line owned, or at the home agent under .si
and .uc (R105); of an untracked page at the L2 or the home too, where what the L1 holds dirty has gone before. A cas that fails
writes nothing, takes no ticket and charges no zone. -/
def Mach.performAmo (m : Mach) (c : Nat) (l : LoadOp) (a : Amo) : Mach :=
  let cells := l.elems.flatMap Elem.cells
  let m := if l.loose = [] then m else m.writeBack c (fun s => l.loose.any (fun b => b / 64 = s))
  let got := m.capture c { l with loose := [] }
  let old := ofBytes ((got.data.map (·.bytes)).getD [])
  match amoResult a cells.length old with
  | some v =>
    let m := m.settleLoad c got
    let bytes := cells.zip (toBytes cells.length v)
    let tracked := cells.filter (fun b => !(l.loose.contains b))
    let m := ((m.ownSectors c (if l.rq = 0 then 1 else l.rq) false tracked).staleLoads (dieOf c) cells).putGlobal [] bytes
    let m := (m.noteWrite c a.store (some l.stream) cells none).modCore c (fun x => writeUntracked x bytes false)
    m.modStore c a.store (fun s => { s with bytes := bytes, waits := none, performed := true })
  | none =>
    let m := m.settleLoad c { got with data := got.data.map (fun t => { t with ticket := none, owes := [] }) }
    match (m.core c).flight.stores.find? (fun s => s.id = a.store) with
    | some s => m.dropStore c s none
    | none => m

/-- The sectors of a load enter its core's L1, or are recalled for it (R346): those of untracked pages by themselves, of which an
uncached read finds nothing dirty left in the L1 (R363). -/
def Mach.takeIn (m : Mach) (c : Nat) (l : LoadOp) (cells : List Nat) : Mach :=
  if l.device then m
  else
    let own := cells.filter l.loose.contains
    let m := if own = [] then m
      else if l.rq = 3 then m.writeBack c (fun s => own.any (fun a => a / 64 = s))
      else m.holdLoose c l.rq own
    m.readSectors c l.rq (cells.filter (fun a => !(l.loose.contains a)))

/-- Perform one load of a core: its sectors enter its L1 (R346), and its value is fixed. -/
def Mach.performLoad (m : Mach) (c : Nat) (l : LoadOp) : Mach :=
  match l.data, l.amo with
  | some _, _ => m
  | none, some a => m.performAmo c l a
  | none, none =>
    let m := m.takeIn c l (l.elems.flatMap Elem.cells)
    m.settleLoad c (m.capture c l)

/-- A performed store is done with, once its ticket is known; till then it counts in st (R100). -/
def Mach.storeDone (m : Mach) (c : Nat) (s : StoreOp) : Mach :=
  if s.ticket.isSome then m.modCore c (fun x => { x with flight.stores := x.flight.stores.filter (fun o => o.id ≠ s.id) })
  else m.modStore c s.id (fun o => { o with performed := true })

/-- Some bytes of a store are written to global memory, for every observer that has not seen them (R278, R281): over the copies that
its request type and the pages decide (R346, R363, R430). -/
def Mach.writeThrough (m : Mach) (c : Nat) (s : StoreOp) (bytes : List (Nat × BitVec 8)) : Mach :=
  let cells := bytes.map (·.1)
  let dies := m.earlyDies c s.id
  let m := m.ownSectors c s.rq s.engine (cells.filter (fun a => 2 ≤ s.rq.toNat || !(s.loose.contains a)))
  let m := if dies.contains (dieOf c) then m else m.staleLoads (dieOf c) cells
  let m := (m.putGlobal dies bytes).noteWrite c s.id (if s.engine then none else some s.stream) cells s.ticket
  if s.engine then m else m.modCore c (fun x => writeUntracked x (bytes.filter (fun b => s.loose.contains b.1)) false)

/-- Bytes of a store are no longer ahead of the others at any die. -/
def Mach.dropEarly (m : Mach) (c id : Nat) (cells : List Nat) : Mach :=
  let cut := fun (e : Early) =>
    if decide (e.core = c) && decide (e.id = id) then { e with bytes := e.bytes.filter (fun b => !(cells.contains b.1)) } else e
  { m with dies := m.dies.map (fun d => (d.1, { d.2 with early := (d.2.early.map cut).filter (fun e => e.bytes ≠ []) })) }

/-- Perform one store of a core at its space (R281, R429). Bytes that go through the L1 of an untracked page are performed when their
sectors have been written back whole (R363). -/
def Mach.performStore (m : Mach) (c : Nat) (s : StoreOp) : Mach :=
  if s.performed then m
  else match s.space with
    | .glob =>
      let own := if s.cached then (s.bytes.filter (fun b => s.loose.contains b.1)).map (·.1 / 64) else []
      let m := if own = [] then m else (m.enterStore c s).writeBack c own.contains
      match (m.core c).flight.stores.find? (fun o => o.id = s.id) with
      | none => m
      | some s =>
        let m := (m.writeThrough c s s.bytes).dropEarly c s.id (s.bytes.map (·.1))
        m.storeDone c s
    | sp =>
      let m := (m.writeLocal sp s.bytes).setFull sp s.sets true
      let m := if s.clears = [] then m else m.setFull sp s.clears false
      m.storeDone c s

/-- Perform the access of a reference at every observer. -/
def Mach.performRef (m : Mach) (c : Nat) (r : OpRef) : Mach :=
  let x := m.core c
  match x.flight.loads.find? (fun l => l.id = r.id), x.flight.stores.find? (fun s => s.id = r.id),
      x.flight.fars.find? (fun f => f.id = r.id) with
  | some l, _, _ => m.performLoad c l
  | none, some s, _ => m.performStore c s
  | none, none, some f => m.finishFar c f
  | none, none, none => m

/-- The accesses of a core that are performed everywhere before one of them is. -/
def Mach.firstRefs (m : Mach) (c : Nat) (r : OpRef) : List OpRef :=
  mustPrecede (keptPair m.fleet.tempered) r (m.refsBefore c r)

/-- The stores that some die has seen before a store that touches their bytes, and those that the core's own die has seen: they
come first in coherence order too (R279). Under tempered mode every store that a die has seen does (R296). -/
def Mach.seenFirst (m : Mach) (c : Nat) (r : OpRef) : List Early :=
  (m.dies.flatMap (fun d =>
    let mine := fun (e : Early) => decide (e.core = c) && decide (e.id = r.id)
    if r.space ≠ .glob || !r.store || (d.1 ≠ dieOf c && !m.fleet.tempered && !(d.2.early.any mine)) then []
    else (d.2.early.takeWhile (fun e => !(mine e))).filter (fun e => e.bytes.any (fun b => r.cells.contains b.1)))).eraseDups

/-- Perform an access at every observer, after what must precede it there. The number bounds the chain of stores of different
cores that dies have seen one before the other. -/
def Mach.force : Nat → Mach → Nat → OpRef → Mach
  | 0, m, c, r => m.performRef c r
  | n + 1, m, c, r =>
    let one := fun (m : Mach) (k : OpRef) =>
      ((m.seenFirst c k).foldl (fun m e => match (m.openRefs e.core).find? (fun j => j.id = e.id) with
        | some j => Mach.force n m e.core j
        | none => m) m).performRef c k
    one ((m.firstRefs c r).foldl one m) r

/-- The stores that dies have seen ahead of other observers. -/
def Mach.earlyCount (m : Mach) : Nat := (m.dies.map (fun d => d.2.early.length)).sum

/-- Stores on some cells that a die has seen ahead are performed everywhere: an agent of the die writes the cells next (R279). -/
def Mach.forceSeen (m : Mach) (d : Nat) (cells : List Nat) : Mach :=
  ((m.die d).early.filter (fun e => e.bytes.any (fun b => cells.contains b.1))).foldl (fun m e =>
    match (m.openRefs e.core).find? (fun j => j.id = e.id) with
    | some j => m.force (m.earlyCount + 1) e.core j
    | none => m) m

/-- Under tempered mode a write that other dies have seen is performed everywhere before another agent of its own die than its
stream reads it (R296). -/
def Mach.beforeRead (m : Mach) (d : Nat) (mine : Nat → StoreOp → Bool) (cells : List Nat) : Mach :=
  if !m.fleet.tempered then m
  else
    let seen := ((m.dies.flatMap (fun k => k.2.early)).filter (fun e => decide (dieOf e.core = d)
      && e.bytes.any (fun b => cells.contains b.1))).eraseDups
    seen.foldl (fun m e => match (m.core e.core).flight.stores.find? (fun s => s.id = e.id) with
      | some s => if mine e.core s then m else m.force (m.earlyCount + 1) e.core (m.storeRef s)
      | none => m) m

/-- A load is about to take some cells: writes that its own die has not seen come first (R296). -/
def Mach.beforeLoad (m : Mach) (c : Nat) (l : LoadOp) (cells : List Nat) : Mach :=
  m.beforeRead (dieOf c) (fun k s => decide (k = c) && l.follows s) cells

/-- A store is performed at one die ahead of the other observers (R281, R296), over its copies there (R346). Stores of other cores
that another die has seen ahead and that touch its bytes are performed everywhere first, so that all see one order (R279). -/
def Mach.performAt (m : Mach) (d c : Nat) (s : StoreOp) : Mach :=
  if s.performed || s.space ≠ .glob || s.loose ≠ [] || s.bytes = [] || (m.earlyDies c s.id).contains d then m
  else
    let cells := s.bytes.map (·.1)
    let meets := fun (e : Early) => e.bytes.any (fun b => cells.contains b.1)
    let others := (m.dies.flatMap (fun e => e.2.early.filter (fun y => meets y && decide ((y.core, y.id) ≠ (c, s.id))))).eraseDups
    let m := others.foldl (fun m e => match (m.openRefs e.core).find? (fun j => j.id = e.id) with
      | some j => m.force (m.earlyCount + 1) e.core j
      | none => m) m
    let m := m.ownSectors c s.rq s.engine cells
    let m := if d = dieOf c then m.staleLoads d cells else m
    let elsewhere := (List.range 64).filter (fun k => k ≠ d)
    (m.modDie d (fun x => { x with early := x.early ++ [{ core := c, id := s.id, bytes := s.bytes }] })).linesWritten elsewhere
      ((cells.map (· / 256)).eraseDups)

/-- Perform at the observers of its core's own die an access that a later one must not overtake there (R295): a store is performed
at the die; a load keeps what it would take now; a local access is performed. Under tempered mode all observers see a write at
once (R296), so it is performed at all. -/
def Mach.performNear (m : Mach) (c : Nat) (r : OpRef) : Mach :=
  let x := m.core c
  let all := fun (m : Mach) => m.force (m.earlyCount + 1) c r
  match x.flight.loads.find? (fun l => l.id = r.id), x.flight.stores.find? (fun s => s.id = r.id) with
  | some l, _ =>
    if l.amo.isSome || m.fleet.tempered then all m
    else if l.data.isSome || l.floor.isSome then m
    else m.setLoad c { l with floor := some (m.takes c l) }
  | none, some s =>
    if s.space = .glob && s.group = 0 && s.loose = [] && !m.fleet.tempered then m.performAt (dieOf c) c s else all m
  | none, none => all m

/-- The accesses of a core that are performed at the observers of its own die before one of them is (R295). -/
def Mach.nearRefs (m : Mach) (c : Nat) (r : OpRef) : List OpRef :=
  mustPrecede (fun a b => keptPair m.fleet.tempered a b || keptNear a b) r (m.refsBefore c r)

/-- Perform what must precede an access everywhere. -/
def Mach.performFirst (m : Mach) (c : Nat) (r : OpRef) : Mach :=
  (m.firstRefs c r).foldl (fun m k => m.force (m.earlyCount + 1) c k) m

/-- Perform what must precede an access: everywhere, and at the core's own die. -/
def Mach.performBefore (m : Mach) (c : Nat) (r : OpRef) : Mach :=
  let m := m.performFirst c r
  (m.nearRefs c r).foldl (fun m k => m.performNear c k) m

/-- A command writes memory. -/
def CmdKind.writes : CmdKind → Bool
  | .mma .. => false
  | .hrot .. => false
  | .mclr .. => false
  | .cancel _ => false
  | _ => true

/-- An earlier command that the same ct.dusk released has not made its writes, or a pub of it not swapped (R316). -/
def CoreState.groupAhead (x : CoreState) (group id : Nat) : Bool :=
  group ≠ 0 && x.flight.cmds.any (fun k => decide (k.group = group) && decide (k.id < id) && k.kind.writes)

/-- An access, and those that are to be performed with it, can be performed now: no line of theirs is transient at the die (R351),
and no released write waits for a command released before it (R316). -/
def Mach.canPerform (m : Mach) (c : Nat) (r : OpRef) : Bool :=
  (r :: m.nearRefs c r).all (fun k =>
    !(decide (k.space = .glob) && m.cellsBusy c k.cells) && !((m.core c).groupAhead k.group k.id))

/-- A local access that a stream performs now, in a space that other cores reach (R293, R295). -/
def nearRef (x : CoreState) (st : Stream) (slot : Nat) (sp : Space) (cells : List Nat) (store : Bool) (group : Nat := 0) : OpRef :=
  { id := x.flight.nextOp, issue := x.flight.issue, slot := slot, stream := st, load := !store, store := store, space := sp,
    cells := cells, group := group }

/-- Spaces that other cores reach. -/
def Space.sharedBits : Space → Bool
  | .clm _ => true
  | .dsm _ => true
  | _ => false

/-- Perform what must precede a local access that is performed now (R293, R295). -/
def Mach.beforeLocal (m : Mach) (c : Nat) (r : OpRef) : Mach := if r.space.sharedBits then m.performBefore c r else m

end Sys2Proof.Machine
end

