-- ==== Sys2Proof/Machine/Ops.lean ====
section
/-! DEFINITION. The named operations of a core: statistics records, drain points, taking a trap and returning from one,
counted operations, barriers, regions, and the end of a core. -/

namespace Sys2Proof.Machine

/-! ### The statistics queue (R382 to R385) -/

/-- The 32 bytes of a statistics record (R382). -/
def eventRecord (e : Event) (o : Origin) (inRegion : Bool) (now : Tick) (dropped : BitVec 16) : Nat :=
  let flags := o.fed.toNat + 2 * (decide (e.stream = .secondary)).toNat + 4 * inRegion.toNat
  e.kind.toNat + 256 * (e.slot % 256) + 65536 * flags + 2 ^ 32 * min e.count 0xFFFFFFFF
    + 2 ^ 64 * (if o.fed then o.prov.toNat else o.addr.toNat) + 2 ^ 128 * now.toNat + 2 ^ 176 * dropped.toNat
    + 2 ^ 192 * (e.first % 2 ^ 32) + 2 ^ 224 * e.detail.toNat

/-- Unread records of a core's statistics queue. -/
def Queues.unread (q : Queues) : Nat := (q.stqt - q.stqh).toNat

/-- A 16-bit count that saturates. -/
def saturate16 (v : BitVec 16) : BitVec 16 := if v = 0xFFFF then v else v + 1

/-- Append an event (R384); a full queue drops it and counts it (R385). -/
def Mach.appendEvent (m : Mach) (c : Nat) (o : Origin) (e : Event) : Mach :=
  let x := m.core c
  if 254 ≤ x.queues.unread then
    let m := m.modCore c (fun x => { x with queues.dropped := saturate16 x.queues.dropped })
    { m with fleet.drops := Sparse.set 0 m.fleet.drops c (saturate16 (Sparse.get 0 m.fleet.drops c)) }
  else
    let bits := eventRecord e o x.region.isSome m.vclk x.queues.dropped
    let base := x.reg.statRing + 32 * x.queues.stqt.toNat
    let cells := (toBytes 32 bits).mapIdx (fun i b => (base + i, b))
    (m.performGlobal cells).modCore c (fun x =>
      { x with queues.stqt := x.queues.stqt + 1, queues.dropped := 0 })

def Mach.appendEvents (m : Mach) (c : Nat) (o : Origin) (l : List Event) : Mach :=
  l.foldl (fun m e => m.appendEvent c o e) m

/-! ### Drain points (R77) -/

/-- Where the primary stream takes its next bundle from. -/
def CoreState.primaryOrigin (x : CoreState) : Origin :=
  if x.front.fed && !x.trap.monitor then { fed := true, prov := ((x.front.primary.head?).map (·.prov)).getD 0 }
  else { addr := x.front.pc }

/-- Where a stream takes its next bundle from. -/
def CoreState.streamOrigin (x : CoreState) : Stream → Origin
  | .primary => x.primaryOrigin
  | .secondary => { fed := true, prov := ((x.front.secondary.head?).map (·.prov)).getD 0 }

/-- Insert a result by the cycle in which it arrives, and within one cycle in the order of R16. -/
def insertArrival (p : Pending) : List Pending → List Pending
  | [] => [p]
  | x :: r => if x.cycles < p.cycles || (x.cycles = p.cycles && landsBefore x p) then x :: insertArrival p r else p :: x :: r

/-- Every pending fixed-latency result of both streams takes effect, in the cycle in which it arrives: those that have arrived, in the
cycle at hand, then the others; results of one cycle that name one register meet as in R16, in an event of the primary stream
(log 94). -/
def Mach.drain (m : Mach) (c : Nat) : Mach :=
  let m := (m.core c).flight.fars.foldl (fun m f => m.finishFar c f) m
  let x := m.core c
  let here := landNow x (x.flight.pend.filter (fun p => p.cycles = 0)) [] .primary
  let later := (x.flight.pend.filter (fun p => p.cycles ≠ 0)).foldl (fun acc p => insertArrival p acc) []
  let meet := fun (p y : Pending) => decide (y.dest = p.dest) && decide (y.cycles = p.cycles)
  (m.setCore c (later.foldl landOne here.1)).appendEvents c x.primaryOrigin (here.2 ++ conflicts meet .primary later)

/-! ### The trap queue and taking a trap (R374 to R381) -/

/-- The value of TCAUSE (R374). -/
def Trap.tcause (t : Trap) : Dword := BitVec.ofNat 64 (t.cause.toNat + 256 * t.fatal.toNat + 512 * t.replay.toNat)

/-- EPC of a bundle (R27): its address, or [0] set for a fed one. -/
def Origin.epc (o : Origin) : Dword := if o.fed then 1 else o.addr

/-- A record of the trap queue (R380). -/
def trapRecord (x : CoreState) (c : Nat) (now : Tick) (tcause taddr tprov tval epc : Dword) (flags : Nat) : BitVec 512 :=
  BitVec.ofNat 512 (tcause.toNat + 2 ^ 64 * taddr.toNat + 2 ^ 128 * tprov.toNat + 2 ^ 192 * tval.toNat
    + 2 ^ 256 * epc.toNat + 2 ^ 320 * now.toNat + 2 ^ 384 * c + 2 ^ 400 * flags + 2 ^ 416 * x.reg.launch.toNat
    + 2 ^ 448 * x.ctl.space.toNat)

/-- Append a record to the trap queue, in the state and in its ring in HBM (R380). -/
def Mach.appendTrap (m : Mach) (c : Nat) (r : TrapRec) : Mach :=
  let x := m.core c
  let base := x.reg.trapRing + 64 * ((x.queues.trapHead + x.queues.trapq.length) % 32)
  let cells := (toBytes 64 r.bits.toNat).mapIdx (fun i b => (base + i, b))
  (m.performGlobal cells).modCore c (fun x => { x with queues.trapq := x.queues.trapq ++ [r] })

/-- A fatal trap (R379): its record is appended, the core stops issuing, and its entry takes the state faulted. One that
finds the reserved record taken writes nothing and marks the entry queue exhausted (R381). -/
def Mach.fatalTrap (m : Mach) (c : Nat) (bits : BitVec 512) : Mach :=
  if 32 ≤ (m.core c).queues.trapq.length then m.modCore c (fun x => { x with reg.status := .exhausted })
  else (m.appendTrap c { bits := bits, fatal := true, replay := false }).modCore c
    (fun x => { x with reg.status := .faulted })

/-- The flags of record bytes 50–51 (R380). -/
def trapFlags (code : Nat) (ended nested secondary draining : Bool) : Nat :=
  code % 4096 + 4096 * ended.toNat + 8192 * nested.toNat + 16384 * secondary.toNat + 32768 * draining.toNat

/-- F2 records the address of a malformed table entry that a walk has met (R358). -/
def Mach.noteWalk (m : Mach) (w : Walk) : Mach :=
  match w with
  | .malformed a => { m with fw.malformed := a :: m.fw.malformed }
  | _ => m

/-- Count a dual-check mismatch for the fleet operator (R386), and record a malformed table entry for F2 (R358). -/
def Mach.noteCause (m : Mach) (c : Nat) (t : Trap) : Mach :=
  if t.cause = 8 then
    { m with fleet.mismatches := Sparse.set 0 m.fleet.mismatches c (saturate16 (Sparse.get 0 m.fleet.mismatches c)) }
  else if t.cause = 3 then
    m.noteWalk (m.walkAt (dieOf c) (m.core c).ctl.space t.taddr)
  else m

/-- TAKING A TRAP (R376 to R379), raised by a bundle of a stream: drain, append the record, write the trap registers
with the pending transfers and the primary address, enter monitor mode at the service entry. A replayable trap enters
no monitor mode and leaves its bundle at the head (R378); a fatal one stops the core (R379). In monitor mode sc.trap
ends the context with a record made from the current trap registers, and any other trap is nested (R377). -/
def Mach.takeTrap (m : Mach) (c : Nat) (stream : Stream) (o : Origin) (t : Trap) : Mach :=
  let m := (m.noteCause c t).drain c
  let x := m.core c
  let sec := decide (stream = .secondary)
  let own := fun flags => trapRecord x c m.vclk t.tcause t.taddr (if o.fed then o.prov else 0) t.tval o.epc flags
  if x.trap.monitor then
    if t.cause = 0x0A && t.fatal then
      m.fatalTrap c (trapRecord x c m.vclk (setBit x.trap.tcause 8 true) x.trap.taddr x.trap.tprov x.trap.tval x.trap.epc
        (trapFlags t.tval.toNat true false sec false))
    else m.fatalTrap c (own (trapFlags 0 false true sec t.draining))
  else if t.fatal then m.fatalTrap c (own (trapFlags 0 false false sec t.draining))
  else if t.replay then
    (m.appendTrap c { bits := own (trapFlags 0 false false sec t.draining), fatal := false, replay := true }).modCore c
      (fun x => { x with replay := x.replay ++ [(stream, t.cause, t.taddr)] })
  else
    let service := (m.die (dieOf c)).service
    (m.appendTrap c { bits := own (trapFlags 0 false false sec t.draining), fatal := false, replay := false }).modCore c
      (fun x => { x with
        trap := { tcause := t.tcause, taddr := t.taddr, tprov := if o.fed then o.prov else 0, tval := t.tval,
                  epc := o.epc, kept := x.front.transfers, resume := x.front.pc, stream := stream, monitor := true },
        front.pc := service,
        front.transfers := [],
        front.sp := { x.front.sp with fence := none, mwait := none },
        front.ss := if sec then { x.front.ss with fence := none, mwait := none } else x.front.ss })

/-! ### Transfers of control (R82, R83) -/

/-- The address and transfers after a bundle at `pc` has issued. -/
def advance (pc : Dword) (ts : List Transfer) : Dword × List Transfer :=
  let ts := ts.map (fun t => { t with left := t.left - 1 })
  match ts.find? (fun t => t.left = 0) with
  | some t => (t.target, ts.filter (fun t => t.left ≠ 0))
  | none => (pc + 32, ts)

/-- RETURN FROM A TRAP (R110): a drain point; the stream leaves monitor mode and resumes at the bundle of EPC, or, where TCAUSE
names sc.svc or sc.brk, at the position after it; the pending transfers are reinstated. With EPC[0] set the position is that
of the emit queue whose bundle trapped: its head, or the entry behind it; with EPC[0] clear it is memory. -/
def Mach.returnFromTrap (m : Mach) (c : Nat) : Mach :=
  (m.drain c).modCore c (fun x =>
    let t := x.trap
    let call := (field t.tcause 0 8 = 0x0A || field t.tcause 0 8 = 0x0B) && !(bit t.tcause 8)
    let fed := bit t.epc 0
    let next := if fed then (t.resume, t.kept)
      else if call then advance (t.epc &&& ~~~(31 : Dword)) t.kept
      else (t.epc &&& ~~~(31 : Dword), t.kept)
    let past := fun (s : Stream) (q : List Entry) => if fed && call && t.stream = s then q.drop 1 else q
    { x with
      trap := { t with monitor := false, kept := [], resume := 0, stream := .primary },
      front.fed := if t.stream = .primary then fed else x.front.fed && fed,
      front.primary := past .primary x.front.primary,
      front.secondary := past .secondary x.front.secondary,
      front.pc := next.1,
      front.transfers := next.2 })

/-! ### Counted operations (R76, R100) -/

/-- A store enters the core: it takes the core's next operation number and counts in st (R100). A store to a near local
space is performed in its issue cycle, so it leaves the counter at once (R429). -/
def Mach.issueStore (m : Mach) (c : Nat) (s : StoreOp) (ranges : List (Nat × Nat)) : Mach :=
  let x := m.core c
  let far := match s.bytes, s.sets with
    | (a, _) :: _, _ => isFar c s.space a
    | [], g :: _ => isFar c s.space (16 * g)
    | [], [] => false
  match s.space with
  | .glob =>
    let cz := x.charge (x.zonesOf ranges)
    let s := { s with id := x.flight.nextOp, issue := x.flight.issue, zones := cz.2 }
    m.setCore c { cz.1 with
      flight.nextOp := x.flight.nextOp + 1,
      flight.stores := cz.1.flight.stores ++ [s],
      cnt.st := x.cnt.st + 1 }
  | .clm _ | .dsm _ =>
    if far then
      let cz := x.charge [0]
      let s := { s with id := x.flight.nextOp, issue := x.flight.issue, zones := cz.2 }
      m.setCore c { cz.1 with
        flight.nextOp := x.flight.nextOp + 1,
        flight.stores := cz.1.flight.stores ++ [s],
        cnt.st := x.cnt.st + 1 }
    else
      let m := ((m.beforeLocal c (nearRef x s.stream s.slot s.space (s.bytes.map (·.1)) true s.group)).writeLocal s.space
        s.bytes).setFull s.space s.sets true
      if s.clears = [] then m else m.setFull s.space s.clears false
  | _ =>
    let m := (m.writeLocal s.space s.bytes).setFull s.space s.sets true
    if s.clears = [] then m else m.setFull s.space s.clears false

/-- A counted load enters the core and counts in ld (R100). -/
def Mach.issueLoad (m : Mach) (c : Nat) (l : LoadOp) (ranges : List (Nat × Nat)) : Mach :=
  let x := m.core c
  let cz := x.charge (x.zonesOf ranges)
  m.setCore c { cz.1 with
    flight.nextOp := x.flight.nextOp + 1,
    flight.loads := cz.1.flight.loads ++
      [{ l with id := x.flight.nextOp, issue := x.flight.issue, zones := cz.2, inRegion := x.region.isSome }],
    cnt.ld := x.cnt.ld + 1 }

/-- A command with a local access to cluster memory or die scratchpad, and a cp.bcast, is charged to z0 (R284). -/
def Command.chargesLocal (k : Command) : Bool :=
  k.ivals.any (fun v => match v.space with
    | .clm _ | .dsm _ => true
    | _ => false)
  || (match k.kind with
      | .copy .bcast _ _ _ _ => true
      | _ => false)

/-- An engine command enters its counter (R161): mx in slot 4, cp otherwise. A command held by fo waits for the copy that
was issued just before it (R73, R184). -/
def Mach.issueCommand (m : Mach) (c : Nat) (k : Command) (reads writes : List (Nat × Nat)) : Mach :=
  let x := m.core c
  let localZone := k.chargesLocal
  let rz := if reads = [] then [] else x.zonesOf reads
  let wz := (if writes = [] then [] else x.zonesOf writes) ++ (if localZone then [0] else [])
  let a := x.charge rz
  let b := a.1.charge wz.eraseDups
  let k := { k with
    id := x.flight.nextOp,
    issue := x.flight.issue,
    zonesRead := a.2,
    zonesWrite := b.2,
    after := k.after.map (fun _ => x.flight.nextOp - 1) }
  m.setCore c { b.1 with
    flight.nextOp := x.flight.nextOp + 1,
    flight.cmds := b.1.flight.cmds ++ [k],
    cnt.mx := if k.slot = 4 then x.cnt.mx + 1 else x.cnt.mx,
    cnt.cp := if k.slot = 4 then x.cnt.cp else x.cnt.cp + 1 }

/-- Deliver a performed load (R76): its register is written, what charges it has left leave their zones (R283, R285), and ld
falls. -/
def Mach.deliver (m : Mach) (c : Nat) (l : LoadOp) : Mach :=
  let bytes := (l.data.map (·.bytes)).getD []
  m.modCore c (fun x =>
    let x := match l.dest with
      | some d =>
        let vector := match d with
          | .v _ => true
          | _ => false
        let lanes := if vector then ofMask (fun n => l.elems.any (fun e => e.lane = n)) else BitVec.allOnes 64
        clearGuard (writeDest x d (elemsValue l.elems bytes vector) lanes l.tag) d l.issue
      | none => x
    { x with
      flight.loads := x.flight.loads.filter (fun y => y.id ≠ l.id),
      cnt.ld := x.cnt.ld - 1 }.discharge m.vclk l.zones none)

/-! ### Barriers (R120, R243 to R248) -/

/-- The unit of a core's domain at a level (R243). -/
def domainUnit (x : CoreState) (c level : Nat) : Nat :=
  match level with
  | 1 => clusterOf c
  | 2 => dieOf c
  | 3 => field x.ctl.dmem 5 3
  | 5 => field x.ctl.dmem 16 16
  | _ => 0

/-- The key of a domain's counts in its launch; level 5, whose units are numbered up to 65,535, comes last. -/
def domainKey (level unit : Nat) : Nat := 1024 * level + unit

/-- The level and the unit of a key. -/
def keyDomain (key : Nat) : Nat × Nat := if 5120 ≤ key then (5, key - 5120) else (key / 1024, key % 1024)

/-- Apply a function to the launch of a number. -/
def Mach.modLaunch (m : Mach) (n : BitVec 32) (f : Launch → Launch) : Mach :=
  { m with fw.launches := m.fw.launches.map (fun l => if l.number = n then f l else l) }

def Mach.launch (m : Mach) (n : BitVec 32) : Option Launch := m.fw.launches.find? (fun l => l.number = n)

/-- A domain whose count has reached its member count ends its phase (R245): the count is reset, then A[L] of every
member cleared. -/
def Mach.endPhase (m : Mach) (n : BitVec 32) (level unit : Nat) : Mach :=
  match m.launch n with
  | none => m
  | some l =>
    let key := domainKey level unit
    if Sparse.get 0 l.members key ≠ 0 ∧ Sparse.get 0 l.arrived key = Sparse.get 0 l.members key then
      let m := m.modLaunch n (fun l => { l with arrived := Sparse.set 0 l.arrived key 0, away := Sparse.set 0 l.away key 0 })
      m.mapCores (fun k x => if x.reg.launch = n && bit x.ctl.dmem (level - 1) && domainUnit x k level = unit then
        { x with arrive := setBit x.arrive (level - 1) false } else x)
    else m

/-- An arrival of a core at its level-L domain (R120, R245). -/
def Mach.arrive (m : Mach) (c level : Nat) : Mach :=
  let x := m.core c
  let unit := domainUnit x c level
  let key := domainKey level unit
  let m := m.modCore c (fun x => { x with arrive := setBit x.arrive (level - 1) true })
  let m := m.modLaunch x.reg.launch (fun l =>
    { l with arrived := Sparse.set 0 l.arrived key (Sparse.get 0 l.arrived key + 1) })
  m.endPhase x.reg.launch level unit

/-- Service code clears membership bits (R244): a core that leaves counts as arrived in the current phase if its flag is
clear, and the domain counts one member fewer from the next phase on. -/
def Mach.leaveDomain (m : Mach) (c level : Nat) : Mach :=
  let x := m.core c
  let unit := domainUnit x c level
  let key := domainKey level unit
  let counted := bit x.arrive (level - 1)
  let m := m.modCore c (fun x => { x with
    ctl.dmem := setBit x.ctl.dmem (level - 1) false,
    arrive := setBit x.arrive (level - 1) false })
  let m := m.modLaunch x.reg.launch (fun l =>
    { l with
      members := Sparse.set 0 l.members key (Sparse.get 0 l.members key - 1),
      arrived := if counted then Sparse.set 0 l.arrived key (Sparse.get 0 l.arrived key - 1) else l.arrived })
  m.endPhase x.reg.launch level unit

/-! ### Regions (R304 to R319) -/

/-- Open a region at ct.dawn: the checkpoint of R305. -/
def Mach.openRegion (m : Mach) (c : Nat) (recovery : Dword) : Mach :=
  m.modCore c (fun x => { x with
    region := some { recovery := recovery, regs := x.regs, tags := (List.range 4).map (fun i => (x.tile i).tag) } })

/-- The 16-byte pieces that bytes lo to hi touch (R306). -/
def pieces (cells : List Nat) : Nat := ((cells.map (· / 16)).eraseDups).length

/-- Entries of the region store buffer in use (R313). -/
def Region.entries (r : Region) : Nat :=
  (r.held.map (fun h => match h with
    | .write w => w.entries
    | .take _ _ => 1
    | .cmd _ _ => 0)).sum

/-- Commands held (R313). -/
def Region.commands (r : Region) : Nat :=
  (r.held.filter (fun h => match h with
    | .cmd _ _ => true
    | _ => false)).length

/-- Counted loads of the region that have not delivered. -/
def CoreState.regionLoads (x : CoreState) : Bool := x.flight.loads.any (fun l => l.inRegion)

/-- Roll the region back (R315): restore the checkpoint, discard held effects, guards, marks and reservations, stop the
region's cp.sh commands and free their pages, write REGSTAT and REGCNT, and resume at the recovery path. -/
def Mach.rollback (m : Mach) (c : Nat) (reason : BitVec 4) : Mach :=
  let m := m.drain c
  match (m.core c).region with
  | none => m
  | some r =>
    let gone := (m.core c).flight.cmds.filter (fun k => k.inRegion)
    m.modCore c (fun x => gone.foldl (fun y k => y.discharge m.vclk (k.zonesRead ++ k.zonesWrite) none) { x with
      regs := r.regs,
      tiles := (List.range 4).foldl
        (fun t i => Sparse.set {} t i { Sparse.get {} t i with tag := (r.tags[i]?).getD 0x11 }) x.tiles,
      flight.cmds := x.flight.cmds.filter (fun k => !k.inRegion),
      cnt.cp := x.cnt.cp - BitVec.ofNat 6 gone.length,
      shadows := x.shadows.map (fun s => { s with pages := s.pages.filter (fun p => !p.inRegion) }),
      ctl.reason := reason,
      ctl.rollTick := m.vclk,
      ctl.regcnt := x.ctl.regcnt + 1,
      region := none,
      front.transfers := [],
      front.sp := { x.front.sp with fence := none, mwait := none },
      front.pc := r.recovery })

/-- A counter at 63 holds a further operation of its class (R272). -/
def full (n : BitVec 6) : Bool := n = 63

/-- Scoreboard entries in use (R271). -/
def intervalsUsed (x : CoreState) : Nat := (x.flight.cmds.map (fun k => k.ivals.length)).sum

/-- The state of the issuing stream. -/
def CoreState.streamState (x : CoreState) : Stream → StreamState
  | .primary => x.front.sp
  | .secondary => x.front.ss

/-- A load of the stream that a ct.fence.acq waits for has not delivered. -/
def AcqHold.waits (h : AcqHold) (x : CoreState) (s : Stream) : Bool :=
  x.flight.loads.any (fun l => h.loads.contains l.id)
  || x.flight.pend.any (fun p => p.load && p.stream = s && p.issue < h.before && (0 < p.cycles || p.far.isSome))

/-- An access of a stream in some zones is held by an acquire, or a write by a ct.fence.vis (R288, R289). -/
def CoreState.orderHeld (x : CoreState) (now : Tick) (stream : Stream) (zones : List Nat) (write : Bool) : Bool :=
  let s := x.streamState stream
  s.acq.any (fun h => zones.any (fun z => bit h.zones z) && h.waits x stream)
  || (write && s.vis.any (fun f => !(x.fenceMet now f)))

/-- What a ct.fence.acq of a stream waits for as the core stands (R288). -/
def acquireHold (x : CoreState) (st : Stream) (zones : BitVec 8) : AcqHold :=
  { zones := zones, loads := (x.flight.loads.filter (fun l => l.stream = st)).map (·.id), before := x.flight.issue }

/-- An interval meets one of an engine command in flight, and one of the two writes (R269). -/
def interlocked (x : CoreState) (sp : Space) (lo hi : Nat) (write : Bool) : Bool :=
  match sp with
  | .const _ => false
  | _ => x.flight.cmds.any (fun k => k.ivals.any (fun v =>
      v.space = sp && meets v.lo v.hi lo hi && (write || v.write)))

/-- Zones of a local access (R284): z0 for cluster memory and die scratchpad. -/
def localZones : Space → List Nat
  | .clm _ => [0]
  | .dsm _ => [0]
  | _ => []

/-- A committed command has room in its counter (R272). -/
def CoreState.counterRoom (x : CoreState) (k : Command) : Bool := if k.slot = 4 then !(full x.cnt.mx) else !(full x.cnt.cp)

/-- The scoreboard has room for some commands (R271). -/
def CoreState.intervalRoom (x : CoreState) (l : List Command) : Bool :=
  decide (intervalsUsed x + (l.map (fun k => k.ivals.length)).sum ≤ 32)

/-- A committed store can be released: its counter, its fences, the scoreboard, and what a near one must wait for (R316). -/
def Mach.storeRoom (m : Mach) (c : Nat) (w : HeldWrite) : Bool :=
  let x := m.core c
  let cells := w.store.bytes.map (·.1)
  let zones := match w.store.space with
    | .glob => x.zonesOf w.ranges
    | sp => localZones sp
  let lohi := span cells
  let near := w.store.space.sharedBits && !(cells.any (fun a => isFar c w.store.space a))
  let r := nearRef { x with flight.issue := x.flight.issue + 1 } w.store.stream w.store.slot w.store.space cells true x.releaseGroup
  !(full x.cnt.st) && !(x.orderHeld m.vclk w.store.stream zones true)
    && (w.store.bytes = [] || !(interlocked x w.store.space lohi.1 lohi.2 true))
    && (!near || m.canPerform c r)

/-- Each released effect is an issue of its own (R316, log 4). -/
def Mach.nextIssue (m : Mach) (c : Nat) : Mach := m.modCore c (fun x => { x with flight.issue := x.flight.issue + 1 })

/-- A committed command issues. -/
def Mach.releaseCmd (m : Mach) (c : Nat) (k : Command) (ranges : List (Nat × Nat × Bool)) : Mach :=
  (m.nextIssue c).issueCommand c { k with group := (m.core c).releaseGroup }
    ((ranges.filter (fun r => !r.2.2)).map (fun r => (r.1, r.2.1))) ((ranges.filter (fun r => r.2.2)).map (fun r => (r.1, r.2.1)))

/-- Release committed effects in program order, as if each issued at the commit point (R316), as far as counters, fences and the
scoreboard allow; a copy word with fo and its MX word together (R308). -/
def releaseList (c : Nat) : List Held → Mach → Mach × List Held
  | [], m => (m, [])
  | .write w :: r, m =>
    if m.storeRoom c w then
      releaseList c r ((m.nextIssue c).issueStore c { w.store with group := (m.core c).releaseGroup } w.ranges)
    else (m, .write w :: r)
  | .take sp g :: r, m =>
    if interlocked (m.core c) sp (16 * g) (16 * g + 15) true then (m, .take sp g :: r)
    else releaseList c r ((m.nextIssue c).setFull sp [g] false)
  | .cmd k q :: r, m =>
    let x := m.core c
    match r with
    | .cmd k2 q2 :: r2 =>
      if k2.after.isSome then
        if x.counterRoom k && x.counterRoom k2 && x.intervalRoom [k, k2] then
          releaseList c r2 ((m.releaseCmd c k q).releaseCmd c k2 q2)
        else (m, .cmd k q :: .cmd k2 q2 :: r2)
      else if x.counterRoom k && x.intervalRoom [k] then releaseList c (.cmd k2 q2 :: r2) (m.releaseCmd c k q)
      else (m, .cmd k q :: .cmd k2 q2 :: r2)
    | r => if x.counterRoom k && x.intervalRoom [k] then releaseList c r (m.releaseCmd c k q) else (m, .cmd k q :: r)

/-- What is left waits for scoreboard intervals alone. -/
def CoreState.wantsIntervals (x : CoreState) : Bool :=
  match x.releasing with
  | .cmd k _ :: .cmd k2 _ :: _ =>
    x.counterRoom k && (if k2.after.isSome then x.counterRoom k2 && !(x.intervalRoom [k, k2]) else !(x.intervalRoom [k]))
  | .cmd k _ :: _ => x.counterRoom k && !(x.intervalRoom [k])
  | _ => false

/-- Go on releasing; a cycle in which the scoreboard has no room counts as a stretch cycle of the primary stream (R271). -/
def Mach.release (m : Mach) (c : Nat) : Mach :=
  let p := releaseList c (m.core c).releasing m
  p.1.modCore c (fun x =>
    let x := { x with releasing := p.2 }
    if x.wantsIntervals then { x with
      front.sp.heldCycles := x.front.sp.heldCycles + 1,
      front.sp.heldSlot := match x.releasing with
        | .cmd k _ :: _ => k.slot
        | _ => 0 }
    else x)

/-- Pages that a pub in flight is to publish charge it to their zones (R182). -/
def CoreState.chargePubs (x : CoreState) (handle : Dword) (ranges : List (Nat × Nat)) : CoreState :=
  if ranges = [] then x
  else x.flight.cmds.foldl (fun x k =>
    let cz := x.charge ((x.zonesOf ranges).filter (fun z => !(k.zonesWrite.any (fun e => e.1 = z))))
    if k.kind = .pub handle then
      { cz.1 with flight.cmds := cz.1.flight.cmds.map (fun o => if o.id = k.id then { o with zonesWrite := o.zonesWrite ++ cz.2 } else o) }
    else x) x

/-- The virtual addresses of a shadow page. -/
def ShadowPage.range (p : ShadowPage) : Nat × Nat := (p.va % 2 ^ 57, p.va % 2 ^ 57 + 16384 * p.units - 1)

/-- The pages of a region charge the pubs in flight as it commits. -/
def CoreState.chargeRegion (x : CoreState) : CoreState :=
  x.shadows.foldl (fun x s => x.chargePubs s.handle ((s.pages.filter (fun p => p.inRegion)).map ShadowPage.range)) x

/-- Shadow pages are no longer of an open region. -/
def keepPages (l : List ShadowSet) : List ShadowSet :=
  l.map (fun s => { s with pages := s.pages.map (fun p => { p with inRegion := false }) })

/-- The commit point of a region (R316): it closes, and its held effects are released in program order. -/
def Mach.commitRegion (m : Mach) (c : Nat) : Mach :=
  match (m.core c).region with
  | none => m
  | some r => (m.modCore c (fun x => { x.chargeRegion with
      region := none,
      releasing := x.releasing ++ r.held,
      releaseGroup := x.flight.issue + 1,
      shadows := keepPages x.shadows })).release c

/-! ### The end of a core (R130, R260) -/

/-- The binding of a queue of a core lapses (R130, R213): the slot that held it keeps its standing for e.wait when
`atEnd` (R215), and STREAMCTL[1] follows the secondary queue. Bit 2 k + q for core-in-cluster k and queue q. -/
def Mach.lapse (m : Mach) (c q : Nat) (atEnd : Bool) : Mach :=
  let n := 2 * inCluster c + q
  let drop := fun (h : Hart) => if bit h.mbind n then
      { h with mbind := setBit h.mbind n false, lapsed := if atEnd then setBit h.lapsed n true else h.lapsed }
    else h
  let m := m.modComp (clusterOf c) (fun k => { k with harts := k.harts.map (fun h => (h.1, drop h.2)) })
  if q = 1 then m.modCore c (fun x => { x with front.bound := false }) else m

/-- ct.end: a drain point; the binding of the primary queue lapses, entries behind it are discarded, the core issues
nothing more and reports to its launch. -/
def Mach.endCore (m : Mach) (c : Nat) : Mach :=
  let m := m.drain c
  let n := (m.core c).reg.launch
  let m := (m.lapse c 0 true).modCore c (fun x => { x with
    reg.status := .ended,
    front.primary := [],
    front.transfers := [],
    front.bound := false,
    caches.untracked := [] })
  m.modLaunch n (fun l => { l with reported := l.reported ++ [c] })

end Sys2Proof.Machine
end

