-- ==== Sys2Proof/Machine/Ticket.lean ====
section
/-! DEFINITION. Tickets (R280, R281): the leases outstanding on a line (R347, R355) and the ticket that a write takes. -/

namespace Sys2Proof.Machine

/-- The expiries of the leases outstanding on a line: in an L1, at a slice, at the home, or, for a line without a home
entry, the bound of its home agent (R347, R355). -/
def Mach.leases (m : Mach) (line : Nat) : List Tick :=
  (m.cores.flatMap (fun e => (Sparse.get [] e.2.caches.l1 line).filterMap (fun s => match s with
    | .leased t => some t
    | _ => none)))
  ++ m.dies.filterMap (fun d => (Sparse.find d.2.dir line).bind (·.lease))
  ++ (match Sparse.find m.homes line with
    | some h => h.lease.toList
    | none => (Sparse.find m.bounds (homeAgent (256 * line))).toList)

/-- The ticket of a write whose acknowledgements are all held now: the tick now, or the first after every lease on its lines (R280,
R347). -/
def Mach.leastTicket (m : Mach) (cells : List Nat) : Tick :=
  ((cells.map (· / 256)).eraseDups.flatMap m.leases).foldl (fun t e => if tickGe t (e + 1) then t else e + 1) m.vclk

/-- The ticket that a store takes now. One that another module forms is that module's choice, less than 2^40 ticks ahead (R10, R283,
log 46). -/
def Mach.storeTick (m : Mach) (s : StoreOp) (t : Tick) : Tick :=
  let least := m.leastTicket (s.bytes.map (·.1) ++ s.done)
  if s.remote && tickGe t least && decide ((t - m.vclk).toNat < 2 ^ 40) then t else least

end Sys2Proof.Machine
end

