-- ==== Sys2Proof/Machine/Rv.lean ====
section
/-! DEFINITION. A generator slot as a RISC-V hart (R202, R203, R207): arithmetic, control and status registers, memory
accesses with their exceptions, and how an exception is taken. Where the spec names the RISC-V standard, the standard's
meaning stands here (log 5, PRESUMED). -/

namespace Sys2Proof.Machine

/-! ### Arithmetic (RV64IM, Zba, Zbb, Zbs) -/

/-- A 32-bit result, sign-extended. -/
def sx32 (v : Nat) : Dword := (BitVec.ofNat 32 v).signExtend 64

/-- The quotient of RISC-V: all ones by zero. -/
def rvDiv (w : Nat) (a b : BitVec w) : BitVec w := if b = 0 then BitVec.allOnes w else a.sdiv b
def rvDivu (w : Nat) (a b : BitVec w) : BitVec w := if b = 0 then BitVec.allOnes w else a / b
def rvRem (w : Nat) (a b : BitVec w) : BitVec w := if b = 0 then a else a.srem b
def rvRemu (w : Nat) (a b : BitVec w) : BitVec w := if b = 0 then a else a % b

/-- The high half of a product of integers. -/
def highProduct (a b : Int) : Dword := BitVec.ofInt 64 (a * b / 18446744073709551616)

/-- A rotation to the right by n of w bits. -/
def rotateRight (w : Nat) (a : BitVec w) (n : Nat) : BitVec w := (a >>> (n % w)) ||| (a <<< ((w - n % w) % w))

/-- A two-operand operation. -/
def rvAlu (op : RvAlu) (a b : Dword) : Dword :=
  let sh := b.toNat % 64
  let low : Dword := BitVec.ofNat 64 (a.toNat % 4294967296)
  match op with
  | .add => a + b
  | .sub => a - b
  | .sll => a <<< sh
  | .slt => if a.slt b then 1 else 0
  | .sltu => if a < b then 1 else 0
  | .xor => a ^^^ b
  | .srl => a >>> sh
  | .sra => a.sshiftRight sh
  | .or => a ||| b
  | .and => a &&& b
  | .mul => a * b
  | .mulh => highProduct a.toInt b.toInt
  | .mulhsu => highProduct a.toInt b.toNat
  | .mulhu => highProduct a.toNat b.toNat
  | .div => rvDiv 64 a b
  | .divu => rvDivu 64 a b
  | .rem => rvRem 64 a b
  | .remu => rvRemu 64 a b
  | .sh1add => b + (a <<< 1)
  | .sh2add => b + (a <<< 2)
  | .sh3add => b + (a <<< 3)
  | .adduw => b + low
  | .sh1adduw => b + (low <<< 1)
  | .sh2adduw => b + (low <<< 2)
  | .sh3adduw => b + (low <<< 3)
  | .andn => a &&& ~~~b
  | .orn => a ||| ~~~b
  | .xnor => ~~~(a ^^^ b)
  | .min => if a.slt b then a else b
  | .minu => if a < b then a else b
  | .max => if a.slt b then b else a
  | .maxu => if a < b then b else a
  | .rol => rotateRight 64 a (64 - sh)
  | .ror => rotateRight 64 a sh
  | .bclr => a &&& ~~~((1 : Dword) <<< sh)
  | .bext => (a >>> sh) &&& 1
  | .binv => a ^^^ ((1 : Dword) <<< sh)
  | .bset => a ||| ((1 : Dword) <<< sh)

/-- A two-operand operation of the 32-bit forms. -/
def rvAluW (op : RvAluW) (a b : Dword) : Dword :=
  let x : BitVec 32 := a.setWidth 32
  let y : BitVec 32 := b.setWidth 32
  let sh := b.toNat % 32
  BitVec.signExtend 64 (match op with
    | .addw => x + y
    | .subw => x - y
    | .sllw => x <<< sh
    | .srlw => x >>> sh
    | .sraw => x.sshiftRight sh
    | .mulw => x * y
    | .divw => rvDiv 32 x y
    | .divuw => rvDivu 32 x y
    | .remw => rvRem 32 x y
    | .remuw => rvRemu 32 x y
    | .rolw => rotateRight 32 x (32 - sh)
    | .rorw => rotateRight 32 x sh)

/-- Leading zero bits of the low `w` bits. -/
def leadingZeros (w v : Nat) : Nat := if v % 2 ^ w = 0 then w else w - 1 - Nat.log2 (v % 2 ^ w)

/-- Trailing zero bits of the low `w` bits. -/
def trailingZeros (w v : Nat) : Nat := ((List.range w).find? (fun n => v / 2 ^ n % 2 = 1)).getD w

/-- Bits set among the low `w` bits. -/
def onesCount (w v : Nat) : Nat := ((List.range w).filter (fun n => v / 2 ^ n % 2 = 1)).length

/-- A one-operand operation. -/
def rvUnary (op : RvUnary) (a : Dword) : Dword :=
  let n := a.toNat
  let bytes := toBytes 8 n
  match op with
  | .clz => BitVec.ofNat 64 (leadingZeros 64 n)
  | .ctz => BitVec.ofNat 64 (trailingZeros 64 n)
  | .cpop => BitVec.ofNat 64 (onesCount 64 n)
  | .sextb => (BitVec.ofNat 8 n).signExtend 64
  | .sexth => (BitVec.ofNat 16 n).signExtend 64
  | .zexth => BitVec.ofNat 64 (n % 65536)
  | .orcb => BitVec.ofNat 64 (ofBytes (bytes.map (fun b => if b = 0 then 0 else 0xFF)))
  | .rev8 => BitVec.ofNat 64 (ofBytes bytes.reverse)
  | .clzw => BitVec.ofNat 64 (leadingZeros 32 n)
  | .ctzw => BitVec.ofNat 64 (trailingZeros 32 n)
  | .cpopw => BitVec.ofNat 64 (onesCount 32 n)

/-- The condition of a branch. -/
def rvHolds (c : RvCond) (a b : Dword) : Bool :=
  match c with
  | .eq => a = b
  | .ne => a ≠ b
  | .lt => a.slt b
  | .ge => !a.slt b
  | .ltu => a < b
  | .geu => !(a < b)

/-- The value an AMO writes, from the old value and the operand, both of `w` bits. -/
def rvAmoValue (op : RvAmo) (w old v : Nat) : Nat :=
  match op with
  | .swap => v
  | .add => (old + v) % 2 ^ w
  | .xor => old ^^^ v
  | .and => old &&& v
  | .or => old ||| v
  | .min => if signedOf w old < signedOf w v then old else v
  | .max => if signedOf w old < signedOf w v then v else old
  | .minu => min old v
  | .maxu => max old v

/-! ### Registers of a slot -/

/-- An x register; x0 reads zero. -/
def Hart.xAt (h : Hart) (n : BitVec 5) : Dword := if n = 0 then 0 else Sparse.get 0 h.x n.toNat

/-- Write an x register; a write to x0 is discarded. -/
def Hart.setX (h : Hart) (n : BitVec 5) (v : Dword) : Hart :=
  if n = 0 then h else { h with x := Sparse.set 0 h.x n.toNat v }

/-- An exception: its cause, mtval, and the target of causes 24–27 (R223, R224). -/
structure RvExc where
  cause : Nat
  tval : Dword := 0
  target : Nat := 0
  deriving DecidableEq, Repr

/-! ### Control and status registers (R203, R204) -/

/-- The value of a CSR of slot `n`; `none` where the address is not assigned. -/
def csrRead (m : Mach) (n : Nat) (h : Hart) (a : Nat) : Option Dword :=
  match a with
  | 0xC00 | 0xB00 => some h.cycle
  | 0xC01 => some (m.vclk.setWidth 64)
  | 0xC02 | 0xB02 => some h.instret
  | 0xCC0 => some (BitVec.ofNat 64 (n / 8 + 256 * (n % 8)))
  | 0xCC1 | 0x7C1 => some (h.eprog.setWidth 64)
  | 0xCC2 | 0x7C2 => some (h.eseq.setWidth 64)
  | 0xCC3 | 0x7C3 => some h.eprov
  | 0x7C0 => some (h.mgspace.setWidth 64)
  | 0x7C4 => some (h.mgrant.setWidth 64)
  | 0x7C5 => some (h.mbind.setWidth 64)
  | 0x7C6 => some h.mgbase
  | 0x300 => some (BitVec.ofNat 64 (8 * h.mie.toNat + 128 * h.mpie.toNat + 6144 * h.mpp.toNat + 2097152))
  | 0x301 => some 0x8000000000101105
  | 0x304 => some (BitVec.ofNat 64 (8 * h.msie.toNat))
  | 0x305 => some h.mtvec
  | 0x306 => some 7
  | 0x340 => some h.mscratch
  | 0x341 => some h.mepc
  | 0x342 => some h.mcause
  | 0x343 => some h.mtval
  | 0x344 => some (BitVec.ofNat 64 (8 * h.msip.toNat))
  | 0xF11 => some 0
  | 0xF12 => some 0x6412
  | 0xF13 => some 1
  | 0xF14 => some (BitVec.ofNat 64 n)
  | _ =>
    if 0x7D0 ≤ a ∧ a ≤ 0x7D7 then some (BitVec.ofNat 64 (field h.stage (32 * (a - 0x7D0)) 32)) else none

/-- A CSR written; a CSR that ignores writes is unchanged. A write of minstret takes the place of the count of the instruction that
writes it. -/
def csrWrite (h : Hart) (a : Nat) (v : Dword) : Hart :=
  match a with
  | 0xB00 => { h with cycle := v }
  | 0xB02 => { h with instret := v - 1 }
  | 0x7C0 => { h with mgspace := v.setWidth 42 }
  | 0x7C1 => { h with eprog := v.setWidth 16 }
  | 0x7C2 => { h with eseq := v.setWidth 28 }
  | 0x7C3 => { h with eprov := v }
  | 0x7C4 => { h with mgrant := v.setWidth 8 }
  | 0x7C5 => { h with mbind := v.setWidth 8 }
  | 0x7C6 => { h with mgbase := setBit v 0 false }
  | 0x300 =>
    { h with mie := bit v 3, mpie := bit v 7,
             mpp := if field v 11 2 = 3 then true else if field v 11 2 = 0 then false else h.mpp }
  | 0x304 => { h with msie := bit v 3 }
  | 0x305 => { h with mtvec := v &&& ~~~(3 : Dword) }
  | 0x340 => { h with mscratch := v }
  | 0x341 => { h with mepc := setBit v 0 false }
  | 0x342 => { h with mcause := v }
  | 0x343 => { h with mtval := v }
  | _ => if 0x7D0 ≤ a ∧ a ≤ 0x7D7 then { h with stage := setField h.stage (32 * (a - 0x7D0)) 32 v.toNat } else h

/-! ### Memory of a slot (R207) -/

/-- What an access of a slot is. -/
inductive RvAccess where
  | fetch | load | store | emit
  deriving DecidableEq, Repr

/-- The page-fault and the access-fault cause of an access. -/
def RvAccess.pageFault : RvAccess → Nat
  | .fetch => 12 | .load => 13 | .store => 15 | .emit => 15
def RvAccess.accessFault : RvAccess → Nat
  | .fetch => 1 | .load => 5 | .store => 7 | .emit => 28

/-- The die of a slot (R201). -/
def dieOfSlot (n : Nat) : Nat := n / 32

/-- The cell of an address: translated in U-mode under mgspace. DESIGN CHOICE (log 99): R207 gives no addresses for M-mode; an
access there takes the low 56 bits as a physical address under KEYID 0 and meets no fault of access. -/
def rvCell (m : Mach) (n : Nat) (h : Hart) (va : Dword) (k : RvAccess) : Except RvExc Nat :=
  if !h.user then .ok (va.toNat % 2 ^ 56)
  else if !canonical va then .error { cause := k.pageFault, tval := va }
  else match m.walkAt (dieOfSlot n) (h.mgspace.setWidth 36) va with
    | .leaf e shift =>
      let refused : Bool := match k with
        | .fetch => decide (pteKind e = 1)
        | .load => decide (pteKind e ≠ 0)
        | .store => decide (pteKind e ≠ 0) || !(pteWritable e) || pteRdup e
        | .emit => decide (pteKind e ≠ 2) || !(pteEmit e)
      if refused then .error { cause := k.accessFault, tval := va } else .ok (leafCell e shift va)
    | _ => .error { cause := k.pageFault, tval := va }

/-- Bytes of the slot's own stores that are not yet performed, the latest first. -/
def Hart.ownBytes (h : Hart) : List (Nat × BitVec 8) := ((h.stores.filter (fun s => !s.performed)).flatMap (·.bytes)).reverse

/-- The cells of `size` bytes at a cell. -/
def cellsAt (cell size : Nat) : List Nat := (List.range size).map (fun i => cell + i)

/-- A load of a slot is about to read: what R296 asks of it comes first. -/
def Mach.beforeSlot (m : Mach) (n cell size : Nat) : Mach := m.beforeRead (dieOfSlot n) (fun _ _ => false) (cellsAt cell size)

/-- A load of `size` bytes at a cell by slot `n`, as its die sees memory. -/
def rvLoadAt (m : Mach) (n : Nat) (h : Hart) (cell size : Nat) : Nat :=
  let mem := m.seenMem (dieOfSlot n)
  ofBytes ((List.range size).map (fun i => overlayByte h.ownBytes mem (cell + i)))

/-- A store enters the slot's store list. -/
def Hart.addStore (h : Hart) (bytes : List (Nat × BitVec 8)) (performed code : Bool) : Hart :=
  { h with nextOp := h.nextOp + 1,
           stores := h.stores ++ [{ id := h.nextOp, bytes := bytes, performed := performed, code := code }] }

/-- Remove a code line from every instruction cache and line buffer (R218). -/
def Mach.dropCode (m : Mach) (lines : List Nat) : Mach :=
  let drop := fun (l : List (Nat × BitVec 2048)) => l.filter (fun e => !(lines.contains e.1))
  let buffer := fun (b : Option (Nat × BitVec 2048)) => b.filter (fun e => !(lines.contains e.1))
  { m with
    cores := m.cores.map (fun e => (e.1, { e.2 with
      caches.icache := drop e.2.caches.icache, caches.lineBuf := buffer e.2.caches.lineBuf })),
    clusters := m.clusters.map (fun e => (e.1, { e.2 with icache := drop e.2.icache })) }

/-- The agent number of a slot in the record of writes (R282). -/
def slotAgent (n : Nat) : Nat := 2048 + n

/-- A write of a slot is performed, under the number of its store: a request through its die (R207). -/
def Mach.slotWrite (m : Mach) (n id : Nat) (bytes : List (Nat × BitVec 8)) : Mach :=
  let cells := bytes.map (·.1)
  ((m.forceSeen (dieOfSlot n) cells).performGlobal bytes).noteWrite (slotAgent n) id none cells none

/-- Perform one store of a slot. -/
def Mach.performHart (m : Mach) (n : Nat) (s : HartStore) : Mach :=
  if s.performed then m
  else
    let m := m.slotWrite n s.id s.bytes
    let m := if s.code then m.dropCode ((s.bytes.map (fun b => b.1 / 256)).eraseDups) else m
    m.modHart n (fun h => { h with stores := h.stores.map (fun o => if o.id = s.id then { o with performed := true } else o) })

/-- Perform the stores of a slot that a choice names, in order. -/
def Mach.performHartWhere (m : Mach) (n : Nat) (p : HartStore → Bool) : Mach :=
  ((m.hart n).stores.filter p).foldl (fun m s => m.performHart n s) m

/-- The stores of a slot that a write to some cells follows, in order: those to the same bytes, and in turn those to theirs (R207:
RVWMO keeps stores to one byte in program order). Under `all` every earlier store. -/
def Hart.chain (h : Hart) (all : Bool) (cells : List Nat) : List HartStore :=
  (h.stores.foldr (fun s (acc : List HartStore × List Nat) =>
    if !s.performed && (all || s.bytes.any (fun b => acc.2.contains b.1)) then (s :: acc.1, s.bytes.map (·.1) ++ acc.2) else acc)
    ([], cells)).1

/-- Perform the stores of a slot that a write to some cells follows. -/
def Mach.performChain (m : Mach) (n : Nat) (all : Bool) (cells : List Nat) : Mach :=
  ((m.hart n).chain all cells).foldl (fun m s => m.performHart n s) m

/-- Every earlier store of a slot has a ticket that has passed (R207). -/
def Hart.fenced (h : Hart) (now : Tick) : Bool :=
  h.stores.all (fun s => s.performed && (match s.ticket with
    | some t => tickGe now t
    | none => false))

/-! ### Taking an exception (R203, R223, R224) -/

/-- The generator fault record (R224). -/
def faultRecord (h : Hart) (e : RvExc) (now : Tick) : BitVec 512 :=
  BitVec.ofNat 512 (h.pc.toNat + 2 ^ 64 * e.cause + 2 ^ 128 * e.tval.toNat + 2 ^ 192 * h.lastProv.toNat
    + 2 ^ 256 * h.eprog.toNat + 2 ^ 272 * e.target + 2 ^ 320 * now.toNat + 2 ^ 384 * h.mgspace.toNat)

/-- The cores of a slot's bindings on a queue, by core number. -/
def boundCores (n : Nat) (mask : BitVec 8) (q : Nat) : List Nat :=
  ((List.range 4).filter (fun c => bit mask (2 * c + q))).map (fun c => 4 * (n / 8) + c)

/-- Every binding of a slot lapses (R213). -/
def Mach.lapseAll (m : Mach) (n : Nat) : Mach :=
  let mask := (m.hart n).mbind
  let m := (boundCores n mask 1).foldl (fun m c => m.modCore c (fun x => { x with front.bound := false })) m
  m.modHart n (fun h => { h with mbind := 0, lapsed := 0 })

/-- The registry entries of a core and of a slot (R391, log 88). -/
def Mach.registryOf (m : Mach) (core : Nat) : Nat := m.fw.registryBase + 128 * core
def Mach.registryOfSlot (m : Mach) (slot : Nat) : Nat := m.fw.registryBase + 128 * (1024 + slot)

/-- The fault record of a slot: the 64-byte field of its registry entry, its second half in this model (R224, R391, log 88). -/
def Mach.writeFault (m : Mach) (n : Nat) (record : BitVec 512) : Mach :=
  (m.performGlobal ((toBytes 64 record.toNat).mapIdx (fun i b => (m.registryOfSlot n + 64 + i, b)))).modHart n
    (fun h => { h with fault := some record })

/-- TAKING AN EXCEPTION in a slot. In U-mode it is a generator fault: mepc, mcause and mtval are written, the slot stops, its
bindings lapse and its fault record is written into the registry for F3 (R223, R224), and F2 learns of a malformed entry (R358).
In M-mode it enters the handler at mtvec. -/
def Mach.rvTrap (m : Mach) (n : Nat) (e : RvExc) : Mach :=
  let m := if e.cause = 12 || e.cause = 13 || e.cause = 15 then
    m.noteWalk (m.walkAt (dieOfSlot n) ((m.hart n).mgspace.setWidth 36) e.tval) else m
  let h := m.hart n
  let saved : Hart := { h with
    mepc := h.pc,
    mcause := BitVec.ofNat 64 e.cause,
    mtval := e.tval,
    mpie := h.mie,
    mie := false,
    mpp := !h.user,
    user := false }
  if h.user then
    ((m.lapseAll n).modHart n (fun k => { saved with
      mbind := k.mbind,
      lapsed := k.lapsed,
      status := .stopped,
      waits := none,
      reg.status := .faulted })).writeFault n (faultRecord h e m.vclk)
  else m.modHart n (fun _ => { saved with pc := h.mtvec })

/-- RETURN FROM AN EXCEPTION, mret (R203). -/
def Hart.mret (h : Hart) : Hart := { h with mie := h.mpie, mpie := true, user := !h.mpp, mpp := false, pc := h.mepc }

/-- A software interrupt is taken at an instruction boundary; a wfi that it ends is done, retires, and is not executed again. -/
def Mach.rvInterrupt (m : Mach) (n : Nat) (woken : Bool := false) : Mach :=
  m.modHart n (fun h => { h with
    mepc := if woken then h.pc + 4 else h.pc,
    instret := if woken then h.instret + 1 else h.instret,
    mcause := 0x8000000000000003,
    mtval := 0,
    mpie := h.mie,
    mie := false,
    mpp := !h.user,
    user := false,
    pc := h.mtvec })

/-- A software interrupt is pending and enabled. -/
def Hart.interrupted (h : Hart) : Bool := h.msip && h.msie && (h.user || h.mie)

/-- An instruction retires: the pc moves on and instret counts it. -/
def Hart.retire (h : Hart) (next : Dword) : Hart := { h with pc := next, instret := h.instret + 1, status := .ready, waits := none }

/-- An instruction of a slot: it retires at the next pc with a new slot state, raises an exception, waits, or leaves the
module as it says without retiring. -/
inductive RvResult where
  | done (m : Mach) (h : Hart) (next : Dword)
  | through (m : Mach)
  | raise (e : RvExc)
  | stay (status : HartStatus) (waits : Option (Nat × Nat × Nat))

/-- Apply the result of an instruction to its slot. -/
def RvResult.apply (n : Nat) (m : Mach) : RvResult → Mach
  | .done m' h next => m'.modHart n (fun _ => h.retire next)
  | .through m' => m'
  | .raise e => ({ m with fresh := m.fresh + 1 }).rvTrap n e
  | .stay st w => m.modHart n (fun h => { h with status := st, waits := w })

/-- An illegal instruction. -/
def illegalInstruction (m : Mach) : RvResult := .raise { cause := 2, tval := Config.openTval m.fresh }

/-! ### Instructions (R202) -/

/-- A load. -/
def rvLoad (m : Mach) (n : Nat) (h : Hart) (size : Nat) (signed : Bool) (rd : BitVec 5) (va next : Dword) : RvResult :=
  if va.toNat % size ≠ 0 then .raise { cause := 4, tval := va }
  else match rvCell m n h va .load with
    | .error e => .raise e
    | .ok cell =>
      let m := m.beforeSlot n cell size
      .done m (h.setX rd (extendTo64 signed (8 * size) (rvLoadAt m n h cell size))) next

/-- A store. -/
def rvStore (m : Mach) (n : Nat) (h : Hart) (size : Nat) (v va next : Dword) : RvResult :=
  if va.toNat % size ≠ 0 then .raise { cause := 6, tval := va }
  else match rvCell m n h va .store with
    | .error e => .raise e
    | .ok cell => .done m (h.addStore ((toBytes size v.toNat).mapIdx (fun i b => (cell + i, b))) false false) next

/-- lr. -/
def rvLr (m : Mach) (n : Nat) (h : Hart) (size : Nat) (rl : Bool) (rd : BitVec 5) (va next : Dword) : RvResult :=
  if va.toNat % size ≠ 0 then .raise { cause := 4, tval := va }
  else match rvCell m n h va .load with
    | .error e => .raise e
    | .ok cell =>
      let m := (m.performChain n rl (cellsAt cell size)).beforeSlot n cell size
      let h := m.hart n
      .done m { h.setX rd (extendTo64 true (8 * size) (rvLoadAt m n h cell size)) with resv := some (cell, size) } next

/-- sc: it writes only under a reservation of the same bytes, and may fail all the same. -/
def rvSc (m : Mach) (n : Nat) (h : Hart) (size : Nat) (rl : Bool) (rd : BitVec 5) (v va next : Dword) : RvResult :=
  if va.toNat % size ≠ 0 then .raise { cause := 6, tval := va }
  else match rvCell m n h va .store with
    | .error e => .raise e
    | .ok cell =>
      if h.resv = some (cell, size) && !(Config.scFails m.fresh) then
        let m := m.performChain n rl (cellsAt cell size)
        let bytes := (toBytes size v.toNat).mapIdx (fun i b => (cell + i, b))
        let m := m.slotWrite n (m.hart n).nextOp bytes
        let h := ((m.hart n).addStore bytes true false).setX rd 0
        .done { m with fresh := m.fresh + 1 } { h with resv := none } next
      else
        let h := h.setX rd 1
        .done { m with fresh := m.fresh + 1 } { h with resv := none } next

/-- An AMO: it reads and writes in one step, after the slot's stores to the same bytes; its store has a ticket (R207). -/
def rvAmo (m : Mach) (n : Nat) (h : Hart) (op : RvAmo) (size : Nat) (rl : Bool) (rd : BitVec 5) (v va next : Dword) : RvResult :=
  if va.toNat % size ≠ 0 then .raise { cause := 6, tval := va }
  else match rvCell m n h va .store with
    | .error e => .raise e
    | .ok cell =>
      let m := (m.performChain n rl (cellsAt cell size)).forceSeen (dieOfSlot n) (cellsAt cell size)
      let old := rvLoadAt m n (m.hart n) cell size
      let new := rvAmoValue op (8 * size) old (v.toNat % 2 ^ (8 * size))
      let bytes := (toBytes size new).mapIdx (fun i b => (cell + i, b))
      let m := m.slotWrite n (m.hart n).nextOp bytes
      .done m (((m.hart n).addStore bytes true false).setX rd (extendTo64 true (8 * size) old)) next

/-- fence: with W among the predecessors it holds the slot until VCLK has passed the ticket of every earlier store (R207). -/
def rvFence (m : Mach) (h : Hart) (pred : BitVec 4) (next : Dword) : RvResult :=
  if bit pred 0 then
    if h.fenced m.vclk then .done m { h with stores := [] } next else .stay .waitMemory none
  else .done m h next

/-- fence.i: the slot's own stores are performed, so that its fetches see them. -/
def rvFenceI (m : Mach) (n : Nat) (next : Dword) : RvResult :=
  let m := m.performHartWhere n (fun _ => true)
  .done m (m.hart n) next

/-- A CSR instruction: csrrw, csrrs or csrrc, with a register or an immediate; a set or clear of nothing writes nothing (R203,
R204). -/
def rvCsr (m : Mach) (n : Nat) (h : Hart) (op : BitVec 2) (useImm : Bool) (rd src : BitVec 5) (addr : BitVec 12) (next : Dword) :
    RvResult :=
  let a := addr.toNat
  let v := if useImm then src.setWidth 64 else h.xAt src
  let writes := op = 1 || src ≠ 0
  if (h.user && decide (a / 256 % 4 ≠ 0)) || (writes && decide (a / 1024 = 3)) then illegalInstruction m
  else match csrRead m n h a with
    | none => illegalInstruction m
    | some old =>
      let new := if op = 1 then v else if op = 2 then old ||| v else old &&& ~~~v
      .done m ((if writes then csrWrite h a new else h).setX rd old) next

/-- A taken branch or the next instruction. -/
def rvBranch (m : Mach) (h : Hart) (c : RvCond) (rs1 rs2 : BitVec 5) (imm : Dword) (next : Dword) : RvResult :=
  .done m h (if rvHolds c (h.xAt rs1) (h.xAt rs2) then h.pc + imm else next)

/-! ### Environment calls of a generator (R217, R401) -/

/-- The launch-ending record that F3 would write if the queue of a core whose primary binding has lapsed drained before its
ct.end (R213). DESIGN CHOICE (log 112): it bears the tick at which the generator ended, and mtval 0. -/
def unfinished (m : Mach) (n : Nat) : List Lapse :=
  let h := m.hart n
  ((boundCores n h.mbind 0).filter (fun c => (m.core c).reg.status ≠ .ended)).map
    (fun c => { core := c, slot := n, launch := h.launch, record := faultRecord h { cause := 30 } m.vclk })

/-- The generator ends: its bindings lapse and its slot is free (R213, R217). -/
def ecallEnd (m : Mach) (n : Nat) : RvResult :=
  let w := unfinished m n
  let m := (m.lapseAll n).modHart n (fun h => { h with status := .free, launch := 0, waits := none, reg.status := .ended })
  .through (m.modComp (n / 8) (fun k => { k with watch := k.watch ++ w }))

/-! ### Mailboxes (R399 to R401) -/

/-- The mailbox of a firmware core. -/
def Mach.mailbox (m : Mach) (core : Nat) : List (BitVec 512) := Sparse.get [] m.fw.mailboxes core

/-- A firmware core deals with a message that it has taken: F7 keeps a log record, and F6 signs a quote while it has its identity keys
(R399, R401, R419, R420). It accepts no other work. -/
def Mach.serveMail (m : Mach) (core : Nat) (msg : BitVec 512) : Mach :=
  let kind : BitVec 16 := msg.extractLsb' 0 16
  if core = 7 ∧ kind = Config.logKind then { m with fw.logs := m.fw.logs ++ [msg.extractLsb' 32 256] }
  else if core = 6 && m.fleet.identityKeys && Config.mailAccepts 6 kind (msg.extractLsb' 16 16) then
    let named := decide (m.fleet.lifecycle = .deployed)
    { m with fw.quotes := m.fw.quotes ++ [{ request := msg, installation := named,
                                            ed25519 := Config.signature false msg named, mlDsa := Config.signature true msg named }] }
  else m

/-- A firmware core takes the oldest messages of its mailbox; messages of senders that it held enter in their order (R400). -/
def Mach.takeMail (m : Mach) (core n : Nat) : Mach :=
  let box := m.mailbox core
  let all := box.drop n ++ Sparse.get [] m.fw.mailHeld core
  let m := (box.take n).foldl (fun m msg => m.serveMail core msg) m
  { m with
    fw.mailboxes := Sparse.set [] m.fw.mailboxes core (all.take 32),
    fw.mailHeld := Sparse.set [] m.fw.mailHeld core (all.drop 32) }

/-- A message is delivered whole, behind those of its mailbox (R400). -/
def Mach.putMail (m : Mach) (core : Nat) (msg : BitVec 512) : Mach :=
  { m with fw.mailboxes := Sparse.set [] m.fw.mailboxes core (m.mailbox core ++ [msg]) }

/-- The message of a log record: kind, sender, then a0, a1, a2 and the slot's last provenance record (R400, R401, log 113). -/
def logMessage (n : Nat) (h : Hart) : BitVec 512 :=
  BitVec.ofNat 512 (Config.logKind.toNat + 2 ^ 16 * (Config.monitorSender (n / 8)).toNat + 2 ^ 32 * (h.xAt 10).toNat
    + 2 ^ 96 * (h.xAt 11).toNat + 2 ^ 160 * (h.xAt 12).toNat + 2 ^ 224 * h.lastProv.toNat)

/-- A log record goes to F7, by its mailbox (R401); a full one holds the monitor, and with it the slot (R400). DESIGN CHOICE (log
112): instret counts every ecall that the monitor handles once. -/
def ecallLog (m : Mach) (n : Nat) (next : Dword) : RvResult :=
  let h := m.hart n
  if 32 ≤ (m.mailbox 7).length then .stay .waitRoom none
  else .done (m.putMail 7 (logMessage n h)) (h.setX 10 0) next

/-- The slot gives up the rest of its turn (R206, R401). -/
def ecallYield (m : Mach) (n : Nat) (next : Dword) : RvResult :=
  let m := m.modComp (n / 8) (fun k => { k with run := 64 })
  .done m ((m.hart n).setX 10 0) next

/-- Any other call (R401). -/
def ecallUnknown (m : Mach) (n : Nat) (next : Dword) : RvResult :=
  .done m ((m.hart n).setX 10 (BitVec.allOnes 64)) next

/-- The call that a7 names. -/
def ecallOf (m : Mach) (n : Nat) (next : Dword) : RvResult :=
  match ((m.hart n).xAt 17).toNat with
  | 0 => ecallEnd m n
  | 1 => ecallLog m n next
  | 2 => ecallYield m n next
  | _ => ecallUnknown m n next

/-- What an instruction of the base set does in slot `n`. -/
def rvInstr (m : Mach) (n : Nat) (op : Rv) (next : Dword) : RvResult :=
  let h := m.hart n
  let size := fun (dbl : Bool) => if dbl then 8 else 4
  match op with
  | .lui rd imm => .done m (h.setX rd imm) next
  | .auipc rd imm => .done m (h.setX rd (h.pc + imm)) next
  | .jal rd imm => .done m (h.setX rd next) (h.pc + imm)
  | .jalr rd rs1 imm => .done m (h.setX rd next) (setBit (h.xAt rs1 + imm) 0 false)
  | .branch c rs1 rs2 imm => rvBranch m h c rs1 rs2 imm next
  | .load z signed rd rs1 imm => rvLoad m n h (2 ^ z.toNat) signed rd (h.xAt rs1 + imm) next
  | .store z rs1 rs2 imm => rvStore m n h (2 ^ z.toNat) (h.xAt rs2) (h.xAt rs1 + imm) next
  | .opImm o rd rs1 imm => .done m (h.setX rd (rvAlu o (h.xAt rs1) imm)) next
  | .op o rd rs1 rs2 => .done m (h.setX rd (rvAlu o (h.xAt rs1) (h.xAt rs2))) next
  | .opImmW o rd rs1 imm => .done m (h.setX rd (rvAluW o (h.xAt rs1) imm)) next
  | .opW o rd rs1 rs2 => .done m (h.setX rd (rvAluW o (h.xAt rs1) (h.xAt rs2))) next
  | .sllIUw rd rs1 imm => .done m (h.setX rd (BitVec.ofNat 64 ((h.xAt rs1).toNat % 4294967296 * 2 ^ (imm.toNat % 64)))) next
  | .unary o rd rs1 => .done m (h.setX rd (rvUnary o (h.xAt rs1))) next
  | .lr dbl rl rd rs1 => rvLr m n h (size dbl) rl rd (h.xAt rs1) next
  | .sc dbl rl rd rs1 rs2 => rvSc m n h (size dbl) rl rd (h.xAt rs2) (h.xAt rs1) next
  | .amo o dbl rl rd rs1 rs2 => rvAmo m n h o (size dbl) rl rd (h.xAt rs2) (h.xAt rs1) next
  | .fence pred _ => rvFence m h pred next
  | .fenceI => rvFenceI m n next
  | .csr o useImm rd src addr => rvCsr m n h o useImm rd src addr next
  | .ecall => if h.user then ecallOf m n next else .raise { cause := 11 }
  | .ebreak => .raise { cause := 3, tval := Config.openTval m.fresh }
  | .mret => if h.user then illegalInstruction m else .done m h.mret h.mepc
  | .wfi => if h.user then illegalInstruction m else if h.msip && h.msie then .done m h next else .stay .wfi none
  | .illegal _ => illegalInstruction m

/-- An instruction of RV64IMAC, Zba, Zbb, Zbs, Zicsr or Zifencei in the slot that State names; a short one is 2 bytes long
(R202). -/
def execRv64imacInstruction (op : Rv) (short : Bool) (s : State) : Host.Outcome State Fault Refusal :=
  let next := (s.mach.hart s.hart).pc + (if short then 2 else 4)
  .next { s with mach := (rvInstr s.mach s.hart op next).apply s.hart s.mach }

end Sys2Proof.Machine
end

