-- ==== Sys2Proof/WellFormed.lean ====
section
/-! DEFINITION. The limits of the fields of an instruction that its widths do not already give (R20, R64 to R69). -/

namespace Sys2Proof

/-- A tag code that a vector register may carry (R19). -/
def vectorTag (t : BitVec 5) : Bool := t.toNat ≤ 9

/-- A tag code that a tile may carry (R19). -/
def tileTag (t : BitVec 5) : Bool := t = 0x10 || t = 0x11

/-- The fields of an instruction respect the limits of R69: no reserved size, level, mask, mode or tag code. -/
def Instr.wf : Instr → Bool
  | .scAdd _ _ _ _ => true
  | .scSub _ _ _ _ => true
  | .scAnd _ _ _ _ => true
  | .scOr _ _ _ _ => true
  | .scXor _ _ _ _ => true
  | .scAndn _ _ _ _ => true
  | .scShl _ _ _ _ => true
  | .scShr _ _ _ _ => true
  | .scSra _ _ _ _ => true
  | .scMin _ _ _ _ => true
  | .scMax _ _ _ _ => true
  | .scMinu _ _ _ _ => true
  | .scMaxu _ _ _ _ => true
  | .scBfx _ _ _ _ => true
  | .scBfi _ _ _ _ => true
  | .scClz _ _ _ => true
  | .scCtz _ _ _ => true
  | .scPopc _ _ _ => true
  | .scSextB _ _ _ => true
  | .scSextH _ _ _ => true
  | .scSextW _ _ _ => true
  | .scZextB _ _ _ => true
  | .scZextH _ _ _ => true
  | .scZextW _ _ _ => true
  | .scMul _ _ _ _ => true
  | .scMulh _ _ _ _ => true
  | .scMulhu _ _ _ _ => true
  | .scDiv _ _ _ _ => true
  | .scDivu _ _ _ _ => true
  | .scRem _ _ _ _ => true
  | .scRemu _ _ _ _ => true
  | .scSel _ _ _ _ _ => true
  | .scCmpEq _ _ _ _ _ => true
  | .scCmpNe _ _ _ _ _ => true
  | .scCmpLt _ _ _ _ _ => true
  | .scCmpLtu _ _ _ _ _ => true
  | .scCmpGe _ _ _ _ _ => true
  | .scCmpGeu _ _ _ _ _ => true
  | .scCmpiEq _ _ _ _ _ => true
  | .scCmpiNe _ _ _ _ _ => true
  | .scCmpiLt _ _ _ _ _ => true
  | .scCmpiLtu _ _ _ _ _ => true
  | .scCmpiGe _ _ _ _ _ => true
  | .scCmpiGeu _ _ _ _ _ => true
  | .scAddi _ _ _ _ => true
  | .scAndi _ _ _ _ => true
  | .scOri _ _ _ _ => true
  | .scXori _ _ _ _ => true
  | .scShli _ _ _ _ => true
  | .scShri _ _ _ _ => true
  | .scSrai _ _ _ _ => true
  | .scMini _ _ _ _ => true
  | .scMaxi _ _ _ _ => true
  | .scMinui _ _ _ _ => true
  | .scMaxui _ _ _ _ => true
  | .scImm _ _ _ _ => true
  | .scLd _ _ _ _ _ _ => true
  | .scLdu _ _ _ _ z _ => z ≠ 3
  | .scSt _ _ _ _ _ _ => true
  | .scLdc _ _ _ _ _ => true
  | .scLdcFe _ _ _ _ _ => true
  | .scLdcTake _ _ _ _ _ => true
  | .scLdcu _ _ _ z _ => z ≠ 3
  | .scLdcuFe _ _ _ z _ => z ≠ 3
  | .scLdcuTake _ _ _ z _ => z ≠ 3
  | .scStc _ _ _ _ _ => true
  | .scStcSet _ _ _ _ _ => true
  | .scAmoAdd _ _ _ _ _ _ => true
  | .scAmoAnd _ _ _ _ _ _ => true
  | .scAmoOr _ _ _ _ _ _ => true
  | .scAmoXor _ _ _ _ _ _ => true
  | .scAmoMax _ _ _ _ _ _ => true
  | .scAmoMin _ _ _ _ _ _ => true
  | .scAmoMaxu _ _ _ _ _ _ => true
  | .scAmoMinu _ _ _ _ _ _ => true
  | .scAmoSwap _ _ _ _ _ _ => true
  | .scAmoCas _ _ _ _ _ _ => true
  | .scMfc _ _ _ => true
  | .scMtc _ _ _ => true
  | .scShw _ _ _ => true
  | .scCtv _ _ => true
  | .scSvc _ _ => true
  | .scTrap _ _ => true
  | .scBrk _ _ => true
  | .scStqpop _ _ => true
  | .scEret _ => true
  | .scZdef _ _ _ _ => true
  | .scZdefh _ _ _ _ => true
  | .scHdef _ _ _ _ => true
  | .scCmpx _ _ _ _ => true
  | .ctBr _ _ => true
  | .ctCall _ _ => true
  | .ctCallr _ _ => true
  | .ctJr _ _ => true
  | .ctRet _ _ => true
  | .ctLoop _ _ _ _ => true
  | .ctWait _ _ _ _ _ => true
  | .ctBarArrive _ l => 1 ≤ l.toNat && l.toNat ≤ 5
  | .ctBarWait _ l => 1 ≤ l.toNat && l.toNat ≤ 5
  | .ctBarSync _ l => 1 ≤ l.toNat && l.toNat ≤ 5
  | .ctFenceRel _ z => z ≠ 0
  | .ctFenceAcq _ z => z ≠ 0
  | .ctFenceVis _ z => z ≠ 0
  | .ctFenceFull _ => true
  | .ctArm _ _ e => e.toNat % 8 = 0
  | .ctMwait _ _ => true
  | .ctDawn _ _ => true
  | .ctDusk _ => true
  | .ctCheck _ _ => true
  | .ctAbort _ => true
  | .ctPand _ _ _ _ => true
  | .ctPor _ _ _ _ => true
  | .ctPxor _ _ _ _ => true
  | .ctPandn _ _ _ _ => true
  | .ctPnot _ _ _ => true
  | .ctPset _ _ => true
  | .ctPclr _ _ => true
  | .ctRoff _ _ => true
  | .ctIdle _ x => x ≠ 0
  | .ctEnd _ => true
  | .vFadd _ _ _ _ _ _ => true
  | .vFsub _ _ _ _ _ _ => true
  | .vFmul _ _ _ _ _ _ => true
  | .vFma _ _ _ _ _ _ => true
  | .vFms _ _ _ _ _ _ => true
  | .vFmin _ _ _ _ _ _ => true
  | .vFmax _ _ _ _ _ _ => true
  | .vFabs _ _ _ _ _ _ => true
  | .vFneg _ _ _ _ _ _ => true
  | .vFscale _ _ _ _ _ _ => true
  | .vFaddS _ _ _ _ _ _ => true
  | .vFsubS _ _ _ _ _ _ => true
  | .vFmulS _ _ _ _ _ _ => true
  | .vFmaS _ _ _ _ _ _ => true
  | .vFminS _ _ _ _ _ _ => true
  | .vFmaxS _ _ _ _ _ _ => true
  | .vFscaleS _ _ _ _ _ _ => true
  | .vIadd _ _ _ _ _ _ => true
  | .vIsub _ _ _ _ _ _ => true
  | .vImul _ _ _ _ _ _ => true
  | .vImulh _ _ _ _ _ _ => true
  | .vIand _ _ _ _ _ _ => true
  | .vIor _ _ _ _ _ _ => true
  | .vIxor _ _ _ _ _ _ => true
  | .vIshl _ _ _ _ _ _ => true
  | .vIshr _ _ _ _ _ _ => true
  | .vIsra _ _ _ _ _ _ => true
  | .vImin _ _ _ _ _ _ => true
  | .vImax _ _ _ _ _ _ => true
  | .vIminu _ _ _ _ _ _ => true
  | .vImaxu _ _ _ _ _ _ => true
  | .vIaddS _ _ _ _ _ _ => true
  | .vIsubS _ _ _ _ _ _ => true
  | .vImulS _ _ _ _ _ _ => true
  | .vIandS _ _ _ _ _ _ => true
  | .vIorS _ _ _ _ _ _ => true
  | .vIxorS _ _ _ _ _ _ => true
  | .vIshlS _ _ _ _ _ _ => true
  | .vIshrS _ _ _ _ _ _ => true
  | .vIsraS _ _ _ _ _ _ => true
  | .vIminS _ _ _ _ _ _ => true
  | .vImaxS _ _ _ _ _ _ => true
  | .vIaddsS _ _ _ _ _ _ => true
  | .vIsubsS _ _ _ _ _ _ => true
  | .vIadds _ _ _ _ _ _ => true
  | .vIsubs _ _ _ _ _ _ => true
  | .vIabsd _ _ _ _ _ _ => true
  | .vIavg _ _ _ _ _ _ => true
  | .vImad16 _ _ _ _ _ _ => true
  | .vFcmpEq _ _ _ _ _ _ _ => true
  | .vFcmpLt _ _ _ _ _ _ _ => true
  | .vFcmpLe _ _ _ _ _ _ _ => true
  | .vFcmpUn _ _ _ _ _ _ _ => true
  | .vIcmpEq _ _ _ _ _ _ _ => true
  | .vIcmpLt _ _ _ _ _ _ _ => true
  | .vIcmpLtu _ _ _ _ _ _ _ => true
  | .vFsum _ _ _ _ _ => true
  | .vFmaxr _ _ _ _ _ => true
  | .vImaxr _ _ _ _ _ => true
  | .vIminr _ _ _ _ _ => true
  | .vIsumr _ _ _ _ _ => true
  | .vBcast _ _ _ _ _ => true
  | .vSlideUp _ _ _ _ _ _ => true
  | .vSlideDn _ _ _ _ _ _ => true
  | .vMov _ _ _ _ _ => true
  | .vSel _ _ _ _ _ _ => true
  | .vPerm _ _ _ _ _ _ => true
  | .vLidx _ _ _ _ => true
  | .vCvt _ _ _ _ t _ _ => vectorTag t
  | .vRetag _ _ _ _ t _ => vectorTag t
  | .vLdL _ _ _ _ _ _ _ => true
  | .vStL _ _ _ _ _ _ => true
  | .vLdC _ _ _ _ _ _ _ => true
  | .vLdCFe _ _ _ _ _ _ _ => true
  | .vLdCTake _ _ _ _ _ _ _ => true
  | .vStC _ _ _ _ _ _ => true
  | .vStCSet _ _ _ _ _ _ => true
  | .vLdG _ _ _ _ _ _ _ => true
  | .vStG _ _ _ _ _ _ => true
  | .vGather _ _ _ _ _ _ z => z.toNat ≤ 4
  | .vScatter _ _ _ _ _ _ z => z.toNat ≤ 2
  | .mxMma _ _ _ _ _ _ _ => true
  | .mxMmaz _ _ _ _ _ _ _ => true
  | .mxHrot16 _ _ _ _ _ => true
  | .mxHrot64 _ _ _ _ _ => true
  | .mxDrain _ _ _ _ t _ _ => vectorTag t
  | .mxDrainH16 _ _ _ _ t _ _ => vectorTag t
  | .mxDrainH64 _ _ _ _ t _ _ => vectorTag t
  | .mxCprog _ _ _ _ => true
  | .mxMclr _ _ => true
  | .mxMtag _ _ t => tileTag t
  | .mxMstat _ _ _ => true
  | .xCp _ _ _ _ _ _ _ _ => true
  | .xCpBs _ _ _ _ _ _ _ _ => true
  | .xCpSh _ _ _ _ _ _ _ => true
  | .xCpBcast _ _ _ _ _ _ _ _ => true
  | .xCpDz _ _ _ _ _ _ _ _ => true
  | .xSread _ _ _ _ _ _ _ => true
  | .xPub _ _ _ => true
  | .xCancel _ _ _ => true
  | .pfTrn8 _ _ _ _ => true
  | .pfTrn16 _ _ _ _ => true
  | .pfTrn32 _ _ _ _ => true
  | .pfFill _ _ _ _ => true
  | .pfQnt _ _ _ _ _ x => x.toNat % 4 ≠ 3
  | .pfDqnt _ _ _ _ _ x => x.toNat % 4 ≠ 3
  | .pfUpx12 _ _ _ _ => true
  | .pfPkx12 _ _ _ _ => true
  | .pfShuf _ _ _ _ _ => true
  | .eClr _ => true
  | .eSet _ _ => true
  | .eTpl _ _ => true
  | .ePatch _ _ => true
  | .eProv _ => true
  | .eEmitP _ => true
  | .eEmitS _ => true
  | .eEmitA _ => true
  | .eEmitrP _ _ _ => true
  | .eEmitrS _ _ _ => true
  | .eQst _ _ _ => true
  | .eWait _ _ _ => true
  | .eBind _ _ => true
  | .rv64imacInstruction _ _ => true
  | .illegalEncoding _ _ _ => true
  | .eClrAll => true
  | .ecallEnd => true
  | .ecallLog => true
  | .ecallYield => true
  | .ecallUnknown => true
  | .residencyUpdate => true
  | .fixedLatencyResult => true
  | .countedLoadDelivery => true
  | .uncorrectableMemoryError => true
  | .storeTicketKnown => true
  | .farStorePerformed => true
  | .remoteTickConfirmation => true
  | .vclkTick => true
  | .tickMarkedPassed => true
  | .leaseExpiry => true
  | .mwaitTimeout => true
  | .idleCountExpiry => true
  | .secondaryFairnessWithhold => true
  | .handleEntryRead => true
  | .engineCommandStart => true
  | .engineCommandComplete => true
  | .pubSwap => true
  | .sreadCompletion => true
  | .nvmeCommandTimeout => true
  | .regionRollback => true
  | .dirRead => true
  | .dirOwnedWrite => true
  | .evictionNoticeClean => true
  | .evictionNoticeData => true
  | .invalidation => true
  | .recall => true
  | .acknowledgement => true
  | .l2Eviction => true
  | .homeOwnedWrite => true
  | .homeEntryEviction => true
  | .instructionPrefetch => true
  | .shootdownAck => true
  | .keyRetirement => true
  | .trapReplay => true
  | .fetchMissPaging => true
  | .readDuplicateCollapse => true
  | .trapRecordFree => true
  | .reap => true
  | .remoteRouteTimeout => true
  | .stewardCrash => true
  | .warmReadoption => true
  | .readoptionTimeout => true
  | .composerSlotSwitch => true
  | .emitQueueRoom => true
  | .primaryBindingLapseEnd => true
  | .mailboxDelivery => true
  | .dbell => true
  | .ringConfigWrite => true
  | .sequenceRereadTimeout => true
  | .launch => true
  | .endLaunch => true
  | .registerBuffer => true
  | .unregisterBuffer => true
  | .configureOrdmode => true
  | .configureTelemetryPage => true
  | .configurePowerCap => true
  | .tearDownSpace => true
  | .launchClaim => true
  | .releaseTick => true
  | .preemption => true
  | .resume => true
  | .launchCompletion => true
  | .completionWordPassed => true
  | .faultEndLaunch => true
  | .imageLoad => true
  | .powerOn => true
  | .moduleReset => true
  | .lifecycleChange => true
  | .dieStageOnePassed => true
  | .fullServiceStart => true
  | .heartbeat => true
  | .heartbeatMiss => true
  | .resetVote => true
  | .telemetryRewrite => true
  | .powerCapLimiting => true
  | .junctionTemperature => true
  | .thermalRecovery => true
  | .nop => true
  | .hostMemoryAccess => true
  | .homeRead => true
  | .farLoadPerformed => true
  | .linkLevelRetry => true
  | .powerCapLimitingEnd => true

end Sys2Proof
end

