-- ==== Sys2Proof/Decode.lean ====
section
/-! DEFINITION. Decoding: a slot word to the instruction it stands for in its slot (R62 to R69), a composer's word or
half-word to its instruction (R202, R208), total on any bits and refusing by name; then the encoder. -/

namespace Sys2Proof

/-- Why a word is no instruction of its slot (R69). -/
inductive DecodeError where
  /-- op 0 with a bit set (R62) -/
  | notNop
  /-- an op that the slot's map does not assign (R131, R159, R200) -/
  | unassignedOp
  /-- a selector that its row does not assign, or a field that must be 0 and is not -/
  | unassignedField
  /-- a value that R64 to R68 or R20 call reserved or out of range -/
  | reservedValue
  deriving DecidableEq, Repr

/-- The `len` bits of `n` from bit `lo` up, as a number. -/
def bits (n lo len : Nat) : Nat := n / 2 ^ lo % 2 ^ len

/-- The `len` bits of `n` from bit `lo` up, as a field. -/
def fld (n lo len : Nat) : BitVec len := BitVec.ofNat len (n / 2 ^ lo)

/-- Keep an instruction whose fields respect their limits (R69). -/
def checked (i : Instr) : Except DecodeError Instr :=
  if i.wf then .ok i else .error .reservedValue

/-- The SC map (R65). -/
def decodeSc (n : Nat) : Except DecodeError Instr :=
  match bits n 22 6 with
  | 1 =>
    if bits n 0 4 = 0 then checked (.scAdd (fld n 28 4) (fld n 16 6) (fld n 10 6) (fld n 4 6))
    else if bits n 0 4 = 1 then checked (.scSub (fld n 28 4) (fld n 16 6) (fld n 10 6) (fld n 4 6))
    else if bits n 0 4 = 2 then checked (.scAnd (fld n 28 4) (fld n 16 6) (fld n 10 6) (fld n 4 6))
    else if bits n 0 4 = 3 then checked (.scOr (fld n 28 4) (fld n 16 6) (fld n 10 6) (fld n 4 6))
    else if bits n 0 4 = 4 then checked (.scXor (fld n 28 4) (fld n 16 6) (fld n 10 6) (fld n 4 6))
    else if bits n 0 4 = 5 then checked (.scAndn (fld n 28 4) (fld n 16 6) (fld n 10 6) (fld n 4 6))
    else if bits n 0 4 = 6 then checked (.scShl (fld n 28 4) (fld n 16 6) (fld n 10 6) (fld n 4 6))
    else if bits n 0 4 = 7 then checked (.scShr (fld n 28 4) (fld n 16 6) (fld n 10 6) (fld n 4 6))
    else if bits n 0 4 = 8 then checked (.scSra (fld n 28 4) (fld n 16 6) (fld n 10 6) (fld n 4 6))
    else if bits n 0 4 = 9 then checked (.scMin (fld n 28 4) (fld n 16 6) (fld n 10 6) (fld n 4 6))
    else if bits n 0 4 = 10 then checked (.scMax (fld n 28 4) (fld n 16 6) (fld n 10 6) (fld n 4 6))
    else if bits n 0 4 = 11 then checked (.scMinu (fld n 28 4) (fld n 16 6) (fld n 10 6) (fld n 4 6))
    else if bits n 0 4 = 12 then checked (.scMaxu (fld n 28 4) (fld n 16 6) (fld n 10 6) (fld n 4 6))
    else if bits n 0 4 = 13 then checked (.scBfx (fld n 28 4) (fld n 16 6) (fld n 10 6) (fld n 4 6))
    else if bits n 0 4 = 14 then checked (.scBfi (fld n 28 4) (fld n 16 6) (fld n 10 6) (fld n 4 6))
    else .error .unassignedField
  | 2 =>
    if bits n 0 10 = 0 then checked (.scClz (fld n 28 4) (fld n 16 6) (fld n 10 6))
    else if bits n 0 10 = 1 then checked (.scCtz (fld n 28 4) (fld n 16 6) (fld n 10 6))
    else if bits n 0 10 = 2 then checked (.scPopc (fld n 28 4) (fld n 16 6) (fld n 10 6))
    else if bits n 0 10 = 3 then checked (.scSextB (fld n 28 4) (fld n 16 6) (fld n 10 6))
    else if bits n 0 10 = 4 then checked (.scSextH (fld n 28 4) (fld n 16 6) (fld n 10 6))
    else if bits n 0 10 = 5 then checked (.scSextW (fld n 28 4) (fld n 16 6) (fld n 10 6))
    else if bits n 0 10 = 6 then checked (.scZextB (fld n 28 4) (fld n 16 6) (fld n 10 6))
    else if bits n 0 10 = 7 then checked (.scZextH (fld n 28 4) (fld n 16 6) (fld n 10 6))
    else if bits n 0 10 = 8 then checked (.scZextW (fld n 28 4) (fld n 16 6) (fld n 10 6))
    else .error .unassignedField
  | 3 =>
    if bits n 0 4 = 0 then checked (.scMul (fld n 28 4) (fld n 16 6) (fld n 10 6) (fld n 4 6))
    else if bits n 0 4 = 1 then checked (.scMulh (fld n 28 4) (fld n 16 6) (fld n 10 6) (fld n 4 6))
    else if bits n 0 4 = 2 then checked (.scMulhu (fld n 28 4) (fld n 16 6) (fld n 10 6) (fld n 4 6))
    else if bits n 0 4 = 3 then checked (.scDiv (fld n 28 4) (fld n 16 6) (fld n 10 6) (fld n 4 6))
    else if bits n 0 4 = 4 then checked (.scDivu (fld n 28 4) (fld n 16 6) (fld n 10 6) (fld n 4 6))
    else if bits n 0 4 = 5 then checked (.scRem (fld n 28 4) (fld n 16 6) (fld n 10 6) (fld n 4 6))
    else if bits n 0 4 = 6 then checked (.scRemu (fld n 28 4) (fld n 16 6) (fld n 10 6) (fld n 4 6))
    else .error .unassignedField
  | 4 =>
    checked (.scSel (fld n 28 4) (fld n 16 6) (fld n 10 6) (fld n 4 6) (fld n 0 4))
  | 5 =>
    if bits n 0 2 = 0 then checked (.scCmpEq (fld n 28 4) (fld n 18 4) (fld n 14 4) (fld n 8 6) (fld n 2 6))
    else if bits n 0 2 = 1 then checked (.scCmpNe (fld n 28 4) (fld n 18 4) (fld n 14 4) (fld n 8 6) (fld n 2 6))
    else if bits n 0 2 = 2 then checked (.scCmpLt (fld n 28 4) (fld n 18 4) (fld n 14 4) (fld n 8 6) (fld n 2 6))
    else if bits n 0 2 = 3 then checked (.scCmpLtu (fld n 28 4) (fld n 18 4) (fld n 14 4) (fld n 8 6) (fld n 2 6))
    else .error .unassignedField
  | 6 =>
    if bits n 0 2 = 0 then checked (.scCmpGe (fld n 28 4) (fld n 18 4) (fld n 14 4) (fld n 8 6) (fld n 2 6))
    else if bits n 0 2 = 1 then checked (.scCmpGeu (fld n 28 4) (fld n 18 4) (fld n 14 4) (fld n 8 6) (fld n 2 6))
    else .error .unassignedField
  | 7 =>
    checked (.scCmpiEq (fld n 28 4) (fld n 18 4) (fld n 14 4) (fld n 8 6) (fld n 0 8))
  | 8 =>
    checked (.scCmpiNe (fld n 28 4) (fld n 18 4) (fld n 14 4) (fld n 8 6) (fld n 0 8))
  | 9 =>
    checked (.scCmpiLt (fld n 28 4) (fld n 18 4) (fld n 14 4) (fld n 8 6) (fld n 0 8))
  | 10 =>
    checked (.scCmpiLtu (fld n 28 4) (fld n 18 4) (fld n 14 4) (fld n 8 6) (fld n 0 8))
  | 11 =>
    checked (.scCmpiGe (fld n 28 4) (fld n 18 4) (fld n 14 4) (fld n 8 6) (fld n 0 8))
  | 12 =>
    checked (.scCmpiGeu (fld n 28 4) (fld n 18 4) (fld n 14 4) (fld n 8 6) (fld n 0 8))
  | 16 =>
    checked (.scAddi (fld n 28 4) (fld n 16 6) (fld n 10 6) (fld n 0 10))
  | 17 =>
    checked (.scAndi (fld n 28 4) (fld n 16 6) (fld n 10 6) (fld n 0 10))
  | 18 =>
    checked (.scOri (fld n 28 4) (fld n 16 6) (fld n 10 6) (fld n 0 10))
  | 19 =>
    checked (.scXori (fld n 28 4) (fld n 16 6) (fld n 10 6) (fld n 0 10))
  | 20 =>
    if bits n 6 4 = 0 then checked (.scShli (fld n 28 4) (fld n 16 6) (fld n 10 6) (fld n 0 6))
    else .error .unassignedField
  | 21 =>
    if bits n 6 4 = 0 then checked (.scShri (fld n 28 4) (fld n 16 6) (fld n 10 6) (fld n 0 6))
    else .error .unassignedField
  | 22 =>
    if bits n 6 4 = 0 then checked (.scSrai (fld n 28 4) (fld n 16 6) (fld n 10 6) (fld n 0 6))
    else .error .unassignedField
  | 23 =>
    checked (.scMini (fld n 28 4) (fld n 16 6) (fld n 10 6) (fld n 0 10))
  | 24 =>
    checked (.scMaxi (fld n 28 4) (fld n 16 6) (fld n 10 6) (fld n 0 10))
  | 25 =>
    checked (.scMinui (fld n 28 4) (fld n 16 6) (fld n 10 6) (fld n 0 10))
  | 26 =>
    checked (.scMaxui (fld n 28 4) (fld n 16 6) (fld n 10 6) (fld n 0 10))
  | 28 | 29 | 30 | 31 =>
    checked (.scImm (fld n 28 4) (fld n 22 2) (fld n 16 6) (fld n 0 16))
  | 32 =>
    checked (.scLd (fld n 28 4) (fld n 16 6) (fld n 10 6) (fld n 8 2) (fld n 6 2) (fld n 0 6))
  | 33 =>
    checked (.scLdu (fld n 28 4) (fld n 16 6) (fld n 10 6) (fld n 8 2) (fld n 6 2) (fld n 0 6))
  | 34 =>
    checked (.scSt (fld n 28 4) (fld n 16 6) (fld n 10 6) (fld n 8 2) (fld n 6 2) (fld n 0 6))
  | 35 =>
    if bits n 8 2 = 0 then checked (.scLdc (fld n 28 4) (fld n 16 6) (fld n 10 6) (fld n 6 2) (fld n 0 6))
    else if bits n 8 2 = 1 then checked (.scLdcFe (fld n 28 4) (fld n 16 6) (fld n 10 6) (fld n 6 2) (fld n 0 6))
    else if bits n 8 2 = 2 then checked (.scLdcTake (fld n 28 4) (fld n 16 6) (fld n 10 6) (fld n 6 2) (fld n 0 6))
    else .error .unassignedField
  | 36 =>
    if bits n 8 2 = 0 then checked (.scLdcu (fld n 28 4) (fld n 16 6) (fld n 10 6) (fld n 6 2) (fld n 0 6))
    else if bits n 8 2 = 1 then checked (.scLdcuFe (fld n 28 4) (fld n 16 6) (fld n 10 6) (fld n 6 2) (fld n 0 6))
    else if bits n 8 2 = 2 then checked (.scLdcuTake (fld n 28 4) (fld n 16 6) (fld n 10 6) (fld n 6 2) (fld n 0 6))
    else .error .unassignedField
  | 37 =>
    if bits n 8 2 = 0 then checked (.scStc (fld n 28 4) (fld n 16 6) (fld n 10 6) (fld n 6 2) (fld n 0 6))
    else if bits n 8 2 = 1 then checked (.scStcSet (fld n 28 4) (fld n 16 6) (fld n 10 6) (fld n 6 2) (fld n 0 6))
    else .error .unassignedField
  | 40 =>
    if bits n 1 1 = 1 then checked (.scAmoAdd (fld n 28 4) (fld n 16 6) (fld n 10 6) (fld n 4 6) (fld n 2 2) (fld n 0 1))
    else .error .unassignedField
  | 41 =>
    if bits n 1 1 = 1 then checked (.scAmoAnd (fld n 28 4) (fld n 16 6) (fld n 10 6) (fld n 4 6) (fld n 2 2) (fld n 0 1))
    else .error .unassignedField
  | 42 =>
    if bits n 1 1 = 1 then checked (.scAmoOr (fld n 28 4) (fld n 16 6) (fld n 10 6) (fld n 4 6) (fld n 2 2) (fld n 0 1))
    else .error .unassignedField
  | 43 =>
    if bits n 1 1 = 1 then checked (.scAmoXor (fld n 28 4) (fld n 16 6) (fld n 10 6) (fld n 4 6) (fld n 2 2) (fld n 0 1))
    else .error .unassignedField
  | 44 =>
    if bits n 1 1 = 1 then checked (.scAmoMax (fld n 28 4) (fld n 16 6) (fld n 10 6) (fld n 4 6) (fld n 2 2) (fld n 0 1))
    else .error .unassignedField
  | 45 =>
    if bits n 1 1 = 1 then checked (.scAmoMin (fld n 28 4) (fld n 16 6) (fld n 10 6) (fld n 4 6) (fld n 2 2) (fld n 0 1))
    else .error .unassignedField
  | 46 =>
    if bits n 1 1 = 1 then checked (.scAmoMaxu (fld n 28 4) (fld n 16 6) (fld n 10 6) (fld n 4 6) (fld n 2 2) (fld n 0 1))
    else .error .unassignedField
  | 47 =>
    if bits n 1 1 = 1 then checked (.scAmoMinu (fld n 28 4) (fld n 16 6) (fld n 10 6) (fld n 4 6) (fld n 2 2) (fld n 0 1))
    else .error .unassignedField
  | 48 =>
    if bits n 1 1 = 1 then checked (.scAmoSwap (fld n 28 4) (fld n 16 6) (fld n 10 6) (fld n 4 6) (fld n 2 2) (fld n 0 1))
    else .error .unassignedField
  | 49 =>
    if bits n 1 1 = 1 then checked (.scAmoCas (fld n 28 4) (fld n 16 6) (fld n 10 6) (fld n 4 6) (fld n 2 2) (fld n 0 1))
    else .error .unassignedField
  | 56 =>
    if bits n 0 4 = 0 then checked (.scMfc (fld n 28 4) (fld n 16 6) (fld n 4 12))
    else if bits n 0 4 = 1 then checked (.scMtc (fld n 28 4) (fld n 16 6) (fld n 4 12))
    else if bits n 0 4 = 2 then checked (.scShw (fld n 28 4) (fld n 16 6) (fld n 4 12))
    else if bits n 0 16 = 3 then checked (.scCtv (fld n 28 4) (fld n 16 6))
    else if bits n 0 4 = 4 ∧ bits n 16 6 = 0 then checked (.scSvc (fld n 28 4) (fld n 4 12))
    else if bits n 0 4 = 5 ∧ bits n 16 6 = 0 then checked (.scTrap (fld n 28 4) (fld n 4 12))
    else if bits n 0 4 = 6 ∧ bits n 16 6 = 0 then checked (.scBrk (fld n 28 4) (fld n 4 12))
    else if bits n 0 16 = 7 then checked (.scStqpop (fld n 28 4) (fld n 16 6))
    else if bits n 0 22 = 8 then checked (.scEret (fld n 28 4))
    else .error .unassignedField
  | 57 =>
    if bits n 0 4 = 0 then checked (.scZdef (fld n 28 4) (fld n 16 6) (fld n 10 6) (fld n 4 6))
    else if bits n 0 4 = 1 then checked (.scZdefh (fld n 28 4) (fld n 16 6) (fld n 10 6) (fld n 4 6))
    else if bits n 0 4 = 2 then checked (.scHdef (fld n 28 4) (fld n 16 6) (fld n 10 6) (fld n 4 6))
    else if bits n 0 4 = 3 then checked (.scCmpx (fld n 28 4) (fld n 16 6) (fld n 10 6) (fld n 4 6))
    else .error .unassignedField
  | _ => .error .unassignedOp

/-- The CT map (R66). -/
def decodeCt (n : Nat) : Except DecodeError Instr :=
  match bits n 22 6 with
  | 1 =>
    checked (.ctBr (fld n 28 4) (fld n 0 22))
  | 2 =>
    checked (.ctCall (fld n 28 4) (fld n 0 22))
  | 3 =>
    if bits n 0 16 = 0 then checked (.ctCallr (fld n 28 4) (fld n 16 6))
    else .error .unassignedField
  | 4 =>
    if bits n 0 16 = 0 then checked (.ctJr (fld n 28 4) (fld n 16 6))
    else .error .unassignedField
  | 5 =>
    if bits n 0 16 = 0 then checked (.ctRet (fld n 28 4) (fld n 16 6))
    else .error .unassignedField
  | 6 =>
    checked (.ctLoop (fld n 28 4) (fld n 16 6) (fld n 12 4) (fld n 0 12))
  | 8 =>
    if bits n 0 6 = 0 then checked (.ctWait (fld n 28 4) (fld n 18 4) (fld n 14 4) (fld n 10 4) (fld n 6 4))
    else .error .unassignedField
  | 9 =>
    if bits n 0 19 = 0 then checked (.ctBarArrive (fld n 28 4) (fld n 19 3))
    else if bits n 0 19 = 65536 then checked (.ctBarWait (fld n 28 4) (fld n 19 3))
    else if bits n 0 19 = 131072 then checked (.ctBarSync (fld n 28 4) (fld n 19 3))
    else .error .unassignedField
  | 10 =>
    if bits n 0 14 = 0 then checked (.ctFenceRel (fld n 28 4) (fld n 14 8))
    else if bits n 0 14 = 4096 then checked (.ctFenceAcq (fld n 28 4) (fld n 14 8))
    else if bits n 0 14 = 8192 then checked (.ctFenceVis (fld n 28 4) (fld n 14 8))
    else if bits n 0 22 = 4190208 then checked (.ctFenceFull (fld n 28 4))
    else .error .unassignedField
  | 12 =>
    checked (.ctArm (fld n 28 4) (fld n 16 6) (fld n 0 16))
  | 13 =>
    if bits n 0 16 = 0 then checked (.ctMwait (fld n 28 4) (fld n 16 6))
    else .error .unassignedField
  | 16 =>
    checked (.ctDawn (fld n 28 4) (fld n 0 22))
  | 17 =>
    if bits n 0 22 = 0 then checked (.ctDusk (fld n 28 4))
    else .error .unassignedField
  | 18 =>
    if bits n 0 18 = 0 then checked (.ctCheck (fld n 28 4) (fld n 18 4))
    else .error .unassignedField
  | 19 =>
    if bits n 0 22 = 0 then checked (.ctAbort (fld n 28 4))
    else .error .unassignedField
  | 24 =>
    if bits n 0 10 = 0 then checked (.ctPand (fld n 28 4) (fld n 18 4) (fld n 14 4) (fld n 10 4))
    else if bits n 0 10 = 64 then checked (.ctPor (fld n 28 4) (fld n 18 4) (fld n 14 4) (fld n 10 4))
    else if bits n 0 10 = 128 then checked (.ctPxor (fld n 28 4) (fld n 18 4) (fld n 14 4) (fld n 10 4))
    else if bits n 0 10 = 192 then checked (.ctPandn (fld n 28 4) (fld n 18 4) (fld n 14 4) (fld n 10 4))
    else if bits n 0 14 = 256 then checked (.ctPnot (fld n 28 4) (fld n 18 4) (fld n 14 4))
    else if bits n 0 18 = 320 then checked (.ctPset (fld n 28 4) (fld n 18 4))
    else if bits n 0 18 = 384 then checked (.ctPclr (fld n 28 4) (fld n 18 4))
    else .error .unassignedField
  | 28 =>
    if bits n 0 18 = 0 then checked (.ctRoff (fld n 28 4) (fld n 18 4))
    else .error .unassignedField
  | 29 =>
    checked (.ctIdle (fld n 28 4) (fld n 0 22))
  | 30 =>
    if bits n 0 22 = 0 then checked (.ctEnd (fld n 28 4))
    else .error .unassignedField
  | _ => .error .unassignedOp

/-- The shared VX and VY map (R67); the rows marked VY are unassigned in VX. -/
def decodeV (sl : VSlot) (n : Nat) : Except DecodeError Instr :=
  match bits n 22 6 with
  | 1 =>
    if bits n 0 4 = 0 then checked (.vFadd sl (fld n 28 4) (fld n 17 5) (fld n 12 5) (fld n 7 5) (fld n 4 3))
    else if bits n 0 4 = 1 then checked (.vFsub sl (fld n 28 4) (fld n 17 5) (fld n 12 5) (fld n 7 5) (fld n 4 3))
    else if bits n 0 4 = 2 then checked (.vFmul sl (fld n 28 4) (fld n 17 5) (fld n 12 5) (fld n 7 5) (fld n 4 3))
    else if bits n 0 4 = 3 then checked (.vFma sl (fld n 28 4) (fld n 17 5) (fld n 12 5) (fld n 7 5) (fld n 4 3))
    else if bits n 0 4 = 4 then checked (.vFms sl (fld n 28 4) (fld n 17 5) (fld n 12 5) (fld n 7 5) (fld n 4 3))
    else if bits n 0 4 = 5 then checked (.vFmin sl (fld n 28 4) (fld n 17 5) (fld n 12 5) (fld n 7 5) (fld n 4 3))
    else if bits n 0 4 = 6 then checked (.vFmax sl (fld n 28 4) (fld n 17 5) (fld n 12 5) (fld n 7 5) (fld n 4 3))
    else if bits n 0 4 = 7 then checked (.vFabs sl (fld n 28 4) (fld n 17 5) (fld n 12 5) (fld n 7 5) (fld n 4 3))
    else if bits n 0 4 = 8 then checked (.vFneg sl (fld n 28 4) (fld n 17 5) (fld n 12 5) (fld n 7 5) (fld n 4 3))
    else if bits n 0 4 = 9 then checked (.vFscale sl (fld n 28 4) (fld n 17 5) (fld n 12 5) (fld n 7 5) (fld n 4 3))
    else .error .unassignedField
  | 2 =>
    if bits n 0 4 = 0 then checked (.vIadd sl (fld n 28 4) (fld n 17 5) (fld n 12 5) (fld n 7 5) (fld n 4 3))
    else if bits n 0 4 = 1 then checked (.vIsub sl (fld n 28 4) (fld n 17 5) (fld n 12 5) (fld n 7 5) (fld n 4 3))
    else if bits n 0 4 = 2 then checked (.vImul sl (fld n 28 4) (fld n 17 5) (fld n 12 5) (fld n 7 5) (fld n 4 3))
    else if bits n 0 4 = 3 then checked (.vImulh sl (fld n 28 4) (fld n 17 5) (fld n 12 5) (fld n 7 5) (fld n 4 3))
    else if bits n 0 4 = 4 then checked (.vIand sl (fld n 28 4) (fld n 17 5) (fld n 12 5) (fld n 7 5) (fld n 4 3))
    else if bits n 0 4 = 5 then checked (.vIor sl (fld n 28 4) (fld n 17 5) (fld n 12 5) (fld n 7 5) (fld n 4 3))
    else if bits n 0 4 = 6 then checked (.vIxor sl (fld n 28 4) (fld n 17 5) (fld n 12 5) (fld n 7 5) (fld n 4 3))
    else if bits n 0 4 = 7 then checked (.vIshl sl (fld n 28 4) (fld n 17 5) (fld n 12 5) (fld n 7 5) (fld n 4 3))
    else if bits n 0 4 = 8 then checked (.vIshr sl (fld n 28 4) (fld n 17 5) (fld n 12 5) (fld n 7 5) (fld n 4 3))
    else if bits n 0 4 = 9 then checked (.vIsra sl (fld n 28 4) (fld n 17 5) (fld n 12 5) (fld n 7 5) (fld n 4 3))
    else if bits n 0 4 = 10 then checked (.vImin sl (fld n 28 4) (fld n 17 5) (fld n 12 5) (fld n 7 5) (fld n 4 3))
    else if bits n 0 4 = 11 then checked (.vImax sl (fld n 28 4) (fld n 17 5) (fld n 12 5) (fld n 7 5) (fld n 4 3))
    else if bits n 0 4 = 12 then checked (.vIminu sl (fld n 28 4) (fld n 17 5) (fld n 12 5) (fld n 7 5) (fld n 4 3))
    else if bits n 0 4 = 13 then checked (.vImaxu sl (fld n 28 4) (fld n 17 5) (fld n 12 5) (fld n 7 5) (fld n 4 3))
    else .error .unassignedField
  | 3 =>
    if bits n 0 4 = 0 then checked (.vIadds sl (fld n 28 4) (fld n 17 5) (fld n 12 5) (fld n 7 5) (fld n 4 3))
    else if bits n 0 4 = 1 then checked (.vIsubs sl (fld n 28 4) (fld n 17 5) (fld n 12 5) (fld n 7 5) (fld n 4 3))
    else if bits n 0 4 = 2 then checked (.vIabsd sl (fld n 28 4) (fld n 17 5) (fld n 12 5) (fld n 7 5) (fld n 4 3))
    else if bits n 0 4 = 3 then checked (.vIavg sl (fld n 28 4) (fld n 17 5) (fld n 12 5) (fld n 7 5) (fld n 4 3))
    else if bits n 0 4 = 4 then checked (.vImad16 sl (fld n 28 4) (fld n 17 5) (fld n 12 5) (fld n 7 5) (fld n 4 3))
    else .error .unassignedField
  | 4 =>
    if bits n 0 3 = 0 then checked (.vFaddS sl (fld n 28 4) (fld n 17 5) (fld n 12 5) (fld n 6 6) (fld n 3 3))
    else if bits n 0 3 = 1 then checked (.vFsubS sl (fld n 28 4) (fld n 17 5) (fld n 12 5) (fld n 6 6) (fld n 3 3))
    else if bits n 0 3 = 2 then checked (.vFmulS sl (fld n 28 4) (fld n 17 5) (fld n 12 5) (fld n 6 6) (fld n 3 3))
    else if bits n 0 3 = 3 then checked (.vFmaS sl (fld n 28 4) (fld n 17 5) (fld n 12 5) (fld n 6 6) (fld n 3 3))
    else if bits n 0 3 = 4 then checked (.vFminS sl (fld n 28 4) (fld n 17 5) (fld n 12 5) (fld n 6 6) (fld n 3 3))
    else if bits n 0 3 = 5 then checked (.vFmaxS sl (fld n 28 4) (fld n 17 5) (fld n 12 5) (fld n 6 6) (fld n 3 3))
    else if bits n 0 3 = 6 then checked (.vFscaleS sl (fld n 28 4) (fld n 17 5) (fld n 12 5) (fld n 6 6) (fld n 3 3))
    else .error .unassignedField
  | 5 =>
    if bits n 0 3 = 0 then checked (.vIaddS sl (fld n 28 4) (fld n 17 5) (fld n 12 5) (fld n 6 6) (fld n 3 3))
    else if bits n 0 3 = 1 then checked (.vIsubS sl (fld n 28 4) (fld n 17 5) (fld n 12 5) (fld n 6 6) (fld n 3 3))
    else if bits n 0 3 = 2 then checked (.vImulS sl (fld n 28 4) (fld n 17 5) (fld n 12 5) (fld n 6 6) (fld n 3 3))
    else if bits n 0 3 = 3 then checked (.vIandS sl (fld n 28 4) (fld n 17 5) (fld n 12 5) (fld n 6 6) (fld n 3 3))
    else if bits n 0 3 = 4 then checked (.vIorS sl (fld n 28 4) (fld n 17 5) (fld n 12 5) (fld n 6 6) (fld n 3 3))
    else if bits n 0 3 = 5 then checked (.vIxorS sl (fld n 28 4) (fld n 17 5) (fld n 12 5) (fld n 6 6) (fld n 3 3))
    else if bits n 0 3 = 6 then checked (.vIshlS sl (fld n 28 4) (fld n 17 5) (fld n 12 5) (fld n 6 6) (fld n 3 3))
    else if bits n 0 3 = 7 then checked (.vIshrS sl (fld n 28 4) (fld n 17 5) (fld n 12 5) (fld n 6 6) (fld n 3 3))
    else .error .unassignedField
  | 6 =>
    if bits n 0 3 = 0 then checked (.vIsraS sl (fld n 28 4) (fld n 17 5) (fld n 12 5) (fld n 6 6) (fld n 3 3))
    else if bits n 0 3 = 1 then checked (.vIminS sl (fld n 28 4) (fld n 17 5) (fld n 12 5) (fld n 6 6) (fld n 3 3))
    else if bits n 0 3 = 2 then checked (.vImaxS sl (fld n 28 4) (fld n 17 5) (fld n 12 5) (fld n 6 6) (fld n 3 3))
    else if bits n 0 3 = 3 then checked (.vIaddsS sl (fld n 28 4) (fld n 17 5) (fld n 12 5) (fld n 6 6) (fld n 3 3))
    else if bits n 0 3 = 4 then checked (.vIsubsS sl (fld n 28 4) (fld n 17 5) (fld n 12 5) (fld n 6 6) (fld n 3 3))
    else .error .unassignedField
  | 7 =>
    if bits n 0 3 = 0 ∧ bits n 12 5 = 0 then checked (.vBcast sl (fld n 28 4) (fld n 17 5) (fld n 6 6) (fld n 3 3))
    else if bits n 0 3 = 1 then checked (.vSlideUp sl (fld n 28 4) (fld n 17 5) (fld n 12 5) (fld n 6 6) (fld n 3 3))
    else if bits n 0 3 = 2 then checked (.vSlideDn sl (fld n 28 4) (fld n 17 5) (fld n 12 5) (fld n 6 6) (fld n 3 3))
    else .error .unassignedField
  | 8 =>
    if bits n 0 3 = 0 then checked (.vFcmpEq sl (fld n 28 4) (fld n 19 3) (fld n 16 3) (fld n 11 5) (fld n 6 5) (fld n 3 3))
    else if bits n 0 3 = 1 then checked (.vFcmpLt sl (fld n 28 4) (fld n 19 3) (fld n 16 3) (fld n 11 5) (fld n 6 5) (fld n 3 3))
    else if bits n 0 3 = 2 then checked (.vFcmpLe sl (fld n 28 4) (fld n 19 3) (fld n 16 3) (fld n 11 5) (fld n 6 5) (fld n 3 3))
    else if bits n 0 3 = 3 then checked (.vFcmpUn sl (fld n 28 4) (fld n 19 3) (fld n 16 3) (fld n 11 5) (fld n 6 5) (fld n 3 3))
    else .error .unassignedField
  | 9 =>
    if bits n 0 3 = 0 then checked (.vIcmpEq sl (fld n 28 4) (fld n 19 3) (fld n 16 3) (fld n 11 5) (fld n 6 5) (fld n 3 3))
    else if bits n 0 3 = 1 then checked (.vIcmpLt sl (fld n 28 4) (fld n 19 3) (fld n 16 3) (fld n 11 5) (fld n 6 5) (fld n 3 3))
    else if bits n 0 3 = 2 then checked (.vIcmpLtu sl (fld n 28 4) (fld n 19 3) (fld n 16 3) (fld n 11 5) (fld n 6 5) (fld n 3 3))
    else .error .unassignedField
  | 10 =>
    if bits n 0 4 = 0 ∧ bits n 7 5 = 0 then checked (.vFsum sl (fld n 28 4) (fld n 17 5) (fld n 12 5) (fld n 4 3))
    else if bits n 0 4 = 1 ∧ bits n 7 5 = 0 then checked (.vFmaxr sl (fld n 28 4) (fld n 17 5) (fld n 12 5) (fld n 4 3))
    else if bits n 0 4 = 2 ∧ bits n 7 5 = 0 then checked (.vImaxr sl (fld n 28 4) (fld n 17 5) (fld n 12 5) (fld n 4 3))
    else if bits n 0 4 = 3 ∧ bits n 7 5 = 0 then checked (.vIminr sl (fld n 28 4) (fld n 17 5) (fld n 12 5) (fld n 4 3))
    else if bits n 0 4 = 4 ∧ bits n 7 5 = 0 then checked (.vIsumr sl (fld n 28 4) (fld n 17 5) (fld n 12 5) (fld n 4 3))
    else .error .unassignedField
  | 11 =>
    if bits n 0 4 = 0 ∧ bits n 7 5 = 0 then checked (.vMov sl (fld n 28 4) (fld n 17 5) (fld n 12 5) (fld n 4 3))
    else if bits n 0 4 = 1 then checked (.vSel sl (fld n 28 4) (fld n 17 5) (fld n 12 5) (fld n 7 5) (fld n 4 3))
    else if bits n 0 4 = 2 then checked (.vPerm sl (fld n 28 4) (fld n 17 5) (fld n 12 5) (fld n 7 5) (fld n 4 3))
    else if bits n 0 4 = 3 ∧ bits n 7 10 = 0 then checked (.vLidx sl (fld n 28 4) (fld n 17 5) (fld n 4 3))
    else .error .unassignedField
  | 12 =>
    if bits n 0 2 = 0 then checked (.vCvt sl (fld n 28 4) (fld n 17 5) (fld n 12 5) (fld n 7 5) (fld n 4 3) (fld n 2 2))
    else if bits n 0 4 = 1 then checked (.vRetag sl (fld n 28 4) (fld n 17 5) (fld n 12 5) (fld n 7 5) (fld n 4 3))
    else .error .unassignedField
  | 32 =>
    checked (.vLdL sl (fld n 28 4) (fld n 17 5) (fld n 11 6) (fld n 8 3) (fld n 6 2) (fld n 0 6))
  | 33 =>
    if bits n 6 2 = 0 then checked (.vStL sl (fld n 28 4) (fld n 17 5) (fld n 11 6) (fld n 8 3) (fld n 0 6))
    else .error .unassignedField
  | 34 =>
    checked (.vLdC sl (fld n 28 4) (fld n 17 5) (fld n 11 6) (fld n 8 3) (fld n 6 2) (fld n 0 6))
  | 35 =>
    checked (.vLdCFe sl (fld n 28 4) (fld n 17 5) (fld n 11 6) (fld n 8 3) (fld n 6 2) (fld n 0 6))
  | 36 =>
    checked (.vLdCTake sl (fld n 28 4) (fld n 17 5) (fld n 11 6) (fld n 8 3) (fld n 6 2) (fld n 0 6))
  | 37 =>
    if bits n 6 2 = 0 then checked (.vStC sl (fld n 28 4) (fld n 17 5) (fld n 11 6) (fld n 8 3) (fld n 0 6))
    else .error .unassignedField
  | 38 =>
    if bits n 6 2 = 0 then checked (.vStCSet sl (fld n 28 4) (fld n 17 5) (fld n 11 6) (fld n 8 3) (fld n 0 6))
    else .error .unassignedField
  | 40 | 41 | 42 | 43 =>
    if sl = .vx then .error .unassignedOp else checked (.vLdG (fld n 28 4) (fld n 22 2) (fld n 17 5) (fld n 11 6) (fld n 8 3) (fld n 6 2) (fld n 0 6))
  | 44 | 45 | 46 | 47 =>
    if sl = .vx then .error .unassignedOp else if bits n 6 2 = 0 then checked (.vStG (fld n 28 4) (fld n 22 2) (fld n 17 5) (fld n 11 6) (fld n 8 3) (fld n 0 6))
    else .error .unassignedField
  | 48 | 49 | 50 | 51 =>
    if sl = .vx then .error .unassignedOp else checked (.vGather (fld n 28 4) (fld n 22 2) (fld n 17 5) (fld n 12 5) (fld n 6 6) (fld n 3 3) (fld n 0 3))
  | 52 | 53 | 54 | 55 =>
    if sl = .vx then .error .unassignedOp else if bits n 0 1 = 0 then checked (.vScatter (fld n 28 4) (fld n 22 2) (fld n 17 5) (fld n 12 5) (fld n 6 6) (fld n 3 3) (fld n 1 2))
    else .error .unassignedField
  | _ => .error .unassignedOp

/-- The MX map (R68). -/
def decodeMx (n : Nat) : Except DecodeError Instr :=
  match bits n 22 6 with
  | 1 =>
    if bits n 0 4 = 0 ∧ bits n 5 2 = 0 then checked (.mxMma (fld n 28 4) (fld n 20 2) (fld n 18 2) (fld n 17 1) (fld n 13 4) (fld n 7 6) (fld n 4 1))
    else if bits n 0 4 = 1 ∧ bits n 5 2 = 0 then checked (.mxMmaz (fld n 28 4) (fld n 20 2) (fld n 18 2) (fld n 17 1) (fld n 13 4) (fld n 7 6) (fld n 4 1))
    else if bits n 0 7 = 2 ∧ bits n 13 4 = 0 then checked (.mxHrot16 (fld n 28 4) (fld n 20 2) (fld n 18 2) (fld n 17 1) (fld n 7 6))
    else if bits n 0 7 = 3 ∧ bits n 13 4 = 0 then checked (.mxHrot64 (fld n 28 4) (fld n 20 2) (fld n 18 2) (fld n 17 1) (fld n 7 6))
    else .error .unassignedField
  | 2 =>
    if bits n 0 4 = 0 then checked (.mxDrain (fld n 28 4) (fld n 20 2) (fld n 18 2) (fld n 17 1) (fld n 12 5) (fld n 10 2) (fld n 4 6))
    else if bits n 0 4 = 1 then checked (.mxDrainH16 (fld n 28 4) (fld n 20 2) (fld n 18 2) (fld n 17 1) (fld n 12 5) (fld n 10 2) (fld n 4 6))
    else if bits n 0 4 = 2 then checked (.mxDrainH64 (fld n 28 4) (fld n 20 2) (fld n 18 2) (fld n 17 1) (fld n 12 5) (fld n 10 2) (fld n 4 6))
    else if bits n 0 4 = 3 ∧ bits n 10 7 = 0 ∧ bits n 20 2 = 0 then checked (.mxCprog (fld n 28 4) (fld n 18 2) (fld n 17 1) (fld n 4 6))
    else if bits n 0 20 = 4 then checked (.mxMclr (fld n 28 4) (fld n 20 2))
    else if bits n 0 12 = 5 ∧ bits n 17 3 = 0 then checked (.mxMtag (fld n 28 4) (fld n 20 2) (fld n 12 5))
    else if bits n 0 4 = 6 ∧ bits n 10 10 = 0 then checked (.mxMstat (fld n 28 4) (fld n 20 2) (fld n 4 6))
    else .error .unassignedField
  | _ => .error .unassignedOp

/-- The copy map (R68, R176). -/
def decodeX (sl : XSlot) (n : Nat) : Except DecodeError Instr :=
  match bits n 22 6 with
  | 1 =>
    if bits n 0 5 = 0 ∧ bits n 14 3 = 0 then checked (.xCp sl (fld n 28 4) (fld n 20 2) (fld n 18 2) (fld n 17 1) (fld n 12 2) (fld n 6 6) (fld n 5 1))
    else if bits n 0 5 = 1 ∧ bits n 14 3 = 0 then checked (.xCpBs sl (fld n 28 4) (fld n 20 2) (fld n 18 2) (fld n 17 1) (fld n 12 2) (fld n 6 6) (fld n 5 1))
    else if bits n 0 6 = 2 ∧ bits n 14 3 = 0 then checked (.xCpSh sl (fld n 28 4) (fld n 20 2) (fld n 18 2) (fld n 17 1) (fld n 12 2) (fld n 6 6))
    else if bits n 0 5 = 3 ∧ bits n 14 3 = 0 then checked (.xCpBcast sl (fld n 28 4) (fld n 20 2) (fld n 18 2) (fld n 17 1) (fld n 12 2) (fld n 6 6) (fld n 5 1))
    else if bits n 0 5 = 4 then checked (.xCpDz sl (fld n 28 4) (fld n 20 2) (fld n 18 2) (fld n 17 1) (fld n 12 5) (fld n 6 6) (fld n 5 1))
    else if bits n 0 6 = 5 ∧ bits n 15 2 = 0 then checked (.xSread sl (fld n 28 4) (fld n 20 2) (fld n 18 2) (fld n 17 1) (fld n 12 3) (fld n 6 6))
    else if bits n 0 6 = 6 ∧ bits n 12 10 = 0 then checked (.xPub sl (fld n 28 4) (fld n 6 6))
    else if bits n 0 6 = 7 ∧ bits n 12 10 = 0 then checked (.xCancel sl (fld n 28 4) (fld n 6 6))
    else .error .unassignedField
  | _ => .error .unassignedOp

/-- The PF map (R68, R189). -/
def decodePf (n : Nat) : Except DecodeError Instr :=
  match bits n 22 6 with
  | 1 =>
    if bits n 0 17 = 0 then checked (.pfTrn8 (fld n 28 4) (fld n 20 2) (fld n 18 2) (fld n 17 1))
    else if bits n 0 17 = 4096 then checked (.pfTrn16 (fld n 28 4) (fld n 20 2) (fld n 18 2) (fld n 17 1))
    else if bits n 0 17 = 8192 then checked (.pfTrn32 (fld n 28 4) (fld n 20 2) (fld n 18 2) (fld n 17 1))
    else if bits n 0 6 = 0 ∧ bits n 12 5 = 3 ∧ bits n 20 2 = 0 then checked (.pfFill (fld n 28 4) (fld n 18 2) (fld n 17 1) (fld n 6 6))
    else if bits n 5 1 = 0 ∧ bits n 12 5 = 4 then checked (.pfQnt (fld n 28 4) (fld n 20 2) (fld n 18 2) (fld n 17 1) (fld n 6 6) (fld n 0 5))
    else if bits n 5 1 = 0 ∧ bits n 12 5 = 5 then checked (.pfDqnt (fld n 28 4) (fld n 20 2) (fld n 18 2) (fld n 17 1) (fld n 6 6) (fld n 0 5))
    else if bits n 0 17 = 24576 then checked (.pfUpx12 (fld n 28 4) (fld n 20 2) (fld n 18 2) (fld n 17 1))
    else if bits n 0 17 = 28672 then checked (.pfPkx12 (fld n 28 4) (fld n 20 2) (fld n 18 2) (fld n 17 1))
    else if bits n 0 6 = 0 ∧ bits n 12 5 = 8 then checked (.pfShuf (fld n 28 4) (fld n 20 2) (fld n 18 2) (fld n 17 1) (fld n 6 6))
    else .error .unassignedField
  | _ => .error .unassignedOp

/-- The instruction that `w` stands for in a slot (R62 to R69). -/
def decodeWord (slot : Slot) (w : SlotWord) : Except DecodeError Instr :=
  if w.toNat = 0 then .ok .nop
  else if bits w.toNat 22 6 = 0 then .error .notNop
  else match slot with
    | .sc => decodeSc w.toNat
    | .ct => decodeCt w.toNat
    | .vx => decodeV .vx w.toNat
    | .vy => decodeV .vy w.toNat
    | .mx => decodeMx w.toNat
    | .ca => decodeX .ca w.toNat
    | .cb => decodeX .cb w.toNat
    | .pf => decodePf w.toNat

/-- The word of slot k of a bundle (R61). -/
def Bundle.word (b : Bundle) (s : Slot) : SlotWord := fld b.toNat (32 * s.num) 32

/-- A bundle with the word of one slot replaced. -/
def Bundle.ofWords (f : Slot → SlotWord) : Bundle :=
  BitVec.ofNat 256 (Slot.all.foldl (fun n s => n + (f s).toNat * 2 ^ (32 * s.num)) 0)

/-- The emit extension of the composer (R208). -/
def decodeEmit (n : Nat) : Except DecodeError Instr :=
  if bits n 0 20 = 11 ∧ bits n 23 9 = 0 then .ok (.eClr (fld n 20 3))
  else if bits n 0 32 = 8388619 then .ok (.eClrAll)
  else if bits n 0 15 = 4107 ∧ bits n 23 9 = 0 then .ok (.eSet (fld n 20 3) (fld n 15 5))
  else if bits n 0 15 = 8203 then .ok (.eTpl (fld n 20 12) (fld n 15 5))
  else if bits n 0 15 = 12299 ∧ bits n 25 7 = 0 then .ok (.ePatch (fld n 20 5) (fld n 15 5))
  else if bits n 0 15 = 16395 ∧ bits n 20 12 = 0 then .ok (.eProv (fld n 15 5))
  else if bits n 0 15 = 43 ∧ bits n 20 12 = 0 then .ok (.eEmitP (fld n 15 5))
  else if bits n 0 15 = 4139 ∧ bits n 20 12 = 0 then .ok (.eEmitS (fld n 15 5))
  else if bits n 0 15 = 8235 ∧ bits n 20 12 = 0 then .ok (.eEmitA (fld n 15 5))
  else if bits n 0 15 = 12331 ∧ bits n 25 2 = 0 then .ok (.eEmitrP (fld n 27 5) (fld n 20 5) (fld n 15 5))
  else if bits n 0 15 = 16427 ∧ bits n 25 2 = 0 then .ok (.eEmitrS (fld n 27 5) (fld n 20 5) (fld n 15 5))
  else if bits n 0 7 = 43 ∧ bits n 12 3 = 5 ∧ bits n 20 5 = 0 ∧ bits n 26 6 = 0 then .ok (.eQst (fld n 25 1) (fld n 15 5) (fld n 7 5))
  else if bits n 0 15 = 24619 ∧ bits n 26 6 = 0 then .ok (.eWait (fld n 25 1) (fld n 20 5) (fld n 15 5))
  else if bits n 0 15 = 28715 ∧ bits n 20 5 = 0 ∧ bits n 26 6 = 0 then .ok (.eBind (fld n 25 1) (fld n 15 5))
  else .error .unassignedField

/-! ### The standard RISC-V words (R202; encodings PRESUMED from the RISC-V standard, log 5) -/

/-- A `len`-bit immediate, sign-extended. -/
def sxImm (len v : Nat) : BitVec 64 := (BitVec.ofNat len v).signExtend 64

/-- The operations of opcode OP by funct7 and funct3. -/
def rvOp (f7 f3 : Nat) : Option RvAlu :=
  match f7, f3 with
  | 0, 0 => some .add | 0, 1 => some .sll | 0, 2 => some .slt | 0, 3 => some .sltu
  | 0, 4 => some .xor | 0, 5 => some .srl | 0, 6 => some .or | 0, 7 => some .and
  | 1, 0 => some .mul | 1, 1 => some .mulh | 1, 2 => some .mulhsu | 1, 3 => some .mulhu
  | 1, 4 => some .div | 1, 5 => some .divu | 1, 6 => some .rem | 1, 7 => some .remu
  | 0x20, 0 => some .sub | 0x20, 5 => some .sra
  | 0x20, 7 => some .andn | 0x20, 6 => some .orn | 0x20, 4 => some .xnor
  | 0x10, 2 => some .sh1add | 0x10, 4 => some .sh2add | 0x10, 6 => some .sh3add
  | 5, 4 => some .min | 5, 5 => some .minu | 5, 6 => some .max | 5, 7 => some .maxu
  | 0x30, 1 => some .rol | 0x30, 5 => some .ror
  | 0x24, 1 => some .bclr | 0x24, 5 => some .bext | 0x34, 1 => some .binv | 0x14, 1 => some .bset
  | _, _ => none

/-- The operations of opcode OP-32 by funct7 and funct3, but for the Zba forms. -/
def rvOpW (f7 f3 : Nat) : Option RvAluW :=
  match f7, f3 with
  | 0, 0 => some .addw | 0, 1 => some .sllw | 0, 5 => some .srlw
  | 0x20, 0 => some .subw | 0x20, 5 => some .sraw
  | 1, 0 => some .mulw | 1, 4 => some .divw | 1, 5 => some .divuw | 1, 6 => some .remw | 1, 7 => some .remuw
  | 0x30, 1 => some .rolw | 0x30, 5 => some .rorw
  | _, _ => none

/-- Opcode OP-IMM. -/
def rvOpImm (n : Nat) : Rv :=
  let rd : BitVec 5 := fld n 7 5
  let rs1 : BitVec 5 := fld n 15 5
  let imm := sxImm 12 (bits n 20 12)
  let sh : BitVec 64 := BitVec.ofNat 64 (bits n 20 6)
  match bits n 12 3 with
  | 0 => .opImm .add rd rs1 imm
  | 2 => .opImm .slt rd rs1 imm
  | 3 => .opImm .sltu rd rs1 imm
  | 4 => .opImm .xor rd rs1 imm
  | 6 => .opImm .or rd rs1 imm
  | 7 => .opImm .and rd rs1 imm
  | 1 => match bits n 26 6 with
    | 0 => .opImm .sll rd rs1 sh
    | 0x0A => .opImm .bset rd rs1 sh
    | 0x12 => .opImm .bclr rd rs1 sh
    | 0x1A => .opImm .binv rd rs1 sh
    | _ => match bits n 20 12 with
      | 0x600 => .unary .clz rd rs1
      | 0x601 => .unary .ctz rd rs1
      | 0x602 => .unary .cpop rd rs1
      | 0x604 => .unary .sextb rd rs1
      | 0x605 => .unary .sexth rd rs1
      | _ => .illegal (BitVec.ofNat 32 n)
  | _ => match bits n 26 6 with
    | 0 => .opImm .srl rd rs1 sh
    | 0x10 => .opImm .sra rd rs1 sh
    | 0x18 => .opImm .ror rd rs1 sh
    | 0x12 => .opImm .bext rd rs1 sh
    | _ => match bits n 20 12 with
      | 0x287 => .unary .orcb rd rs1
      | 0x6B8 => .unary .rev8 rd rs1
      | _ => .illegal (BitVec.ofNat 32 n)

/-- Opcode OP-IMM-32. -/
def rvOpImmW (n : Nat) : Rv :=
  let rd : BitVec 5 := fld n 7 5
  let rs1 : BitVec 5 := fld n 15 5
  let sh : BitVec 64 := BitVec.ofNat 64 (bits n 20 5)
  match bits n 12 3, bits n 25 7 with
  | 0, _ => .opImmW .addw rd rs1 (sxImm 12 (bits n 20 12))
  | 1, 0 => .opImmW .sllw rd rs1 sh
  | 5, 0 => .opImmW .srlw rd rs1 sh
  | 5, 0x20 => .opImmW .sraw rd rs1 sh
  | 5, 0x30 => .opImmW .rorw rd rs1 sh
  | 1, 4 => .sllIUw rd rs1 (BitVec.ofNat 64 (bits n 20 6))
  | 1, 5 => .sllIUw rd rs1 (BitVec.ofNat 64 (bits n 20 6))
  | 1, 0x30 => match bits n 20 5 with
    | 0 => .unary .clzw rd rs1
    | 1 => .unary .ctzw rd rs1
    | 2 => .unary .cpopw rd rs1
    | _ => .illegal (BitVec.ofNat 32 n)
  | _, _ => .illegal (BitVec.ofNat 32 n)

/-- Opcode OP-32. -/
def rvOp32 (n : Nat) : Rv :=
  let rd : BitVec 5 := fld n 7 5
  let rs1 : BitVec 5 := fld n 15 5
  let rs2 : BitVec 5 := fld n 20 5
  match bits n 25 7, bits n 12 3 with
  | 4, 0 => .op .adduw rd rs1 rs2
  | 0x10, 2 => .op .sh1adduw rd rs1 rs2
  | 0x10, 4 => .op .sh2adduw rd rs1 rs2
  | 0x10, 6 => .op .sh3adduw rd rs1 rs2
  | 4, 4 => if rs2 = 0 then .unary .zexth rd rs1 else .illegal (BitVec.ofNat 32 n)
  | f7, f3 => match rvOpW f7 f3 with
    | some op => .opW op rd rs1 rs2
    | none => .illegal (BitVec.ofNat 32 n)

/-- Opcode AMO; rl is bit 25. -/
def rvAmo (n : Nat) : Rv :=
  let rd : BitVec 5 := fld n 7 5
  let rs1 : BitVec 5 := fld n 15 5
  let rs2 : BitVec 5 := fld n 20 5
  let dbl : Bool := bits n 12 3 = 3
  let rl : Bool := bits n 25 1 = 1
  if bits n 12 3 ≠ 2 ∧ bits n 12 3 ≠ 3 then .illegal (BitVec.ofNat 32 n)
  else match bits n 27 5 with
    | 2 => if rs2 = 0 then .lr dbl rl rd rs1 else .illegal (BitVec.ofNat 32 n)
    | 3 => .sc dbl rl rd rs1 rs2
    | 1 => .amo .swap dbl rl rd rs1 rs2
    | 0 => .amo .add dbl rl rd rs1 rs2
    | 4 => .amo .xor dbl rl rd rs1 rs2
    | 0x0C => .amo .and dbl rl rd rs1 rs2
    | 8 => .amo .or dbl rl rd rs1 rs2
    | 0x10 => .amo .min dbl rl rd rs1 rs2
    | 0x14 => .amo .max dbl rl rd rs1 rs2
    | 0x18 => .amo .minu dbl rl rd rs1 rs2
    | 0x1C => .amo .maxu dbl rl rd rs1 rs2
    | _ => .illegal (BitVec.ofNat 32 n)

/-- Opcode SYSTEM. -/
def rvSystem (n : Nat) : Rv :=
  match bits n 12 3 with
  | 0 => if n = 0x73 then .ecall else if n = 0x100073 then .ebreak else if n = 0x30200073 then .mret
    else if n = 0x10500073 then .wfi else .illegal (BitVec.ofNat 32 n)
  | 4 => .illegal (BitVec.ofNat 32 n)
  | f3 => .csr (BitVec.ofNat 2 f3) (4 ≤ f3) (fld n 7 5) (fld n 15 5) (fld n 20 12)

/-- The conditions of the branches by funct3. -/
def rvCond : Nat → Option RvCond
  | 0 => some .eq | 1 => some .ne | 4 => some .lt | 5 => some .ge | 6 => some .ltu | 7 => some .geu
  | _ => none

/-- A 32-bit standard word. -/
def decodeRv (n : Nat) : Rv :=
  let rd : BitVec 5 := fld n 7 5
  let rs1 : BitVec 5 := fld n 15 5
  let rs2 : BitVec 5 := fld n 20 5
  let bad : Rv := .illegal (BitVec.ofNat 32 n)
  match bits n 0 7 with
  | 0x37 => .lui rd (sxImm 32 (bits n 12 20 * 4096))
  | 0x17 => .auipc rd (sxImm 32 (bits n 12 20 * 4096))
  | 0x6F => .jal rd (sxImm 21 (bits n 31 1 * 1048576 + bits n 12 8 * 4096 + bits n 20 1 * 2048 + bits n 21 10 * 2))
  | 0x67 => if bits n 12 3 = 0 then .jalr rd rs1 (sxImm 12 (bits n 20 12)) else bad
  | 0x63 => match rvCond (bits n 12 3) with
    | some c => .branch c rs1 rs2
        (sxImm 13 (bits n 31 1 * 4096 + bits n 7 1 * 2048 + bits n 25 6 * 32 + bits n 8 4 * 2))
    | none => bad
  | 0x03 => if bits n 12 3 = 7 then bad
    else .load (fld n 12 2) (bits n 14 1 = 0) rd rs1 (sxImm 12 (bits n 20 12))
  | 0x23 => if 4 ≤ bits n 12 3 then bad
    else .store (fld n 12 2) rs1 rs2 (sxImm 12 (bits n 25 7 * 32 + bits n 7 5))
  | 0x13 => rvOpImm n
  | 0x1B => rvOpImmW n
  | 0x33 => match rvOp (bits n 25 7) (bits n 12 3) with
    | some op => .op op rd rs1 rs2
    | none => bad
  | 0x3B => rvOp32 n
  | 0x2F => rvAmo n
  | 0x0F => match bits n 12 3 with
    | 0 => .fence (fld n 24 4) (fld n 20 4)
    | 1 => .fenceI
    | _ => bad
  | 0x73 => rvSystem n
  | _ => bad

/-- A 16-bit standard word, expanded to the word it stands for (extension C). -/
def decodeRvC (n : Nat) : Rv :=
  let bad : Rv := .illegal (BitVec.ofNat 32 n)
  let rd : BitVec 5 := fld n 7 5
  let rs2 : BitVec 5 := fld n 2 5
  let rdp : BitVec 5 := BitVec.ofNat 5 (8 + bits n 2 3)
  let rsp : BitVec 5 := BitVec.ofNat 5 (8 + bits n 7 3)
  let imm6 := sxImm 6 (bits n 12 1 * 32 + bits n 2 5)
  let sh : BitVec 64 := BitVec.ofNat 64 (bits n 12 1 * 32 + bits n 2 5)
  let lw := BitVec.ofNat 64 (bits n 10 3 * 8 + bits n 6 1 * 4 + bits n 5 1 * 64)
  let ld := BitVec.ofNat 64 (bits n 10 3 * 8 + bits n 5 2 * 64)
  let cb := sxImm 9 (bits n 12 1 * 256 + bits n 10 2 * 8 + bits n 5 2 * 64 + bits n 3 2 * 2 + bits n 2 1 * 32)
  let cj := sxImm 12 (bits n 12 1 * 2048 + bits n 11 1 * 16 + bits n 9 2 * 256 + bits n 8 1 * 1024
    + bits n 7 1 * 64 + bits n 6 1 * 128 + bits n 3 3 * 2 + bits n 2 1 * 32)
  match bits n 0 2, bits n 13 3 with
  | 0, 0 =>
    let imm := bits n 11 2 * 16 + bits n 7 4 * 64 + bits n 6 1 * 4 + bits n 5 1 * 8
    if imm = 0 then bad else .opImm .add rdp 2 (BitVec.ofNat 64 imm)
  | 0, 2 => .load 2 true rdp rsp lw
  | 0, 3 => .load 3 true rdp rsp ld
  | 0, 6 => .store 2 rsp rdp lw
  | 0, 7 => .store 3 rsp rdp ld
  | 1, 0 => .opImm .add rd rd imm6
  | 1, 1 => if rd = 0 then bad else .opImmW .addw rd rd imm6
  | 1, 2 => .opImm .add rd 0 imm6
  | 1, 3 =>
    if rd = 2 then
      let imm := bits n 12 1 * 512 + bits n 6 1 * 16 + bits n 5 1 * 64 + bits n 3 2 * 128 + bits n 2 1 * 32
      if imm = 0 then bad else .opImm .add 2 2 (sxImm 10 imm)
    else
      let imm := bits n 12 1 * 131072 + bits n 2 5 * 4096
      if imm = 0 then bad else .lui rd (sxImm 18 imm)
  | 1, 4 => match bits n 10 2 with
    | 0 => .opImm .srl rsp rsp sh
    | 1 => .opImm .sra rsp rsp sh
    | 2 => .opImm .and rsp rsp imm6
    | _ => match bits n 12 1, bits n 5 2 with
      | 0, 0 => .op .sub rsp rsp rdp
      | 0, 1 => .op .xor rsp rsp rdp
      | 0, 2 => .op .or rsp rsp rdp
      | 0, 3 => .op .and rsp rsp rdp
      | 1, 0 => .opW .subw rsp rsp rdp
      | 1, 1 => .opW .addw rsp rsp rdp
      | _, _ => bad
  | 1, 5 => .jal 0 cj
  | 1, 6 => .branch .eq rsp 0 cb
  | 1, 7 => .branch .ne rsp 0 cb
  | 2, 0 => .opImm .sll rd rd sh
  | 2, 2 => if rd = 0 then bad
    else .load 2 true rd 2 (BitVec.ofNat 64 (bits n 12 1 * 32 + bits n 4 3 * 4 + bits n 2 2 * 64))
  | 2, 3 => if rd = 0 then bad
    else .load 3 true rd 2 (BitVec.ofNat 64 (bits n 12 1 * 32 + bits n 5 2 * 8 + bits n 2 3 * 64))
  | 2, 4 =>
    if bits n 12 1 = 0 then
      if rs2 = 0 then (if rd = 0 then bad else .jalr 0 rd 0) else .op .add rd 0 rs2
    else if rs2 = 0 then (if rd = 0 then .ebreak else .jalr 1 rd 0)
    else .op .add rd rd rs2
  | 2, 6 => .store 2 2 rs2 (BitVec.ofNat 64 (bits n 9 4 * 4 + bits n 7 2 * 64))
  | 2, 7 => .store 3 2 rs2 (BitVec.ofNat 64 (bits n 10 3 * 8 + bits n 7 3 * 64))
  | _, _ => bad

/-- A word at a composer's program counter: the emit extension in custom-0 and custom-1 (R208), a 16-bit word where
bits [1:0] are not 11, a standard word otherwise. -/
def decodeComposer (w : BitVec 32) : Instr :=
  let n := w.toNat
  if bits n 0 2 ≠ 3 then .rv64imacInstruction (decodeRvC (n % 65536)) true
  else if bits n 0 7 = 0x0B ∨ bits n 0 7 = 0x2B then
    match decodeEmit n with
    | .ok i => i
    | .error _ => .rv64imacInstruction (.illegal w) false
  else .rv64imacInstruction (decodeRv n) false

/-- The first slot, in slot order, whose map holds the word. The opcode table gives a slot word no slot, and the same
bits stand for different words in different slots (log 8). -/
def tableSlot (w : SlotWord) : Option Slot :=
  Slot.all.find? (fun s => match decodeWord s w with | .ok _ => true | .error _ => false)

/-- The instruction the decoder reads from a word numbered as the opcode table numbers it: a slot word in the first
slot that accepts it, otherwise a word of the emit extension. -/
def decodeTableWord (nbits w : Nat) : Option Instr :=
  let v : SlotWord := BitVec.ofNat 32 (w % 2 ^ nbits)
  match tableSlot v with
  | some s => (decodeWord s v).toOption
  | none => (decodeEmit v.toNat).toOption

/-- The word of an instruction of the opcode table, written from the patterns of R63 and R208; `none` for a row
without an encoding and for the standard RISC-V words, which the spec does not give. -/
def encode : Instr → Option SlotWord
  | .scAdd g d a b => some (BitVec.ofNat 32 (g.toNat * 268435456 + d.toNat * 65536 + a.toNat * 1024 + b.toNat * 16 + 4194304))
  | .scSub g d a b => some (BitVec.ofNat 32 (g.toNat * 268435456 + d.toNat * 65536 + a.toNat * 1024 + b.toNat * 16 + 4194305))
  | .scAnd g d a b => some (BitVec.ofNat 32 (g.toNat * 268435456 + d.toNat * 65536 + a.toNat * 1024 + b.toNat * 16 + 4194306))
  | .scOr g d a b => some (BitVec.ofNat 32 (g.toNat * 268435456 + d.toNat * 65536 + a.toNat * 1024 + b.toNat * 16 + 4194307))
  | .scXor g d a b => some (BitVec.ofNat 32 (g.toNat * 268435456 + d.toNat * 65536 + a.toNat * 1024 + b.toNat * 16 + 4194308))
  | .scAndn g d a b => some (BitVec.ofNat 32 (g.toNat * 268435456 + d.toNat * 65536 + a.toNat * 1024 + b.toNat * 16 + 4194309))
  | .scShl g d a b => some (BitVec.ofNat 32 (g.toNat * 268435456 + d.toNat * 65536 + a.toNat * 1024 + b.toNat * 16 + 4194310))
  | .scShr g d a b => some (BitVec.ofNat 32 (g.toNat * 268435456 + d.toNat * 65536 + a.toNat * 1024 + b.toNat * 16 + 4194311))
  | .scSra g d a b => some (BitVec.ofNat 32 (g.toNat * 268435456 + d.toNat * 65536 + a.toNat * 1024 + b.toNat * 16 + 4194312))
  | .scMin g d a b => some (BitVec.ofNat 32 (g.toNat * 268435456 + d.toNat * 65536 + a.toNat * 1024 + b.toNat * 16 + 4194313))
  | .scMax g d a b => some (BitVec.ofNat 32 (g.toNat * 268435456 + d.toNat * 65536 + a.toNat * 1024 + b.toNat * 16 + 4194314))
  | .scMinu g d a b => some (BitVec.ofNat 32 (g.toNat * 268435456 + d.toNat * 65536 + a.toNat * 1024 + b.toNat * 16 + 4194315))
  | .scMaxu g d a b => some (BitVec.ofNat 32 (g.toNat * 268435456 + d.toNat * 65536 + a.toNat * 1024 + b.toNat * 16 + 4194316))
  | .scBfx g d a b => some (BitVec.ofNat 32 (g.toNat * 268435456 + d.toNat * 65536 + a.toNat * 1024 + b.toNat * 16 + 4194317))
  | .scBfi g d a b => some (BitVec.ofNat 32 (g.toNat * 268435456 + d.toNat * 65536 + a.toNat * 1024 + b.toNat * 16 + 4194318))
  | .scClz g d a => some (BitVec.ofNat 32 (g.toNat * 268435456 + d.toNat * 65536 + a.toNat * 1024 + 8388608))
  | .scCtz g d a => some (BitVec.ofNat 32 (g.toNat * 268435456 + d.toNat * 65536 + a.toNat * 1024 + 8388609))
  | .scPopc g d a => some (BitVec.ofNat 32 (g.toNat * 268435456 + d.toNat * 65536 + a.toNat * 1024 + 8388610))
  | .scSextB g d a => some (BitVec.ofNat 32 (g.toNat * 268435456 + d.toNat * 65536 + a.toNat * 1024 + 8388611))
  | .scSextH g d a => some (BitVec.ofNat 32 (g.toNat * 268435456 + d.toNat * 65536 + a.toNat * 1024 + 8388612))
  | .scSextW g d a => some (BitVec.ofNat 32 (g.toNat * 268435456 + d.toNat * 65536 + a.toNat * 1024 + 8388613))
  | .scZextB g d a => some (BitVec.ofNat 32 (g.toNat * 268435456 + d.toNat * 65536 + a.toNat * 1024 + 8388614))
  | .scZextH g d a => some (BitVec.ofNat 32 (g.toNat * 268435456 + d.toNat * 65536 + a.toNat * 1024 + 8388615))
  | .scZextW g d a => some (BitVec.ofNat 32 (g.toNat * 268435456 + d.toNat * 65536 + a.toNat * 1024 + 8388616))
  | .scMul g d a b => some (BitVec.ofNat 32 (g.toNat * 268435456 + d.toNat * 65536 + a.toNat * 1024 + b.toNat * 16 + 12582912))
  | .scMulh g d a b => some (BitVec.ofNat 32 (g.toNat * 268435456 + d.toNat * 65536 + a.toNat * 1024 + b.toNat * 16 + 12582913))
  | .scMulhu g d a b => some (BitVec.ofNat 32 (g.toNat * 268435456 + d.toNat * 65536 + a.toNat * 1024 + b.toNat * 16 + 12582914))
  | .scDiv g d a b => some (BitVec.ofNat 32 (g.toNat * 268435456 + d.toNat * 65536 + a.toNat * 1024 + b.toNat * 16 + 12582915))
  | .scDivu g d a b => some (BitVec.ofNat 32 (g.toNat * 268435456 + d.toNat * 65536 + a.toNat * 1024 + b.toNat * 16 + 12582916))
  | .scRem g d a b => some (BitVec.ofNat 32 (g.toNat * 268435456 + d.toNat * 65536 + a.toNat * 1024 + b.toNat * 16 + 12582917))
  | .scRemu g d a b => some (BitVec.ofNat 32 (g.toNat * 268435456 + d.toNat * 65536 + a.toNat * 1024 + b.toNat * 16 + 12582918))
  | .scSel g d a b p => some (BitVec.ofNat 32 (g.toNat * 268435456 + d.toNat * 65536 + a.toNat * 1024 + b.toNat * 16 + p.toNat + 16777216))
  | .scCmpEq g t f a b => some (BitVec.ofNat 32 (g.toNat * 268435456 + t.toNat * 262144 + f.toNat * 16384 + a.toNat * 256 + b.toNat * 4 + 20971520))
  | .scCmpNe g t f a b => some (BitVec.ofNat 32 (g.toNat * 268435456 + t.toNat * 262144 + f.toNat * 16384 + a.toNat * 256 + b.toNat * 4 + 20971521))
  | .scCmpLt g t f a b => some (BitVec.ofNat 32 (g.toNat * 268435456 + t.toNat * 262144 + f.toNat * 16384 + a.toNat * 256 + b.toNat * 4 + 20971522))
  | .scCmpLtu g t f a b => some (BitVec.ofNat 32 (g.toNat * 268435456 + t.toNat * 262144 + f.toNat * 16384 + a.toNat * 256 + b.toNat * 4 + 20971523))
  | .scCmpGe g t f a b => some (BitVec.ofNat 32 (g.toNat * 268435456 + t.toNat * 262144 + f.toNat * 16384 + a.toNat * 256 + b.toNat * 4 + 25165824))
  | .scCmpGeu g t f a b => some (BitVec.ofNat 32 (g.toNat * 268435456 + t.toNat * 262144 + f.toNat * 16384 + a.toNat * 256 + b.toNat * 4 + 25165825))
  | .scCmpiEq g t f a i => some (BitVec.ofNat 32 (g.toNat * 268435456 + t.toNat * 262144 + f.toNat * 16384 + a.toNat * 256 + i.toNat + 29360128))
  | .scCmpiNe g t f a i => some (BitVec.ofNat 32 (g.toNat * 268435456 + t.toNat * 262144 + f.toNat * 16384 + a.toNat * 256 + i.toNat + 33554432))
  | .scCmpiLt g t f a i => some (BitVec.ofNat 32 (g.toNat * 268435456 + t.toNat * 262144 + f.toNat * 16384 + a.toNat * 256 + i.toNat + 37748736))
  | .scCmpiLtu g t f a i => some (BitVec.ofNat 32 (g.toNat * 268435456 + t.toNat * 262144 + f.toNat * 16384 + a.toNat * 256 + i.toNat + 41943040))
  | .scCmpiGe g t f a i => some (BitVec.ofNat 32 (g.toNat * 268435456 + t.toNat * 262144 + f.toNat * 16384 + a.toNat * 256 + i.toNat + 46137344))
  | .scCmpiGeu g t f a i => some (BitVec.ofNat 32 (g.toNat * 268435456 + t.toNat * 262144 + f.toNat * 16384 + a.toNat * 256 + i.toNat + 50331648))
  | .scAddi g d a i => some (BitVec.ofNat 32 (g.toNat * 268435456 + d.toNat * 65536 + a.toNat * 1024 + i.toNat + 67108864))
  | .scAndi g d a i => some (BitVec.ofNat 32 (g.toNat * 268435456 + d.toNat * 65536 + a.toNat * 1024 + i.toNat + 71303168))
  | .scOri g d a i => some (BitVec.ofNat 32 (g.toNat * 268435456 + d.toNat * 65536 + a.toNat * 1024 + i.toNat + 75497472))
  | .scXori g d a i => some (BitVec.ofNat 32 (g.toNat * 268435456 + d.toNat * 65536 + a.toNat * 1024 + i.toNat + 79691776))
  | .scShli g d a i => some (BitVec.ofNat 32 (g.toNat * 268435456 + d.toNat * 65536 + a.toNat * 1024 + i.toNat + 83886080))
  | .scShri g d a i => some (BitVec.ofNat 32 (g.toNat * 268435456 + d.toNat * 65536 + a.toNat * 1024 + i.toNat + 88080384))
  | .scSrai g d a i => some (BitVec.ofNat 32 (g.toNat * 268435456 + d.toNat * 65536 + a.toNat * 1024 + i.toNat + 92274688))
  | .scMini g d a i => some (BitVec.ofNat 32 (g.toNat * 268435456 + d.toNat * 65536 + a.toNat * 1024 + i.toNat + 96468992))
  | .scMaxi g d a i => some (BitVec.ofNat 32 (g.toNat * 268435456 + d.toNat * 65536 + a.toNat * 1024 + i.toNat + 100663296))
  | .scMinui g d a i => some (BitVec.ofNat 32 (g.toNat * 268435456 + d.toNat * 65536 + a.toNat * 1024 + i.toNat + 104857600))
  | .scMaxui g d a i => some (BitVec.ofNat 32 (g.toNat * 268435456 + d.toNat * 65536 + a.toNat * 1024 + i.toNat + 109051904))
  | .scImm g p d i => some (BitVec.ofNat 32 (g.toNat * 268435456 + p.toNat * 4194304 + d.toNat * 65536 + i.toNat + 117440512))
  | .scLd g t b y z x => some (BitVec.ofNat 32 (g.toNat * 268435456 + t.toNat * 65536 + b.toNat * 1024 + y.toNat * 256 + z.toNat * 64 + x.toNat + 134217728))
  | .scLdu g t b y z x => some (BitVec.ofNat 32 (g.toNat * 268435456 + t.toNat * 65536 + b.toNat * 1024 + y.toNat * 256 + z.toNat * 64 + x.toNat + 138412032))
  | .scSt g t b y z x => some (BitVec.ofNat 32 (g.toNat * 268435456 + t.toNat * 65536 + b.toNat * 1024 + y.toNat * 256 + z.toNat * 64 + x.toNat + 142606336))
  | .scLdc g t b z x => some (BitVec.ofNat 32 (g.toNat * 268435456 + t.toNat * 65536 + b.toNat * 1024 + z.toNat * 64 + x.toNat + 146800640))
  | .scLdcFe g t b z x => some (BitVec.ofNat 32 (g.toNat * 268435456 + t.toNat * 65536 + b.toNat * 1024 + z.toNat * 64 + x.toNat + 146800896))
  | .scLdcTake g t b z x => some (BitVec.ofNat 32 (g.toNat * 268435456 + t.toNat * 65536 + b.toNat * 1024 + z.toNat * 64 + x.toNat + 146801152))
  | .scLdcu g t b z x => some (BitVec.ofNat 32 (g.toNat * 268435456 + t.toNat * 65536 + b.toNat * 1024 + z.toNat * 64 + x.toNat + 150994944))
  | .scLdcuFe g t b z x => some (BitVec.ofNat 32 (g.toNat * 268435456 + t.toNat * 65536 + b.toNat * 1024 + z.toNat * 64 + x.toNat + 150995200))
  | .scLdcuTake g t b z x => some (BitVec.ofNat 32 (g.toNat * 268435456 + t.toNat * 65536 + b.toNat * 1024 + z.toNat * 64 + x.toNat + 150995456))
  | .scStc g t b z x => some (BitVec.ofNat 32 (g.toNat * 268435456 + t.toNat * 65536 + b.toNat * 1024 + z.toNat * 64 + x.toNat + 155189248))
  | .scStcSet g t b z x => some (BitVec.ofNat 32 (g.toNat * 268435456 + t.toNat * 65536 + b.toNat * 1024 + z.toNat * 64 + x.toNat + 155189504))
  | .scAmoAdd g d b s y z => some (BitVec.ofNat 32 (g.toNat * 268435456 + d.toNat * 65536 + b.toNat * 1024 + s.toNat * 16 + y.toNat * 4 + z.toNat + 167772162))
  | .scAmoAnd g d b s y z => some (BitVec.ofNat 32 (g.toNat * 268435456 + d.toNat * 65536 + b.toNat * 1024 + s.toNat * 16 + y.toNat * 4 + z.toNat + 171966466))
  | .scAmoOr g d b s y z => some (BitVec.ofNat 32 (g.toNat * 268435456 + d.toNat * 65536 + b.toNat * 1024 + s.toNat * 16 + y.toNat * 4 + z.toNat + 176160770))
  | .scAmoXor g d b s y z => some (BitVec.ofNat 32 (g.toNat * 268435456 + d.toNat * 65536 + b.toNat * 1024 + s.toNat * 16 + y.toNat * 4 + z.toNat + 180355074))
  | .scAmoMax g d b s y z => some (BitVec.ofNat 32 (g.toNat * 268435456 + d.toNat * 65536 + b.toNat * 1024 + s.toNat * 16 + y.toNat * 4 + z.toNat + 184549378))
  | .scAmoMin g d b s y z => some (BitVec.ofNat 32 (g.toNat * 268435456 + d.toNat * 65536 + b.toNat * 1024 + s.toNat * 16 + y.toNat * 4 + z.toNat + 188743682))
  | .scAmoMaxu g d b s y z => some (BitVec.ofNat 32 (g.toNat * 268435456 + d.toNat * 65536 + b.toNat * 1024 + s.toNat * 16 + y.toNat * 4 + z.toNat + 192937986))
  | .scAmoMinu g d b s y z => some (BitVec.ofNat 32 (g.toNat * 268435456 + d.toNat * 65536 + b.toNat * 1024 + s.toNat * 16 + y.toNat * 4 + z.toNat + 197132290))
  | .scAmoSwap g d b s y z => some (BitVec.ofNat 32 (g.toNat * 268435456 + d.toNat * 65536 + b.toNat * 1024 + s.toNat * 16 + y.toNat * 4 + z.toNat + 201326594))
  | .scAmoCas g d b s y z => some (BitVec.ofNat 32 (g.toNat * 268435456 + d.toNat * 65536 + b.toNat * 1024 + s.toNat * 16 + y.toNat * 4 + z.toNat + 205520898))
  | .scMfc g d s => some (BitVec.ofNat 32 (g.toNat * 268435456 + d.toNat * 65536 + s.toNat * 16 + 234881024))
  | .scMtc g d s => some (BitVec.ofNat 32 (g.toNat * 268435456 + d.toNat * 65536 + s.toNat * 16 + 234881025))
  | .scShw g d s => some (BitVec.ofNat 32 (g.toNat * 268435456 + d.toNat * 65536 + s.toNat * 16 + 234881026))
  | .scCtv g d => some (BitVec.ofNat 32 (g.toNat * 268435456 + d.toNat * 65536 + 234881027))
  | .scSvc g s => some (BitVec.ofNat 32 (g.toNat * 268435456 + s.toNat * 16 + 234881028))
  | .scTrap g s => some (BitVec.ofNat 32 (g.toNat * 268435456 + s.toNat * 16 + 234881029))
  | .scBrk g s => some (BitVec.ofNat 32 (g.toNat * 268435456 + s.toNat * 16 + 234881030))
  | .scStqpop g d => some (BitVec.ofNat 32 (g.toNat * 268435456 + d.toNat * 65536 + 234881031))
  | .scEret g => some (BitVec.ofNat 32 (g.toNat * 268435456 + 234881032))
  | .scZdef g d a b => some (BitVec.ofNat 32 (g.toNat * 268435456 + d.toNat * 65536 + a.toNat * 1024 + b.toNat * 16 + 239075328))
  | .scZdefh g d a b => some (BitVec.ofNat 32 (g.toNat * 268435456 + d.toNat * 65536 + a.toNat * 1024 + b.toNat * 16 + 239075329))
  | .scHdef g d a b => some (BitVec.ofNat 32 (g.toNat * 268435456 + d.toNat * 65536 + a.toNat * 1024 + b.toNat * 16 + 239075330))
  | .scCmpx g d a b => some (BitVec.ofNat 32 (g.toNat * 268435456 + d.toNat * 65536 + a.toNat * 1024 + b.toNat * 16 + 239075331))
  | .ctBr g x => some (BitVec.ofNat 32 (g.toNat * 268435456 + x.toNat + 4194304))
  | .ctCall g x => some (BitVec.ofNat 32 (g.toNat * 268435456 + x.toNat + 8388608))
  | .ctCallr g a => some (BitVec.ofNat 32 (g.toNat * 268435456 + a.toNat * 65536 + 12582912))
  | .ctJr g a => some (BitVec.ofNat 32 (g.toNat * 268435456 + a.toNat * 65536 + 16777216))
  | .ctRet g a => some (BitVec.ofNat 32 (g.toNat * 268435456 + a.toNat * 65536 + 20971520))
  | .ctLoop g c s x => some (BitVec.ofNat 32 (g.toNat * 268435456 + c.toNat * 65536 + s.toNat * 4096 + x.toNat + 25165824))
  | .ctWait g l s c m => some (BitVec.ofNat 32 (g.toNat * 268435456 + l.toNat * 262144 + s.toNat * 16384 + c.toNat * 1024 + m.toNat * 64 + 33554432))
  | .ctBarArrive g l => some (BitVec.ofNat 32 (g.toNat * 268435456 + l.toNat * 524288 + 37748736))
  | .ctBarWait g l => some (BitVec.ofNat 32 (g.toNat * 268435456 + l.toNat * 524288 + 37814272))
  | .ctBarSync g l => some (BitVec.ofNat 32 (g.toNat * 268435456 + l.toNat * 524288 + 37879808))
  | .ctFenceRel g z => some (BitVec.ofNat 32 (g.toNat * 268435456 + z.toNat * 16384 + 41943040))
  | .ctFenceAcq g z => some (BitVec.ofNat 32 (g.toNat * 268435456 + z.toNat * 16384 + 41947136))
  | .ctFenceVis g z => some (BitVec.ofNat 32 (g.toNat * 268435456 + z.toNat * 16384 + 41951232))
  | .ctFenceFull g => some (BitVec.ofNat 32 (g.toNat * 268435456 + 46133248))
  | .ctArm g a e => some (BitVec.ofNat 32 (g.toNat * 268435456 + a.toNat * 65536 + e.toNat + 50331648))
  | .ctMwait g a => some (BitVec.ofNat 32 (g.toNat * 268435456 + a.toNat * 65536 + 54525952))
  | .ctDawn g x => some (BitVec.ofNat 32 (g.toNat * 268435456 + x.toNat + 67108864))
  | .ctDusk g => some (BitVec.ofNat 32 (g.toNat * 268435456 + 71303168))
  | .ctCheck g p => some (BitVec.ofNat 32 (g.toNat * 268435456 + p.toNat * 262144 + 75497472))
  | .ctAbort g => some (BitVec.ofNat 32 (g.toNat * 268435456 + 79691776))
  | .ctPand g d a b => some (BitVec.ofNat 32 (g.toNat * 268435456 + d.toNat * 262144 + a.toNat * 16384 + b.toNat * 1024 + 100663296))
  | .ctPor g d a b => some (BitVec.ofNat 32 (g.toNat * 268435456 + d.toNat * 262144 + a.toNat * 16384 + b.toNat * 1024 + 100663360))
  | .ctPxor g d a b => some (BitVec.ofNat 32 (g.toNat * 268435456 + d.toNat * 262144 + a.toNat * 16384 + b.toNat * 1024 + 100663424))
  | .ctPandn g d a b => some (BitVec.ofNat 32 (g.toNat * 268435456 + d.toNat * 262144 + a.toNat * 16384 + b.toNat * 1024 + 100663488))
  | .ctPnot g d a => some (BitVec.ofNat 32 (g.toNat * 268435456 + d.toNat * 262144 + a.toNat * 16384 + 100663552))
  | .ctPset g d => some (BitVec.ofNat 32 (g.toNat * 268435456 + d.toNat * 262144 + 100663616))
  | .ctPclr g d => some (BitVec.ofNat 32 (g.toNat * 268435456 + d.toNat * 262144 + 100663680))
  | .ctRoff g p => some (BitVec.ofNat 32 (g.toNat * 268435456 + p.toNat * 262144 + 117440512))
  | .ctIdle g x => some (BitVec.ofNat 32 (g.toNat * 268435456 + x.toNat + 121634816))
  | .ctEnd g => some (BitVec.ofNat 32 (g.toNat * 268435456 + 125829120))
  | .vFadd _ g d a b q => some (BitVec.ofNat 32 (g.toNat * 268435456 + d.toNat * 131072 + a.toNat * 4096 + b.toNat * 128 + q.toNat * 16 + 4194304))
  | .vFsub _ g d a b q => some (BitVec.ofNat 32 (g.toNat * 268435456 + d.toNat * 131072 + a.toNat * 4096 + b.toNat * 128 + q.toNat * 16 + 4194305))
  | .vFmul _ g d a b q => some (BitVec.ofNat 32 (g.toNat * 268435456 + d.toNat * 131072 + a.toNat * 4096 + b.toNat * 128 + q.toNat * 16 + 4194306))
  | .vFma _ g d a b q => some (BitVec.ofNat 32 (g.toNat * 268435456 + d.toNat * 131072 + a.toNat * 4096 + b.toNat * 128 + q.toNat * 16 + 4194307))
  | .vFms _ g d a b q => some (BitVec.ofNat 32 (g.toNat * 268435456 + d.toNat * 131072 + a.toNat * 4096 + b.toNat * 128 + q.toNat * 16 + 4194308))
  | .vFmin _ g d a b q => some (BitVec.ofNat 32 (g.toNat * 268435456 + d.toNat * 131072 + a.toNat * 4096 + b.toNat * 128 + q.toNat * 16 + 4194309))
  | .vFmax _ g d a b q => some (BitVec.ofNat 32 (g.toNat * 268435456 + d.toNat * 131072 + a.toNat * 4096 + b.toNat * 128 + q.toNat * 16 + 4194310))
  | .vFabs _ g d a b q => some (BitVec.ofNat 32 (g.toNat * 268435456 + d.toNat * 131072 + a.toNat * 4096 + b.toNat * 128 + q.toNat * 16 + 4194311))
  | .vFneg _ g d a b q => some (BitVec.ofNat 32 (g.toNat * 268435456 + d.toNat * 131072 + a.toNat * 4096 + b.toNat * 128 + q.toNat * 16 + 4194312))
  | .vFscale _ g d a b q => some (BitVec.ofNat 32 (g.toNat * 268435456 + d.toNat * 131072 + a.toNat * 4096 + b.toNat * 128 + q.toNat * 16 + 4194313))
  | .vFaddS _ g d a s q => some (BitVec.ofNat 32 (g.toNat * 268435456 + d.toNat * 131072 + a.toNat * 4096 + s.toNat * 64 + q.toNat * 8 + 16777216))
  | .vFsubS _ g d a s q => some (BitVec.ofNat 32 (g.toNat * 268435456 + d.toNat * 131072 + a.toNat * 4096 + s.toNat * 64 + q.toNat * 8 + 16777217))
  | .vFmulS _ g d a s q => some (BitVec.ofNat 32 (g.toNat * 268435456 + d.toNat * 131072 + a.toNat * 4096 + s.toNat * 64 + q.toNat * 8 + 16777218))
  | .vFmaS _ g d a s q => some (BitVec.ofNat 32 (g.toNat * 268435456 + d.toNat * 131072 + a.toNat * 4096 + s.toNat * 64 + q.toNat * 8 + 16777219))
  | .vFminS _ g d a s q => some (BitVec.ofNat 32 (g.toNat * 268435456 + d.toNat * 131072 + a.toNat * 4096 + s.toNat * 64 + q.toNat * 8 + 16777220))
  | .vFmaxS _ g d a s q => some (BitVec.ofNat 32 (g.toNat * 268435456 + d.toNat * 131072 + a.toNat * 4096 + s.toNat * 64 + q.toNat * 8 + 16777221))
  | .vFscaleS _ g d a s q => some (BitVec.ofNat 32 (g.toNat * 268435456 + d.toNat * 131072 + a.toNat * 4096 + s.toNat * 64 + q.toNat * 8 + 16777222))
  | .vIadd _ g d a b q => some (BitVec.ofNat 32 (g.toNat * 268435456 + d.toNat * 131072 + a.toNat * 4096 + b.toNat * 128 + q.toNat * 16 + 8388608))
  | .vIsub _ g d a b q => some (BitVec.ofNat 32 (g.toNat * 268435456 + d.toNat * 131072 + a.toNat * 4096 + b.toNat * 128 + q.toNat * 16 + 8388609))
  | .vImul _ g d a b q => some (BitVec.ofNat 32 (g.toNat * 268435456 + d.toNat * 131072 + a.toNat * 4096 + b.toNat * 128 + q.toNat * 16 + 8388610))
  | .vImulh _ g d a b q => some (BitVec.ofNat 32 (g.toNat * 268435456 + d.toNat * 131072 + a.toNat * 4096 + b.toNat * 128 + q.toNat * 16 + 8388611))
  | .vIand _ g d a b q => some (BitVec.ofNat 32 (g.toNat * 268435456 + d.toNat * 131072 + a.toNat * 4096 + b.toNat * 128 + q.toNat * 16 + 8388612))
  | .vIor _ g d a b q => some (BitVec.ofNat 32 (g.toNat * 268435456 + d.toNat * 131072 + a.toNat * 4096 + b.toNat * 128 + q.toNat * 16 + 8388613))
  | .vIxor _ g d a b q => some (BitVec.ofNat 32 (g.toNat * 268435456 + d.toNat * 131072 + a.toNat * 4096 + b.toNat * 128 + q.toNat * 16 + 8388614))
  | .vIshl _ g d a b q => some (BitVec.ofNat 32 (g.toNat * 268435456 + d.toNat * 131072 + a.toNat * 4096 + b.toNat * 128 + q.toNat * 16 + 8388615))
  | .vIshr _ g d a b q => some (BitVec.ofNat 32 (g.toNat * 268435456 + d.toNat * 131072 + a.toNat * 4096 + b.toNat * 128 + q.toNat * 16 + 8388616))
  | .vIsra _ g d a b q => some (BitVec.ofNat 32 (g.toNat * 268435456 + d.toNat * 131072 + a.toNat * 4096 + b.toNat * 128 + q.toNat * 16 + 8388617))
  | .vImin _ g d a b q => some (BitVec.ofNat 32 (g.toNat * 268435456 + d.toNat * 131072 + a.toNat * 4096 + b.toNat * 128 + q.toNat * 16 + 8388618))
  | .vImax _ g d a b q => some (BitVec.ofNat 32 (g.toNat * 268435456 + d.toNat * 131072 + a.toNat * 4096 + b.toNat * 128 + q.toNat * 16 + 8388619))
  | .vIminu _ g d a b q => some (BitVec.ofNat 32 (g.toNat * 268435456 + d.toNat * 131072 + a.toNat * 4096 + b.toNat * 128 + q.toNat * 16 + 8388620))
  | .vImaxu _ g d a b q => some (BitVec.ofNat 32 (g.toNat * 268435456 + d.toNat * 131072 + a.toNat * 4096 + b.toNat * 128 + q.toNat * 16 + 8388621))
  | .vIaddS _ g d a s q => some (BitVec.ofNat 32 (g.toNat * 268435456 + d.toNat * 131072 + a.toNat * 4096 + s.toNat * 64 + q.toNat * 8 + 20971520))
  | .vIsubS _ g d a s q => some (BitVec.ofNat 32 (g.toNat * 268435456 + d.toNat * 131072 + a.toNat * 4096 + s.toNat * 64 + q.toNat * 8 + 20971521))
  | .vImulS _ g d a s q => some (BitVec.ofNat 32 (g.toNat * 268435456 + d.toNat * 131072 + a.toNat * 4096 + s.toNat * 64 + q.toNat * 8 + 20971522))
  | .vIandS _ g d a s q => some (BitVec.ofNat 32 (g.toNat * 268435456 + d.toNat * 131072 + a.toNat * 4096 + s.toNat * 64 + q.toNat * 8 + 20971523))
  | .vIorS _ g d a s q => some (BitVec.ofNat 32 (g.toNat * 268435456 + d.toNat * 131072 + a.toNat * 4096 + s.toNat * 64 + q.toNat * 8 + 20971524))
  | .vIxorS _ g d a s q => some (BitVec.ofNat 32 (g.toNat * 268435456 + d.toNat * 131072 + a.toNat * 4096 + s.toNat * 64 + q.toNat * 8 + 20971525))
  | .vIshlS _ g d a s q => some (BitVec.ofNat 32 (g.toNat * 268435456 + d.toNat * 131072 + a.toNat * 4096 + s.toNat * 64 + q.toNat * 8 + 20971526))
  | .vIshrS _ g d a s q => some (BitVec.ofNat 32 (g.toNat * 268435456 + d.toNat * 131072 + a.toNat * 4096 + s.toNat * 64 + q.toNat * 8 + 20971527))
  | .vIsraS _ g d a s q => some (BitVec.ofNat 32 (g.toNat * 268435456 + d.toNat * 131072 + a.toNat * 4096 + s.toNat * 64 + q.toNat * 8 + 25165824))
  | .vIminS _ g d a s q => some (BitVec.ofNat 32 (g.toNat * 268435456 + d.toNat * 131072 + a.toNat * 4096 + s.toNat * 64 + q.toNat * 8 + 25165825))
  | .vImaxS _ g d a s q => some (BitVec.ofNat 32 (g.toNat * 268435456 + d.toNat * 131072 + a.toNat * 4096 + s.toNat * 64 + q.toNat * 8 + 25165826))
  | .vIaddsS _ g d a s q => some (BitVec.ofNat 32 (g.toNat * 268435456 + d.toNat * 131072 + a.toNat * 4096 + s.toNat * 64 + q.toNat * 8 + 25165827))
  | .vIsubsS _ g d a s q => some (BitVec.ofNat 32 (g.toNat * 268435456 + d.toNat * 131072 + a.toNat * 4096 + s.toNat * 64 + q.toNat * 8 + 25165828))
  | .vIadds _ g d a b q => some (BitVec.ofNat 32 (g.toNat * 268435456 + d.toNat * 131072 + a.toNat * 4096 + b.toNat * 128 + q.toNat * 16 + 12582912))
  | .vIsubs _ g d a b q => some (BitVec.ofNat 32 (g.toNat * 268435456 + d.toNat * 131072 + a.toNat * 4096 + b.toNat * 128 + q.toNat * 16 + 12582913))
  | .vIabsd _ g d a b q => some (BitVec.ofNat 32 (g.toNat * 268435456 + d.toNat * 131072 + a.toNat * 4096 + b.toNat * 128 + q.toNat * 16 + 12582914))
  | .vIavg _ g d a b q => some (BitVec.ofNat 32 (g.toNat * 268435456 + d.toNat * 131072 + a.toNat * 4096 + b.toNat * 128 + q.toNat * 16 + 12582915))
  | .vImad16 _ g d a b q => some (BitVec.ofNat 32 (g.toNat * 268435456 + d.toNat * 131072 + a.toNat * 4096 + b.toNat * 128 + q.toNat * 16 + 12582916))
  | .vFcmpEq _ g t f a b q => some (BitVec.ofNat 32 (g.toNat * 268435456 + t.toNat * 524288 + f.toNat * 65536 + a.toNat * 2048 + b.toNat * 64 + q.toNat * 8 + 33554432))
  | .vFcmpLt _ g t f a b q => some (BitVec.ofNat 32 (g.toNat * 268435456 + t.toNat * 524288 + f.toNat * 65536 + a.toNat * 2048 + b.toNat * 64 + q.toNat * 8 + 33554433))
  | .vFcmpLe _ g t f a b q => some (BitVec.ofNat 32 (g.toNat * 268435456 + t.toNat * 524288 + f.toNat * 65536 + a.toNat * 2048 + b.toNat * 64 + q.toNat * 8 + 33554434))
  | .vFcmpUn _ g t f a b q => some (BitVec.ofNat 32 (g.toNat * 268435456 + t.toNat * 524288 + f.toNat * 65536 + a.toNat * 2048 + b.toNat * 64 + q.toNat * 8 + 33554435))
  | .vIcmpEq _ g t f a b q => some (BitVec.ofNat 32 (g.toNat * 268435456 + t.toNat * 524288 + f.toNat * 65536 + a.toNat * 2048 + b.toNat * 64 + q.toNat * 8 + 37748736))
  | .vIcmpLt _ g t f a b q => some (BitVec.ofNat 32 (g.toNat * 268435456 + t.toNat * 524288 + f.toNat * 65536 + a.toNat * 2048 + b.toNat * 64 + q.toNat * 8 + 37748737))
  | .vIcmpLtu _ g t f a b q => some (BitVec.ofNat 32 (g.toNat * 268435456 + t.toNat * 524288 + f.toNat * 65536 + a.toNat * 2048 + b.toNat * 64 + q.toNat * 8 + 37748738))
  | .vFsum _ g d a q => some (BitVec.ofNat 32 (g.toNat * 268435456 + d.toNat * 131072 + a.toNat * 4096 + q.toNat * 16 + 41943040))
  | .vFmaxr _ g d a q => some (BitVec.ofNat 32 (g.toNat * 268435456 + d.toNat * 131072 + a.toNat * 4096 + q.toNat * 16 + 41943041))
  | .vImaxr _ g d a q => some (BitVec.ofNat 32 (g.toNat * 268435456 + d.toNat * 131072 + a.toNat * 4096 + q.toNat * 16 + 41943042))
  | .vIminr _ g d a q => some (BitVec.ofNat 32 (g.toNat * 268435456 + d.toNat * 131072 + a.toNat * 4096 + q.toNat * 16 + 41943043))
  | .vIsumr _ g d a q => some (BitVec.ofNat 32 (g.toNat * 268435456 + d.toNat * 131072 + a.toNat * 4096 + q.toNat * 16 + 41943044))
  | .vBcast _ g d s q => some (BitVec.ofNat 32 (g.toNat * 268435456 + d.toNat * 131072 + s.toNat * 64 + q.toNat * 8 + 29360128))
  | .vSlideUp _ g d a s q => some (BitVec.ofNat 32 (g.toNat * 268435456 + d.toNat * 131072 + a.toNat * 4096 + s.toNat * 64 + q.toNat * 8 + 29360129))
  | .vSlideDn _ g d a s q => some (BitVec.ofNat 32 (g.toNat * 268435456 + d.toNat * 131072 + a.toNat * 4096 + s.toNat * 64 + q.toNat * 8 + 29360130))
  | .vMov _ g d a q => some (BitVec.ofNat 32 (g.toNat * 268435456 + d.toNat * 131072 + a.toNat * 4096 + q.toNat * 16 + 46137344))
  | .vSel _ g d a b q => some (BitVec.ofNat 32 (g.toNat * 268435456 + d.toNat * 131072 + a.toNat * 4096 + b.toNat * 128 + q.toNat * 16 + 46137345))
  | .vPerm _ g d a b q => some (BitVec.ofNat 32 (g.toNat * 268435456 + d.toNat * 131072 + a.toNat * 4096 + b.toNat * 128 + q.toNat * 16 + 46137346))
  | .vLidx _ g d q => some (BitVec.ofNat 32 (g.toNat * 268435456 + d.toNat * 131072 + q.toNat * 16 + 46137347))
  | .vCvt _ g d a t q n => some (BitVec.ofNat 32 (g.toNat * 268435456 + d.toNat * 131072 + a.toNat * 4096 + t.toNat * 128 + q.toNat * 16 + n.toNat * 4 + 50331648))
  | .vRetag _ g d a t q => some (BitVec.ofNat 32 (g.toNat * 268435456 + d.toNat * 131072 + a.toNat * 4096 + t.toNat * 128 + q.toNat * 16 + 50331649))
  | .vLdL _ g t b q u x => some (BitVec.ofNat 32 (g.toNat * 268435456 + t.toNat * 131072 + b.toNat * 2048 + q.toNat * 256 + u.toNat * 64 + x.toNat + 134217728))
  | .vStL _ g t b q x => some (BitVec.ofNat 32 (g.toNat * 268435456 + t.toNat * 131072 + b.toNat * 2048 + q.toNat * 256 + x.toNat + 138412032))
  | .vLdC _ g t b q u x => some (BitVec.ofNat 32 (g.toNat * 268435456 + t.toNat * 131072 + b.toNat * 2048 + q.toNat * 256 + u.toNat * 64 + x.toNat + 142606336))
  | .vLdCFe _ g t b q u x => some (BitVec.ofNat 32 (g.toNat * 268435456 + t.toNat * 131072 + b.toNat * 2048 + q.toNat * 256 + u.toNat * 64 + x.toNat + 146800640))
  | .vLdCTake _ g t b q u x => some (BitVec.ofNat 32 (g.toNat * 268435456 + t.toNat * 131072 + b.toNat * 2048 + q.toNat * 256 + u.toNat * 64 + x.toNat + 150994944))
  | .vStC _ g t b q x => some (BitVec.ofNat 32 (g.toNat * 268435456 + t.toNat * 131072 + b.toNat * 2048 + q.toNat * 256 + x.toNat + 155189248))
  | .vStCSet _ g t b q x => some (BitVec.ofNat 32 (g.toNat * 268435456 + t.toNat * 131072 + b.toNat * 2048 + q.toNat * 256 + x.toNat + 159383552))
  | .vLdG g y t b q u x => some (BitVec.ofNat 32 (g.toNat * 268435456 + y.toNat * 4194304 + t.toNat * 131072 + b.toNat * 2048 + q.toNat * 256 + u.toNat * 64 + x.toNat + 167772160))
  | .vStG g y t b q x => some (BitVec.ofNat 32 (g.toNat * 268435456 + y.toNat * 4194304 + t.toNat * 131072 + b.toNat * 2048 + q.toNat * 256 + x.toNat + 184549376))
  | .vGather g y t i b q z => some (BitVec.ofNat 32 (g.toNat * 268435456 + y.toNat * 4194304 + t.toNat * 131072 + i.toNat * 4096 + b.toNat * 64 + q.toNat * 8 + z.toNat + 201326592))
  | .vScatter g y t i b q z => some (BitVec.ofNat 32 (g.toNat * 268435456 + y.toNat * 4194304 + t.toNat * 131072 + i.toNat * 4096 + b.toNat * 64 + q.toNat * 8 + z.toNat * 2 + 218103808))
  | .mxMma g m a w b k c => some (BitVec.ofNat 32 (g.toNat * 268435456 + m.toNat * 1048576 + a.toNat * 262144 + w.toNat * 131072 + b.toNat * 8192 + k.toNat * 128 + c.toNat * 16 + 4194304))
  | .mxMmaz g m a w b k c => some (BitVec.ofNat 32 (g.toNat * 268435456 + m.toNat * 1048576 + a.toNat * 262144 + w.toNat * 131072 + b.toNat * 8192 + k.toNat * 128 + c.toNat * 16 + 4194305))
  | .mxHrot16 g m a w k => some (BitVec.ofNat 32 (g.toNat * 268435456 + m.toNat * 1048576 + a.toNat * 262144 + w.toNat * 131072 + k.toNat * 128 + 4194306))
  | .mxHrot64 g m a w k => some (BitVec.ofNat 32 (g.toNat * 268435456 + m.toNat * 1048576 + a.toNat * 262144 + w.toNat * 131072 + k.toNat * 128 + 4194307))
  | .mxDrain g m d w t n s => some (BitVec.ofNat 32 (g.toNat * 268435456 + m.toNat * 1048576 + d.toNat * 262144 + w.toNat * 131072 + t.toNat * 4096 + n.toNat * 1024 + s.toNat * 16 + 8388608))
  | .mxDrainH16 g m d w t n s => some (BitVec.ofNat 32 (g.toNat * 268435456 + m.toNat * 1048576 + d.toNat * 262144 + w.toNat * 131072 + t.toNat * 4096 + n.toNat * 1024 + s.toNat * 16 + 8388609))
  | .mxDrainH64 g m d w t n s => some (BitVec.ofNat 32 (g.toNat * 268435456 + m.toNat * 1048576 + d.toNat * 262144 + w.toNat * 131072 + t.toNat * 4096 + n.toNat * 1024 + s.toNat * 16 + 8388610))
  | .mxCprog g d w s => some (BitVec.ofNat 32 (g.toNat * 268435456 + d.toNat * 262144 + w.toNat * 131072 + s.toNat * 16 + 8388611))
  | .mxMclr g m => some (BitVec.ofNat 32 (g.toNat * 268435456 + m.toNat * 1048576 + 8388612))
  | .mxMtag g m t => some (BitVec.ofNat 32 (g.toNat * 268435456 + m.toNat * 1048576 + t.toNat * 4096 + 8388613))
  | .mxMstat g m s => some (BitVec.ofNat 32 (g.toNat * 268435456 + m.toNat * 1048576 + s.toNat * 16 + 8388614))
  | .xCp _ g s d w e h y => some (BitVec.ofNat 32 (g.toNat * 268435456 + s.toNat * 1048576 + d.toNat * 262144 + w.toNat * 131072 + e.toNat * 4096 + h.toNat * 64 + y.toNat * 32 + 4194304))
  | .xCpBs _ g s d w e h y => some (BitVec.ofNat 32 (g.toNat * 268435456 + s.toNat * 1048576 + d.toNat * 262144 + w.toNat * 131072 + e.toNat * 4096 + h.toNat * 64 + y.toNat * 32 + 4194305))
  | .xCpSh _ g s d w e h => some (BitVec.ofNat 32 (g.toNat * 268435456 + s.toNat * 1048576 + d.toNat * 262144 + w.toNat * 131072 + e.toNat * 4096 + h.toNat * 64 + 4194306))
  | .xCpBcast _ g s d w e h y => some (BitVec.ofNat 32 (g.toNat * 268435456 + s.toNat * 1048576 + d.toNat * 262144 + w.toNat * 131072 + e.toNat * 4096 + h.toNat * 64 + y.toNat * 32 + 4194307))
  | .xCpDz _ g s d w e h y => some (BitVec.ofNat 32 (g.toNat * 268435456 + s.toNat * 1048576 + d.toNat * 262144 + w.toNat * 131072 + e.toNat * 4096 + h.toNat * 64 + y.toNat * 32 + 4194308))
  | .xSread _ g s d w e h => some (BitVec.ofNat 32 (g.toNat * 268435456 + s.toNat * 1048576 + d.toNat * 262144 + w.toNat * 131072 + e.toNat * 4096 + h.toNat * 64 + 4194309))
  | .xPub _ g h => some (BitVec.ofNat 32 (g.toNat * 268435456 + h.toNat * 64 + 4194310))
  | .xCancel _ g h => some (BitVec.ofNat 32 (g.toNat * 268435456 + h.toNat * 64 + 4194311))
  | .pfTrn8 g s d w => some (BitVec.ofNat 32 (g.toNat * 268435456 + s.toNat * 1048576 + d.toNat * 262144 + w.toNat * 131072 + 4194304))
  | .pfTrn16 g s d w => some (BitVec.ofNat 32 (g.toNat * 268435456 + s.toNat * 1048576 + d.toNat * 262144 + w.toNat * 131072 + 4198400))
  | .pfTrn32 g s d w => some (BitVec.ofNat 32 (g.toNat * 268435456 + s.toNat * 1048576 + d.toNat * 262144 + w.toNat * 131072 + 4202496))
  | .pfFill g d w v => some (BitVec.ofNat 32 (g.toNat * 268435456 + d.toNat * 262144 + w.toNat * 131072 + v.toNat * 64 + 4206592))
  | .pfQnt g s d w v x => some (BitVec.ofNat 32 (g.toNat * 268435456 + s.toNat * 1048576 + d.toNat * 262144 + w.toNat * 131072 + v.toNat * 64 + x.toNat + 4210688))
  | .pfDqnt g s d w v x => some (BitVec.ofNat 32 (g.toNat * 268435456 + s.toNat * 1048576 + d.toNat * 262144 + w.toNat * 131072 + v.toNat * 64 + x.toNat + 4214784))
  | .pfUpx12 g s d w => some (BitVec.ofNat 32 (g.toNat * 268435456 + s.toNat * 1048576 + d.toNat * 262144 + w.toNat * 131072 + 4218880))
  | .pfPkx12 g s d w => some (BitVec.ofNat 32 (g.toNat * 268435456 + s.toNat * 1048576 + d.toNat * 262144 + w.toNat * 131072 + 4222976))
  | .pfShuf g s d w v => some (BitVec.ofNat 32 (g.toNat * 268435456 + s.toNat * 1048576 + d.toNat * 262144 + w.toNat * 131072 + v.toNat * 64 + 4227072))
  | .eClr k => some (BitVec.ofNat 32 (k.toNat * 1048576 + 11))
  | .eSet k a => some (BitVec.ofNat 32 (k.toNat * 1048576 + a.toNat * 32768 + 4107))
  | .eTpl i a => some (BitVec.ofNat 32 (i.toNat * 1048576 + a.toNat * 32768 + 8203))
  | .ePatch b a => some (BitVec.ofNat 32 (b.toNat * 1048576 + a.toNat * 32768 + 12299))
  | .eProv a => some (BitVec.ofNat 32 (a.toNat * 32768 + 16395))
  | .eEmitP a => some (BitVec.ofNat 32 (a.toNat * 32768 + 43))
  | .eEmitS a => some (BitVec.ofNat 32 (a.toNat * 32768 + 4139))
  | .eEmitA a => some (BitVec.ofNat 32 (a.toNat * 32768 + 8235))
  | .eEmitrP c b a => some (BitVec.ofNat 32 (c.toNat * 134217728 + b.toNat * 1048576 + a.toNat * 32768 + 12331))
  | .eEmitrS c b a => some (BitVec.ofNat 32 (c.toNat * 134217728 + b.toNat * 1048576 + a.toNat * 32768 + 16427))
  | .eQst q a d => some (BitVec.ofNat 32 (q.toNat * 33554432 + a.toNat * 32768 + d.toNat * 128 + 20523))
  | .eWait q b a => some (BitVec.ofNat 32 (q.toNat * 33554432 + b.toNat * 1048576 + a.toNat * 32768 + 24619))
  | .eBind q a => some (BitVec.ofNat 32 (q.toNat * 33554432 + a.toNat * 32768 + 28715))
  | .rv64imacInstruction _ _ => none
  | .illegalEncoding _ w _ => some w
  | .eClrAll => some (BitVec.ofNat 32 (8388619))
  | .ecallEnd => none
  | .ecallLog => none
  | .ecallYield => none
  | .ecallUnknown => none
  | .residencyUpdate => none
  | .fixedLatencyResult => none
  | .countedLoadDelivery => none
  | .uncorrectableMemoryError => none
  | .storeTicketKnown => none
  | .farStorePerformed => none
  | .remoteTickConfirmation => none
  | .vclkTick => none
  | .tickMarkedPassed => none
  | .leaseExpiry => none
  | .mwaitTimeout => none
  | .idleCountExpiry => none
  | .secondaryFairnessWithhold => none
  | .handleEntryRead => none
  | .engineCommandStart => none
  | .engineCommandComplete => none
  | .pubSwap => none
  | .sreadCompletion => none
  | .nvmeCommandTimeout => none
  | .regionRollback => none
  | .dirRead => none
  | .dirOwnedWrite => none
  | .evictionNoticeClean => none
  | .evictionNoticeData => none
  | .invalidation => none
  | .recall => none
  | .acknowledgement => none
  | .l2Eviction => none
  | .homeOwnedWrite => none
  | .homeEntryEviction => none
  | .instructionPrefetch => none
  | .shootdownAck => none
  | .keyRetirement => none
  | .trapReplay => none
  | .fetchMissPaging => none
  | .readDuplicateCollapse => none
  | .trapRecordFree => none
  | .reap => none
  | .remoteRouteTimeout => none
  | .stewardCrash => none
  | .warmReadoption => none
  | .readoptionTimeout => none
  | .composerSlotSwitch => none
  | .emitQueueRoom => none
  | .primaryBindingLapseEnd => none
  | .mailboxDelivery => none
  | .dbell => none
  | .ringConfigWrite => none
  | .sequenceRereadTimeout => none
  | .launch => none
  | .endLaunch => none
  | .registerBuffer => none
  | .unregisterBuffer => none
  | .configureOrdmode => none
  | .configureTelemetryPage => none
  | .configurePowerCap => none
  | .tearDownSpace => none
  | .launchClaim => none
  | .releaseTick => none
  | .preemption => none
  | .resume => none
  | .launchCompletion => none
  | .completionWordPassed => none
  | .faultEndLaunch => none
  | .imageLoad => none
  | .powerOn => none
  | .moduleReset => none
  | .lifecycleChange => none
  | .dieStageOnePassed => none
  | .fullServiceStart => none
  | .heartbeat => none
  | .heartbeatMiss => none
  | .resetVote => none
  | .telemetryRewrite => none
  | .powerCapLimiting => none
  | .junctionTemperature => none
  | .thermalRecovery => none
  | .nop => some 0
  | .hostMemoryAccess => none
  | .homeRead => none
  | .farLoadPerformed => none
  | .linkLevelRetry => none
  | .powerCapLimitingEnd => none

end Sys2Proof
end

