-- ==== Sys2Proof/Machine/Operands.lean ====
section
/-! DEFINITION. What each word names: its slot, its guard, the registers it reads and writes; and the operand forms: scalar
and immediate operands, element addresses, checks on local and global addresses, and holds of an access. -/

namespace Sys2Proof.Machine

/-- The slot of a slot word; a word of another agent, or an event, has none. -/
def slotOf : Instr → Option Slot
  | .scAdd _ _ _ _ => some .sc
  | .scSub _ _ _ _ => some .sc
  | .scAnd _ _ _ _ => some .sc
  | .scOr _ _ _ _ => some .sc
  | .scXor _ _ _ _ => some .sc
  | .scAndn _ _ _ _ => some .sc
  | .scShl _ _ _ _ => some .sc
  | .scShr _ _ _ _ => some .sc
  | .scSra _ _ _ _ => some .sc
  | .scMin _ _ _ _ => some .sc
  | .scMax _ _ _ _ => some .sc
  | .scMinu _ _ _ _ => some .sc
  | .scMaxu _ _ _ _ => some .sc
  | .scBfx _ _ _ _ => some .sc
  | .scBfi _ _ _ _ => some .sc
  | .scClz _ _ _ => some .sc
  | .scCtz _ _ _ => some .sc
  | .scPopc _ _ _ => some .sc
  | .scSextB _ _ _ => some .sc
  | .scSextH _ _ _ => some .sc
  | .scSextW _ _ _ => some .sc
  | .scZextB _ _ _ => some .sc
  | .scZextH _ _ _ => some .sc
  | .scZextW _ _ _ => some .sc
  | .scMul _ _ _ _ => some .sc
  | .scMulh _ _ _ _ => some .sc
  | .scMulhu _ _ _ _ => some .sc
  | .scDiv _ _ _ _ => some .sc
  | .scDivu _ _ _ _ => some .sc
  | .scRem _ _ _ _ => some .sc
  | .scRemu _ _ _ _ => some .sc
  | .scSel _ _ _ _ _ => some .sc
  | .scCmpEq _ _ _ _ _ => some .sc
  | .scCmpNe _ _ _ _ _ => some .sc
  | .scCmpLt _ _ _ _ _ => some .sc
  | .scCmpLtu _ _ _ _ _ => some .sc
  | .scCmpGe _ _ _ _ _ => some .sc
  | .scCmpGeu _ _ _ _ _ => some .sc
  | .scCmpiEq _ _ _ _ _ => some .sc
  | .scCmpiNe _ _ _ _ _ => some .sc
  | .scCmpiLt _ _ _ _ _ => some .sc
  | .scCmpiLtu _ _ _ _ _ => some .sc
  | .scCmpiGe _ _ _ _ _ => some .sc
  | .scCmpiGeu _ _ _ _ _ => some .sc
  | .scAddi _ _ _ _ => some .sc
  | .scAndi _ _ _ _ => some .sc
  | .scOri _ _ _ _ => some .sc
  | .scXori _ _ _ _ => some .sc
  | .scShli _ _ _ _ => some .sc
  | .scShri _ _ _ _ => some .sc
  | .scSrai _ _ _ _ => some .sc
  | .scMini _ _ _ _ => some .sc
  | .scMaxi _ _ _ _ => some .sc
  | .scMinui _ _ _ _ => some .sc
  | .scMaxui _ _ _ _ => some .sc
  | .scImm _ _ _ _ => some .sc
  | .scLd _ _ _ _ _ _ => some .sc
  | .scLdu _ _ _ _ _ _ => some .sc
  | .scSt _ _ _ _ _ _ => some .sc
  | .scLdc _ _ _ _ _ => some .sc
  | .scLdcFe _ _ _ _ _ => some .sc
  | .scLdcTake _ _ _ _ _ => some .sc
  | .scLdcu _ _ _ _ _ => some .sc
  | .scLdcuFe _ _ _ _ _ => some .sc
  | .scLdcuTake _ _ _ _ _ => some .sc
  | .scStc _ _ _ _ _ => some .sc
  | .scStcSet _ _ _ _ _ => some .sc
  | .scAmoAdd _ _ _ _ _ _ => some .sc
  | .scAmoAnd _ _ _ _ _ _ => some .sc
  | .scAmoOr _ _ _ _ _ _ => some .sc
  | .scAmoXor _ _ _ _ _ _ => some .sc
  | .scAmoMax _ _ _ _ _ _ => some .sc
  | .scAmoMin _ _ _ _ _ _ => some .sc
  | .scAmoMaxu _ _ _ _ _ _ => some .sc
  | .scAmoMinu _ _ _ _ _ _ => some .sc
  | .scAmoSwap _ _ _ _ _ _ => some .sc
  | .scAmoCas _ _ _ _ _ _ => some .sc
  | .scMfc _ _ _ => some .sc
  | .scMtc _ _ _ => some .sc
  | .scShw _ _ _ => some .sc
  | .scCtv _ _ => some .sc
  | .scSvc _ _ => some .sc
  | .scTrap _ _ => some .sc
  | .scBrk _ _ => some .sc
  | .scStqpop _ _ => some .sc
  | .scEret _ => some .sc
  | .scZdef _ _ _ _ => some .sc
  | .scZdefh _ _ _ _ => some .sc
  | .scHdef _ _ _ _ => some .sc
  | .scCmpx _ _ _ _ => some .sc
  | .ctBr _ _ => some .ct
  | .ctCall _ _ => some .ct
  | .ctCallr _ _ => some .ct
  | .ctJr _ _ => some .ct
  | .ctRet _ _ => some .ct
  | .ctLoop _ _ _ _ => some .ct
  | .ctWait _ _ _ _ _ => some .ct
  | .ctBarArrive _ _ => some .ct
  | .ctBarWait _ _ => some .ct
  | .ctBarSync _ _ => some .ct
  | .ctFenceRel _ _ => some .ct
  | .ctFenceAcq _ _ => some .ct
  | .ctFenceVis _ _ => some .ct
  | .ctFenceFull _ => some .ct
  | .ctArm _ _ _ => some .ct
  | .ctMwait _ _ => some .ct
  | .ctDawn _ _ => some .ct
  | .ctDusk _ => some .ct
  | .ctCheck _ _ => some .ct
  | .ctAbort _ => some .ct
  | .ctPand _ _ _ _ => some .ct
  | .ctPor _ _ _ _ => some .ct
  | .ctPxor _ _ _ _ => some .ct
  | .ctPandn _ _ _ _ => some .ct
  | .ctPnot _ _ _ => some .ct
  | .ctPset _ _ => some .ct
  | .ctPclr _ _ => some .ct
  | .ctRoff _ _ => some .ct
  | .ctIdle _ _ => some .ct
  | .ctEnd _ => some .ct
  | .vFadd sl _ _ _ _ _ => some sl.slot
  | .vFsub sl _ _ _ _ _ => some sl.slot
  | .vFmul sl _ _ _ _ _ => some sl.slot
  | .vFma sl _ _ _ _ _ => some sl.slot
  | .vFms sl _ _ _ _ _ => some sl.slot
  | .vFmin sl _ _ _ _ _ => some sl.slot
  | .vFmax sl _ _ _ _ _ => some sl.slot
  | .vFabs sl _ _ _ _ _ => some sl.slot
  | .vFneg sl _ _ _ _ _ => some sl.slot
  | .vFscale sl _ _ _ _ _ => some sl.slot
  | .vFaddS sl _ _ _ _ _ => some sl.slot
  | .vFsubS sl _ _ _ _ _ => some sl.slot
  | .vFmulS sl _ _ _ _ _ => some sl.slot
  | .vFmaS sl _ _ _ _ _ => some sl.slot
  | .vFminS sl _ _ _ _ _ => some sl.slot
  | .vFmaxS sl _ _ _ _ _ => some sl.slot
  | .vFscaleS sl _ _ _ _ _ => some sl.slot
  | .vIadd sl _ _ _ _ _ => some sl.slot
  | .vIsub sl _ _ _ _ _ => some sl.slot
  | .vImul sl _ _ _ _ _ => some sl.slot
  | .vImulh sl _ _ _ _ _ => some sl.slot
  | .vIand sl _ _ _ _ _ => some sl.slot
  | .vIor sl _ _ _ _ _ => some sl.slot
  | .vIxor sl _ _ _ _ _ => some sl.slot
  | .vIshl sl _ _ _ _ _ => some sl.slot
  | .vIshr sl _ _ _ _ _ => some sl.slot
  | .vIsra sl _ _ _ _ _ => some sl.slot
  | .vImin sl _ _ _ _ _ => some sl.slot
  | .vImax sl _ _ _ _ _ => some sl.slot
  | .vIminu sl _ _ _ _ _ => some sl.slot
  | .vImaxu sl _ _ _ _ _ => some sl.slot
  | .vIaddS sl _ _ _ _ _ => some sl.slot
  | .vIsubS sl _ _ _ _ _ => some sl.slot
  | .vImulS sl _ _ _ _ _ => some sl.slot
  | .vIandS sl _ _ _ _ _ => some sl.slot
  | .vIorS sl _ _ _ _ _ => some sl.slot
  | .vIxorS sl _ _ _ _ _ => some sl.slot
  | .vIshlS sl _ _ _ _ _ => some sl.slot
  | .vIshrS sl _ _ _ _ _ => some sl.slot
  | .vIsraS sl _ _ _ _ _ => some sl.slot
  | .vIminS sl _ _ _ _ _ => some sl.slot
  | .vImaxS sl _ _ _ _ _ => some sl.slot
  | .vIaddsS sl _ _ _ _ _ => some sl.slot
  | .vIsubsS sl _ _ _ _ _ => some sl.slot
  | .vIadds sl _ _ _ _ _ => some sl.slot
  | .vIsubs sl _ _ _ _ _ => some sl.slot
  | .vIabsd sl _ _ _ _ _ => some sl.slot
  | .vIavg sl _ _ _ _ _ => some sl.slot
  | .vImad16 sl _ _ _ _ _ => some sl.slot
  | .vFcmpEq sl _ _ _ _ _ _ => some sl.slot
  | .vFcmpLt sl _ _ _ _ _ _ => some sl.slot
  | .vFcmpLe sl _ _ _ _ _ _ => some sl.slot
  | .vFcmpUn sl _ _ _ _ _ _ => some sl.slot
  | .vIcmpEq sl _ _ _ _ _ _ => some sl.slot
  | .vIcmpLt sl _ _ _ _ _ _ => some sl.slot
  | .vIcmpLtu sl _ _ _ _ _ _ => some sl.slot
  | .vFsum sl _ _ _ _ => some sl.slot
  | .vFmaxr sl _ _ _ _ => some sl.slot
  | .vImaxr sl _ _ _ _ => some sl.slot
  | .vIminr sl _ _ _ _ => some sl.slot
  | .vIsumr sl _ _ _ _ => some sl.slot
  | .vBcast sl _ _ _ _ => some sl.slot
  | .vSlideUp sl _ _ _ _ _ => some sl.slot
  | .vSlideDn sl _ _ _ _ _ => some sl.slot
  | .vMov sl _ _ _ _ => some sl.slot
  | .vSel sl _ _ _ _ _ => some sl.slot
  | .vPerm sl _ _ _ _ _ => some sl.slot
  | .vLidx sl _ _ _ => some sl.slot
  | .vCvt sl _ _ _ _ _ _ => some sl.slot
  | .vRetag sl _ _ _ _ _ => some sl.slot
  | .vLdL sl _ _ _ _ _ _ => some sl.slot
  | .vStL sl _ _ _ _ _ => some sl.slot
  | .vLdC sl _ _ _ _ _ _ => some sl.slot
  | .vLdCFe sl _ _ _ _ _ _ => some sl.slot
  | .vLdCTake sl _ _ _ _ _ _ => some sl.slot
  | .vStC sl _ _ _ _ _ => some sl.slot
  | .vStCSet sl _ _ _ _ _ => some sl.slot
  | .vLdG _ _ _ _ _ _ _ => some .vy
  | .vStG _ _ _ _ _ _ => some .vy
  | .vGather _ _ _ _ _ _ _ => some .vy
  | .vScatter _ _ _ _ _ _ _ => some .vy
  | .mxMma _ _ _ _ _ _ _ => some .mx
  | .mxMmaz _ _ _ _ _ _ _ => some .mx
  | .mxHrot16 _ _ _ _ _ => some .mx
  | .mxHrot64 _ _ _ _ _ => some .mx
  | .mxDrain _ _ _ _ _ _ _ => some .mx
  | .mxDrainH16 _ _ _ _ _ _ _ => some .mx
  | .mxDrainH64 _ _ _ _ _ _ _ => some .mx
  | .mxCprog _ _ _ _ => some .mx
  | .mxMclr _ _ => some .mx
  | .mxMtag _ _ _ => some .mx
  | .mxMstat _ _ _ => some .mx
  | .xCp sl _ _ _ _ _ _ _ => some sl.slot
  | .xCpBs sl _ _ _ _ _ _ _ => some sl.slot
  | .xCpSh sl _ _ _ _ _ _ => some sl.slot
  | .xCpBcast sl _ _ _ _ _ _ _ => some sl.slot
  | .xCpDz sl _ _ _ _ _ _ _ => some sl.slot
  | .xSread sl _ _ _ _ _ _ => some sl.slot
  | .xPub sl _ _ => some sl.slot
  | .xCancel sl _ _ => some sl.slot
  | .pfTrn8 _ _ _ _ => some .pf
  | .pfTrn16 _ _ _ _ => some .pf
  | .pfTrn32 _ _ _ _ => some .pf
  | .pfFill _ _ _ _ => some .pf
  | .pfQnt _ _ _ _ _ _ => some .pf
  | .pfDqnt _ _ _ _ _ _ => some .pf
  | .pfUpx12 _ _ _ _ => some .pf
  | .pfPkx12 _ _ _ _ => some .pf
  | .pfShuf _ _ _ _ _ => some .pf
  | .eClr _ => none
  | .eSet _ _ => none
  | .eTpl _ _ => none
  | .ePatch _ _ => none
  | .eProv _ => none
  | .eEmitP _ => none
  | .eEmitS _ => none
  | .eEmitA _ => none
  | .eEmitrP _ _ _ => none
  | .eEmitrS _ _ _ => none
  | .eQst _ _ _ => none
  | .eWait _ _ _ => none
  | .eBind _ _ => none
  | .rv64imacInstruction _ _ => none
  | .illegalEncoding slot _ _ => some slot
  | .eClrAll => none
  | .ecallEnd => none
  | .ecallLog => none
  | .ecallYield => none
  | .ecallUnknown => none
  | .residencyUpdate => none
  | .fixedLatencyResult => none
  | .countedLoadDelivery => none
  | .uncorrectableMemoryError => none
  | .storeTicketKnown => none
  | .farStorePerformed => none
  | .remoteTickConfirmation => none
  | .vclkTick => none
  | .tickMarkedPassed => none
  | .leaseExpiry => none
  | .mwaitTimeout => none
  | .idleCountExpiry => none
  | .secondaryFairnessWithhold => none
  | .handleEntryRead => none
  | .engineCommandStart => none
  | .engineCommandComplete => none
  | .pubSwap => none
  | .sreadCompletion => none
  | .nvmeCommandTimeout => none
  | .regionRollback => none
  | .dirRead => none
  | .dirOwnedWrite => none
  | .evictionNoticeClean => none
  | .evictionNoticeData => none
  | .invalidation => none
  | .recall => none
  | .acknowledgement => none
  | .l2Eviction => none
  | .homeOwnedWrite => none
  | .homeEntryEviction => none
  | .instructionPrefetch => none
  | .shootdownAck => none
  | .keyRetirement => none
  | .trapReplay => none
  | .fetchMissPaging => none
  | .readDuplicateCollapse => none
  | .trapRecordFree => none
  | .reap => none
  | .remoteRouteTimeout => none
  | .stewardCrash => none
  | .warmReadoption => none
  | .readoptionTimeout => none
  | .composerSlotSwitch => none
  | .emitQueueRoom => none
  | .primaryBindingLapseEnd => none
  | .mailboxDelivery => none
  | .dbell => none
  | .ringConfigWrite => none
  | .sequenceRereadTimeout => none
  | .launch => none
  | .endLaunch => none
  | .registerBuffer => none
  | .unregisterBuffer => none
  | .configureOrdmode => none
  | .configureTelemetryPage => none
  | .configurePowerCap => none
  | .tearDownSpace => none
  | .launchClaim => none
  | .releaseTick => none
  | .preemption => none
  | .resume => none
  | .launchCompletion => none
  | .completionWordPassed => none
  | .faultEndLaunch => none
  | .imageLoad => none
  | .powerOn => none
  | .moduleReset => none
  | .lifecycleChange => none
  | .dieStageOnePassed => none
  | .fullServiceStart => none
  | .heartbeat => none
  | .heartbeatMiss => none
  | .resetVote => none
  | .telemetryRewrite => none
  | .powerCapLimiting => none
  | .junctionTemperature => none
  | .thermalRecovery => none
  | .nop => none
  | .hostMemoryAccess => none
  | .homeRead => none
  | .farLoadPerformed => none
  | .linkLevelRetry => none
  | .powerCapLimitingEnd => none

/-- The guard of a slot word (R62); p0 for everything else. -/
def guardOf : Instr → BitVec 4
  | .scAdd g _ _ _ => g
  | .scSub g _ _ _ => g
  | .scAnd g _ _ _ => g
  | .scOr g _ _ _ => g
  | .scXor g _ _ _ => g
  | .scAndn g _ _ _ => g
  | .scShl g _ _ _ => g
  | .scShr g _ _ _ => g
  | .scSra g _ _ _ => g
  | .scMin g _ _ _ => g
  | .scMax g _ _ _ => g
  | .scMinu g _ _ _ => g
  | .scMaxu g _ _ _ => g
  | .scBfx g _ _ _ => g
  | .scBfi g _ _ _ => g
  | .scClz g _ _ => g
  | .scCtz g _ _ => g
  | .scPopc g _ _ => g
  | .scSextB g _ _ => g
  | .scSextH g _ _ => g
  | .scSextW g _ _ => g
  | .scZextB g _ _ => g
  | .scZextH g _ _ => g
  | .scZextW g _ _ => g
  | .scMul g _ _ _ => g
  | .scMulh g _ _ _ => g
  | .scMulhu g _ _ _ => g
  | .scDiv g _ _ _ => g
  | .scDivu g _ _ _ => g
  | .scRem g _ _ _ => g
  | .scRemu g _ _ _ => g
  | .scSel g _ _ _ _ => g
  | .scCmpEq g _ _ _ _ => g
  | .scCmpNe g _ _ _ _ => g
  | .scCmpLt g _ _ _ _ => g
  | .scCmpLtu g _ _ _ _ => g
  | .scCmpGe g _ _ _ _ => g
  | .scCmpGeu g _ _ _ _ => g
  | .scCmpiEq g _ _ _ _ => g
  | .scCmpiNe g _ _ _ _ => g
  | .scCmpiLt g _ _ _ _ => g
  | .scCmpiLtu g _ _ _ _ => g
  | .scCmpiGe g _ _ _ _ => g
  | .scCmpiGeu g _ _ _ _ => g
  | .scAddi g _ _ _ => g
  | .scAndi g _ _ _ => g
  | .scOri g _ _ _ => g
  | .scXori g _ _ _ => g
  | .scShli g _ _ _ => g
  | .scShri g _ _ _ => g
  | .scSrai g _ _ _ => g
  | .scMini g _ _ _ => g
  | .scMaxi g _ _ _ => g
  | .scMinui g _ _ _ => g
  | .scMaxui g _ _ _ => g
  | .scImm g _ _ _ => g
  | .scLd g _ _ _ _ _ => g
  | .scLdu g _ _ _ _ _ => g
  | .scSt g _ _ _ _ _ => g
  | .scLdc g _ _ _ _ => g
  | .scLdcFe g _ _ _ _ => g
  | .scLdcTake g _ _ _ _ => g
  | .scLdcu g _ _ _ _ => g
  | .scLdcuFe g _ _ _ _ => g
  | .scLdcuTake g _ _ _ _ => g
  | .scStc g _ _ _ _ => g
  | .scStcSet g _ _ _ _ => g
  | .scAmoAdd g _ _ _ _ _ => g
  | .scAmoAnd g _ _ _ _ _ => g
  | .scAmoOr g _ _ _ _ _ => g
  | .scAmoXor g _ _ _ _ _ => g
  | .scAmoMax g _ _ _ _ _ => g
  | .scAmoMin g _ _ _ _ _ => g
  | .scAmoMaxu g _ _ _ _ _ => g
  | .scAmoMinu g _ _ _ _ _ => g
  | .scAmoSwap g _ _ _ _ _ => g
  | .scAmoCas g _ _ _ _ _ => g
  | .scMfc g _ _ => g
  | .scMtc g _ _ => g
  | .scShw g _ _ => g
  | .scCtv g _ => g
  | .scSvc g _ => g
  | .scTrap g _ => g
  | .scBrk g _ => g
  | .scStqpop g _ => g
  | .scEret g => g
  | .scZdef g _ _ _ => g
  | .scZdefh g _ _ _ => g
  | .scHdef g _ _ _ => g
  | .scCmpx g _ _ _ => g
  | .ctBr g _ => g
  | .ctCall g _ => g
  | .ctCallr g _ => g
  | .ctJr g _ => g
  | .ctRet g _ => g
  | .ctLoop g _ _ _ => g
  | .ctWait g _ _ _ _ => g
  | .ctBarArrive g _ => g
  | .ctBarWait g _ => g
  | .ctBarSync g _ => g
  | .ctFenceRel g _ => g
  | .ctFenceAcq g _ => g
  | .ctFenceVis g _ => g
  | .ctFenceFull g => g
  | .ctArm g _ _ => g
  | .ctMwait g _ => g
  | .ctDawn g _ => g
  | .ctDusk g => g
  | .ctCheck g _ => g
  | .ctAbort g => g
  | .ctPand g _ _ _ => g
  | .ctPor g _ _ _ => g
  | .ctPxor g _ _ _ => g
  | .ctPandn g _ _ _ => g
  | .ctPnot g _ _ => g
  | .ctPset g _ => g
  | .ctPclr g _ => g
  | .ctRoff g _ => g
  | .ctIdle g _ => g
  | .ctEnd g => g
  | .vFadd _ g _ _ _ _ => g
  | .vFsub _ g _ _ _ _ => g
  | .vFmul _ g _ _ _ _ => g
  | .vFma _ g _ _ _ _ => g
  | .vFms _ g _ _ _ _ => g
  | .vFmin _ g _ _ _ _ => g
  | .vFmax _ g _ _ _ _ => g
  | .vFabs _ g _ _ _ _ => g
  | .vFneg _ g _ _ _ _ => g
  | .vFscale _ g _ _ _ _ => g
  | .vFaddS _ g _ _ _ _ => g
  | .vFsubS _ g _ _ _ _ => g
  | .vFmulS _ g _ _ _ _ => g
  | .vFmaS _ g _ _ _ _ => g
  | .vFminS _ g _ _ _ _ => g
  | .vFmaxS _ g _ _ _ _ => g
  | .vFscaleS _ g _ _ _ _ => g
  | .vIadd _ g _ _ _ _ => g
  | .vIsub _ g _ _ _ _ => g
  | .vImul _ g _ _ _ _ => g
  | .vImulh _ g _ _ _ _ => g
  | .vIand _ g _ _ _ _ => g
  | .vIor _ g _ _ _ _ => g
  | .vIxor _ g _ _ _ _ => g
  | .vIshl _ g _ _ _ _ => g
  | .vIshr _ g _ _ _ _ => g
  | .vIsra _ g _ _ _ _ => g
  | .vImin _ g _ _ _ _ => g
  | .vImax _ g _ _ _ _ => g
  | .vIminu _ g _ _ _ _ => g
  | .vImaxu _ g _ _ _ _ => g
  | .vIaddS _ g _ _ _ _ => g
  | .vIsubS _ g _ _ _ _ => g
  | .vImulS _ g _ _ _ _ => g
  | .vIandS _ g _ _ _ _ => g
  | .vIorS _ g _ _ _ _ => g
  | .vIxorS _ g _ _ _ _ => g
  | .vIshlS _ g _ _ _ _ => g
  | .vIshrS _ g _ _ _ _ => g
  | .vIsraS _ g _ _ _ _ => g
  | .vIminS _ g _ _ _ _ => g
  | .vImaxS _ g _ _ _ _ => g
  | .vIaddsS _ g _ _ _ _ => g
  | .vIsubsS _ g _ _ _ _ => g
  | .vIadds _ g _ _ _ _ => g
  | .vIsubs _ g _ _ _ _ => g
  | .vIabsd _ g _ _ _ _ => g
  | .vIavg _ g _ _ _ _ => g
  | .vImad16 _ g _ _ _ _ => g
  | .vFcmpEq _ g _ _ _ _ _ => g
  | .vFcmpLt _ g _ _ _ _ _ => g
  | .vFcmpLe _ g _ _ _ _ _ => g
  | .vFcmpUn _ g _ _ _ _ _ => g
  | .vIcmpEq _ g _ _ _ _ _ => g
  | .vIcmpLt _ g _ _ _ _ _ => g
  | .vIcmpLtu _ g _ _ _ _ _ => g
  | .vFsum _ g _ _ _ => g
  | .vFmaxr _ g _ _ _ => g
  | .vImaxr _ g _ _ _ => g
  | .vIminr _ g _ _ _ => g
  | .vIsumr _ g _ _ _ => g
  | .vBcast _ g _ _ _ => g
  | .vSlideUp _ g _ _ _ _ => g
  | .vSlideDn _ g _ _ _ _ => g
  | .vMov _ g _ _ _ => g
  | .vSel _ g _ _ _ _ => g
  | .vPerm _ g _ _ _ _ => g
  | .vLidx _ g _ _ => g
  | .vCvt _ g _ _ _ _ _ => g
  | .vRetag _ g _ _ _ _ => g
  | .vLdL _ g _ _ _ _ _ => g
  | .vStL _ g _ _ _ _ => g
  | .vLdC _ g _ _ _ _ _ => g
  | .vLdCFe _ g _ _ _ _ _ => g
  | .vLdCTake _ g _ _ _ _ _ => g
  | .vStC _ g _ _ _ _ => g
  | .vStCSet _ g _ _ _ _ => g
  | .vLdG g _ _ _ _ _ _ => g
  | .vStG g _ _ _ _ _ => g
  | .vGather g _ _ _ _ _ _ => g
  | .vScatter g _ _ _ _ _ _ => g
  | .mxMma g _ _ _ _ _ _ => g
  | .mxMmaz g _ _ _ _ _ _ => g
  | .mxHrot16 g _ _ _ _ => g
  | .mxHrot64 g _ _ _ _ => g
  | .mxDrain g _ _ _ _ _ _ => g
  | .mxDrainH16 g _ _ _ _ _ _ => g
  | .mxDrainH64 g _ _ _ _ _ _ => g
  | .mxCprog g _ _ _ => g
  | .mxMclr g _ => g
  | .mxMtag g _ _ => g
  | .mxMstat g _ _ => g
  | .xCp _ g _ _ _ _ _ _ => g
  | .xCpBs _ g _ _ _ _ _ _ => g
  | .xCpSh _ g _ _ _ _ _ => g
  | .xCpBcast _ g _ _ _ _ _ _ => g
  | .xCpDz _ g _ _ _ _ _ _ => g
  | .xSread _ g _ _ _ _ _ => g
  | .xPub _ g _ => g
  | .xCancel _ g _ => g
  | .pfTrn8 g _ _ _ => g
  | .pfTrn16 g _ _ _ => g
  | .pfTrn32 g _ _ _ => g
  | .pfFill g _ _ _ => g
  | .pfQnt g _ _ _ _ _ => g
  | .pfDqnt g _ _ _ _ _ => g
  | .pfUpx12 g _ _ _ => g
  | .pfPkx12 g _ _ _ => g
  | .pfShuf g _ _ _ _ => g
  | .eClr _ => 0
  | .eSet _ _ => 0
  | .eTpl _ _ => 0
  | .ePatch _ _ => 0
  | .eProv _ => 0
  | .eEmitP _ => 0
  | .eEmitS _ => 0
  | .eEmitA _ => 0
  | .eEmitrP _ _ _ => 0
  | .eEmitrS _ _ _ => 0
  | .eQst _ _ _ => 0
  | .eWait _ _ _ => 0
  | .eBind _ _ => 0
  | .rv64imacInstruction _ _ => 0
  | .illegalEncoding _ _ _ => 0
  | .eClrAll => 0
  | .ecallEnd => 0
  | .ecallLog => 0
  | .ecallYield => 0
  | .ecallUnknown => 0
  | .residencyUpdate => 0
  | .fixedLatencyResult => 0
  | .countedLoadDelivery => 0
  | .uncorrectableMemoryError => 0
  | .storeTicketKnown => 0
  | .farStorePerformed => 0
  | .remoteTickConfirmation => 0
  | .vclkTick => 0
  | .tickMarkedPassed => 0
  | .leaseExpiry => 0
  | .mwaitTimeout => 0
  | .idleCountExpiry => 0
  | .secondaryFairnessWithhold => 0
  | .handleEntryRead => 0
  | .engineCommandStart => 0
  | .engineCommandComplete => 0
  | .pubSwap => 0
  | .sreadCompletion => 0
  | .nvmeCommandTimeout => 0
  | .regionRollback => 0
  | .dirRead => 0
  | .dirOwnedWrite => 0
  | .evictionNoticeClean => 0
  | .evictionNoticeData => 0
  | .invalidation => 0
  | .recall => 0
  | .acknowledgement => 0
  | .l2Eviction => 0
  | .homeOwnedWrite => 0
  | .homeEntryEviction => 0
  | .instructionPrefetch => 0
  | .shootdownAck => 0
  | .keyRetirement => 0
  | .trapReplay => 0
  | .fetchMissPaging => 0
  | .readDuplicateCollapse => 0
  | .trapRecordFree => 0
  | .reap => 0
  | .remoteRouteTimeout => 0
  | .stewardCrash => 0
  | .warmReadoption => 0
  | .readoptionTimeout => 0
  | .composerSlotSwitch => 0
  | .emitQueueRoom => 0
  | .primaryBindingLapseEnd => 0
  | .mailboxDelivery => 0
  | .dbell => 0
  | .ringConfigWrite => 0
  | .sequenceRereadTimeout => 0
  | .launch => 0
  | .endLaunch => 0
  | .registerBuffer => 0
  | .unregisterBuffer => 0
  | .configureOrdmode => 0
  | .configureTelemetryPage => 0
  | .configurePowerCap => 0
  | .tearDownSpace => 0
  | .launchClaim => 0
  | .releaseTick => 0
  | .preemption => 0
  | .resume => 0
  | .launchCompletion => 0
  | .completionWordPassed => 0
  | .faultEndLaunch => 0
  | .imageLoad => 0
  | .powerOn => 0
  | .moduleReset => 0
  | .lifecycleChange => 0
  | .dieStageOnePassed => 0
  | .fullServiceStart => 0
  | .heartbeat => 0
  | .heartbeatMiss => 0
  | .resetVote => 0
  | .telemetryRewrite => 0
  | .powerCapLimiting => 0
  | .junctionTemperature => 0
  | .thermalRecovery => 0
  | .nop => 0
  | .hostMemoryAccess => 0
  | .homeRead => 0
  | .farLoadPerformed => 0
  | .linkLevelRetry => 0
  | .powerCapLimitingEnd => 0

/-- The registers a word names, by logical number: scalar registers read and written, predicates written, vector
registers read and written, masks written. -/
structure RegUse where
  rg : List (BitVec 6) := []
  wg : List (BitVec 6) := []
  wp : List (BitVec 4) := []
  rv : List (BitVec 5) := []
  wv : List (BitVec 5) := []
  wq : List (BitVec 3) := []
  deriving DecidableEq, Repr

/-- The registers of each word, from its description. -/
def useOf : Instr → RegUse
  | .scAdd _ d a b => { rg := [a, b], wg := [d] }
  | .scSub _ d a b => { rg := [a, b], wg := [d] }
  | .scAnd _ d a b => { rg := [a, b], wg := [d] }
  | .scOr _ d a b => { rg := [a, b], wg := [d] }
  | .scXor _ d a b => { rg := [a, b], wg := [d] }
  | .scAndn _ d a b => { rg := [a, b], wg := [d] }
  | .scShl _ d a b => { rg := [a, b], wg := [d] }
  | .scShr _ d a b => { rg := [a, b], wg := [d] }
  | .scSra _ d a b => { rg := [a, b], wg := [d] }
  | .scMin _ d a b => { rg := [a, b], wg := [d] }
  | .scMax _ d a b => { rg := [a, b], wg := [d] }
  | .scMinu _ d a b => { rg := [a, b], wg := [d] }
  | .scMaxu _ d a b => { rg := [a, b], wg := [d] }
  | .scBfx _ d a b => { rg := [a, b], wg := [d] }
  | .scBfi _ d a b => { rg := [a, b, d], wg := [d] }
  | .scClz _ d a => { rg := [a], wg := [d] }
  | .scCtz _ d a => { rg := [a], wg := [d] }
  | .scPopc _ d a => { rg := [a], wg := [d] }
  | .scSextB _ d a => { rg := [a], wg := [d] }
  | .scSextH _ d a => { rg := [a], wg := [d] }
  | .scSextW _ d a => { rg := [a], wg := [d] }
  | .scZextB _ d a => { rg := [a], wg := [d] }
  | .scZextH _ d a => { rg := [a], wg := [d] }
  | .scZextW _ d a => { rg := [a], wg := [d] }
  | .scMul _ d a b => { rg := [a, b], wg := [d] }
  | .scMulh _ d a b => { rg := [a, b], wg := [d] }
  | .scMulhu _ d a b => { rg := [a, b], wg := [d] }
  | .scDiv _ d a b => { rg := [a, b], wg := [d] }
  | .scDivu _ d a b => { rg := [a, b], wg := [d] }
  | .scRem _ d a b => { rg := [a, b], wg := [d] }
  | .scRemu _ d a b => { rg := [a, b], wg := [d] }
  | .scSel _ d a b _ => { rg := [a, b], wg := [d] }
  | .scCmpEq _ t f a b => { rg := [a, b], wp := [t, f] }
  | .scCmpNe _ t f a b => { rg := [a, b], wp := [t, f] }
  | .scCmpLt _ t f a b => { rg := [a, b], wp := [t, f] }
  | .scCmpLtu _ t f a b => { rg := [a, b], wp := [t, f] }
  | .scCmpGe _ t f a b => { rg := [a, b], wp := [t, f] }
  | .scCmpGeu _ t f a b => { rg := [a, b], wp := [t, f] }
  | .scCmpiEq _ t f a _ => { rg := [a], wp := [t, f] }
  | .scCmpiNe _ t f a _ => { rg := [a], wp := [t, f] }
  | .scCmpiLt _ t f a _ => { rg := [a], wp := [t, f] }
  | .scCmpiLtu _ t f a _ => { rg := [a], wp := [t, f] }
  | .scCmpiGe _ t f a _ => { rg := [a], wp := [t, f] }
  | .scCmpiGeu _ t f a _ => { rg := [a], wp := [t, f] }
  | .scAddi _ d a _ => { rg := [a], wg := [d] }
  | .scAndi _ d a _ => { rg := [a], wg := [d] }
  | .scOri _ d a _ => { rg := [a], wg := [d] }
  | .scXori _ d a _ => { rg := [a], wg := [d] }
  | .scShli _ d a _ => { rg := [a], wg := [d] }
  | .scShri _ d a _ => { rg := [a], wg := [d] }
  | .scSrai _ d a _ => { rg := [a], wg := [d] }
  | .scMini _ d a _ => { rg := [a], wg := [d] }
  | .scMaxi _ d a _ => { rg := [a], wg := [d] }
  | .scMinui _ d a _ => { rg := [a], wg := [d] }
  | .scMaxui _ d a _ => { rg := [a], wg := [d] }
  | .scImm _ _ d _ => { rg := [d], wg := [d] }
  | .scLd _ t b _ _ _ => { rg := [b], wg := [t] }
  | .scLdu _ t b _ _ _ => { rg := [b], wg := [t] }
  | .scSt _ t b _ _ _ => { rg := [b, t] }
  | .scLdc _ t b _ _ => { rg := [b], wg := [t] }
  | .scLdcFe _ t b _ _ => { rg := [b], wg := [t] }
  | .scLdcTake _ t b _ _ => { rg := [b], wg := [t] }
  | .scLdcu _ t b _ _ => { rg := [b], wg := [t] }
  | .scLdcuFe _ t b _ _ => { rg := [b], wg := [t] }
  | .scLdcuTake _ t b _ _ => { rg := [b], wg := [t] }
  | .scStc _ t b _ _ => { rg := [b, t] }
  | .scStcSet _ t b _ _ => { rg := [b, t] }
  | .scAmoAdd _ d b s _ _ => { rg := [b, s], wg := [d] }
  | .scAmoAnd _ d b s _ _ => { rg := [b, s], wg := [d] }
  | .scAmoOr _ d b s _ _ => { rg := [b, s], wg := [d] }
  | .scAmoXor _ d b s _ _ => { rg := [b, s], wg := [d] }
  | .scAmoMax _ d b s _ _ => { rg := [b, s], wg := [d] }
  | .scAmoMin _ d b s _ _ => { rg := [b, s], wg := [d] }
  | .scAmoMaxu _ d b s _ _ => { rg := [b, s], wg := [d] }
  | .scAmoMinu _ d b s _ _ => { rg := [b, s], wg := [d] }
  | .scAmoSwap _ d b s _ _ => { rg := [b, s], wg := [d] }
  | .scAmoCas _ d b s _ _ => { rg := [b, s, d], wg := [d] }
  | .scMfc _ d _ => { wg := [d] }
  | .scMtc _ d _ => { rg := [d] }
  | .scShw _ d _ => { rg := [d] }
  | .scCtv _ d => { wg := [d] }
  | .scSvc _ _ => {}
  | .scTrap _ _ => {}
  | .scBrk _ _ => {}
  | .scStqpop _ d => { wg := [d] }
  | .scEret _ => {}
  | .scZdef _ _ a b => { rg := [a, b] }
  | .scZdefh _ _ a _ => { rg := [a] }
  | .scHdef _ d a b => { rg := [d, a, b] }
  | .scCmpx _ _ a b => { rg := [a, b] }
  | .ctBr _ _ => {}
  | .ctCall _ _ => {}
  | .ctCallr _ a => { rg := [a] }
  | .ctJr _ a => { rg := [a] }
  | .ctRet _ a => { rg := [a] }
  | .ctLoop _ c _ _ => { rg := [c] }
  | .ctWait _ _ _ _ _ => {}
  | .ctBarArrive _ _ => {}
  | .ctBarWait _ _ => {}
  | .ctBarSync _ _ => {}
  | .ctFenceRel _ _ => {}
  | .ctFenceAcq _ _ => {}
  | .ctFenceVis _ _ => {}
  | .ctFenceFull _ => {}
  | .ctArm _ a _ => { rg := [a] }
  | .ctMwait _ a => { rg := [a] }
  | .ctDawn _ _ => {}
  | .ctDusk _ => {}
  | .ctCheck _ _ => {}
  | .ctAbort _ => {}
  | .ctPand _ d _ _ => { wp := [d] }
  | .ctPor _ d _ _ => { wp := [d] }
  | .ctPxor _ d _ _ => { wp := [d] }
  | .ctPandn _ d _ _ => { wp := [d] }
  | .ctPnot _ d _ => { wp := [d] }
  | .ctPset _ d => { wp := [d] }
  | .ctPclr _ d => { wp := [d] }
  | .ctRoff _ _ => {}
  | .ctIdle _ _ => {}
  | .ctEnd _ => {}
  | .vFadd _ _ d a b _ => { rv := [a, b], wv := [d] }
  | .vFsub _ _ d a b _ => { rv := [a, b], wv := [d] }
  | .vFmul _ _ d a b _ => { rv := [a, b], wv := [d] }
  | .vFma _ _ d a b _ => { rv := [a, b, d], wv := [d] }
  | .vFms _ _ d a b _ => { rv := [a, b, d], wv := [d] }
  | .vFmin _ _ d a b _ => { rv := [a, b], wv := [d] }
  | .vFmax _ _ d a b _ => { rv := [a, b], wv := [d] }
  | .vFabs _ _ d a _ _ => { rv := [a], wv := [d] }
  | .vFneg _ _ d a _ _ => { rv := [a], wv := [d] }
  | .vFscale _ _ d a b _ => { rv := [a, b], wv := [d] }
  | .vFaddS _ _ d a s _ => { rg := [s], rv := [a], wv := [d] }
  | .vFsubS _ _ d a s _ => { rg := [s], rv := [a], wv := [d] }
  | .vFmulS _ _ d a s _ => { rg := [s], rv := [a], wv := [d] }
  | .vFmaS _ _ d a s _ => { rg := [s], rv := [a, d], wv := [d] }
  | .vFminS _ _ d a s _ => { rg := [s], rv := [a], wv := [d] }
  | .vFmaxS _ _ d a s _ => { rg := [s], rv := [a], wv := [d] }
  | .vFscaleS _ _ d a s _ => { rg := [s], rv := [a], wv := [d] }
  | .vIadd _ _ d a b _ => { rv := [a, b], wv := [d] }
  | .vIsub _ _ d a b _ => { rv := [a, b], wv := [d] }
  | .vImul _ _ d a b _ => { rv := [a, b], wv := [d] }
  | .vImulh _ _ d a b _ => { rv := [a, b], wv := [d] }
  | .vIand _ _ d a b _ => { rv := [a, b], wv := [d] }
  | .vIor _ _ d a b _ => { rv := [a, b], wv := [d] }
  | .vIxor _ _ d a b _ => { rv := [a, b], wv := [d] }
  | .vIshl _ _ d a b _ => { rv := [a, b], wv := [d] }
  | .vIshr _ _ d a b _ => { rv := [a, b], wv := [d] }
  | .vIsra _ _ d a b _ => { rv := [a, b], wv := [d] }
  | .vImin _ _ d a b _ => { rv := [a, b], wv := [d] }
  | .vImax _ _ d a b _ => { rv := [a, b], wv := [d] }
  | .vIminu _ _ d a b _ => { rv := [a, b], wv := [d] }
  | .vImaxu _ _ d a b _ => { rv := [a, b], wv := [d] }
  | .vIaddS _ _ d a s _ => { rg := [s], rv := [a], wv := [d] }
  | .vIsubS _ _ d a s _ => { rg := [s], rv := [a], wv := [d] }
  | .vImulS _ _ d a s _ => { rg := [s], rv := [a], wv := [d] }
  | .vIandS _ _ d a s _ => { rg := [s], rv := [a], wv := [d] }
  | .vIorS _ _ d a s _ => { rg := [s], rv := [a], wv := [d] }
  | .vIxorS _ _ d a s _ => { rg := [s], rv := [a], wv := [d] }
  | .vIshlS _ _ d a s _ => { rg := [s], rv := [a], wv := [d] }
  | .vIshrS _ _ d a s _ => { rg := [s], rv := [a], wv := [d] }
  | .vIsraS _ _ d a s _ => { rg := [s], rv := [a], wv := [d] }
  | .vIminS _ _ d a s _ => { rg := [s], rv := [a], wv := [d] }
  | .vImaxS _ _ d a s _ => { rg := [s], rv := [a], wv := [d] }
  | .vIaddsS _ _ d a s _ => { rg := [s], rv := [a], wv := [d] }
  | .vIsubsS _ _ d a s _ => { rg := [s], rv := [a], wv := [d] }
  | .vIadds _ _ d a b _ => { rv := [a, b], wv := [d] }
  | .vIsubs _ _ d a b _ => { rv := [a, b], wv := [d] }
  | .vIabsd _ _ d a b _ => { rv := [a, b], wv := [d] }
  | .vIavg _ _ d a b _ => { rv := [a, b], wv := [d] }
  | .vImad16 _ _ d a b _ => { rv := [a, b, d], wv := [d] }
  | .vFcmpEq _ _ t f a b _ => { rv := [a, b], wq := [t, f] }
  | .vFcmpLt _ _ t f a b _ => { rv := [a, b], wq := [t, f] }
  | .vFcmpLe _ _ t f a b _ => { rv := [a, b], wq := [t, f] }
  | .vFcmpUn _ _ t f a b _ => { rv := [a, b], wq := [t, f] }
  | .vIcmpEq _ _ t f a b _ => { rv := [a, b], wq := [t, f] }
  | .vIcmpLt _ _ t f a b _ => { rv := [a, b], wq := [t, f] }
  | .vIcmpLtu _ _ t f a b _ => { rv := [a, b], wq := [t, f] }
  | .vFsum _ _ d a _ => { rv := [a], wv := [d] }
  | .vFmaxr _ _ d a _ => { rv := [a], wv := [d] }
  | .vImaxr _ _ d a _ => { rv := [a], wv := [d] }
  | .vIminr _ _ d a _ => { rv := [a], wv := [d] }
  | .vIsumr _ _ d a _ => { rv := [a], wv := [d] }
  | .vBcast _ _ d s _ => { rg := [s], wv := [d] }
  | .vSlideUp _ _ d a s _ => { rg := [s], rv := [a], wv := [d] }
  | .vSlideDn _ _ d a s _ => { rg := [s], rv := [a], wv := [d] }
  | .vMov _ _ d a _ => { rv := [a], wv := [d] }
  | .vSel _ _ d a b _ => { rv := [a, b], wv := [d] }
  | .vPerm _ _ d a b _ => { rv := [a, b], wv := [d] }
  | .vLidx _ _ d _ => { wv := [d] }
  | .vCvt _ _ d a _ _ _ => { rv := [a], wv := [d] }
  | .vRetag _ _ d a _ _ => { rv := [a], wv := [d] }
  | .vLdL _ _ t b _ _ _ => { rg := [b], wv := [t] }
  | .vStL _ _ t b _ _ => { rg := [b], rv := [t] }
  | .vLdC _ _ t b _ _ _ => { rg := [b], wv := [t] }
  | .vLdCFe _ _ t b _ _ _ => { rg := [b], wv := [t] }
  | .vLdCTake _ _ t b _ _ _ => { rg := [b], wv := [t] }
  | .vStC _ _ t b _ _ => { rg := [b], rv := [t] }
  | .vStCSet _ _ t b _ _ => { rg := [b], rv := [t] }
  | .vLdG _ _ t b _ _ _ => { rg := [b], wv := [t] }
  | .vStG _ _ t b _ _ => { rg := [b], rv := [t] }
  | .vGather _ _ t i b _ _ => { rg := [b], rv := [i], wv := [t] }
  | .vScatter _ _ t i b _ _ => { rg := [b], rv := [t, i] }
  | .mxMma _ _ _ _ _ k _ => { rg := [k] }
  | .mxMmaz _ _ _ _ _ k _ => { rg := [k] }
  | .mxHrot16 _ _ _ _ k => { rg := [k] }
  | .mxHrot64 _ _ _ _ k => { rg := [k] }
  | .mxDrain _ _ _ _ _ _ s => { rg := [s] }
  | .mxDrainH16 _ _ _ _ _ _ s => { rg := [s] }
  | .mxDrainH64 _ _ _ _ _ _ s => { rg := [s] }
  | .mxCprog _ _ _ s => { rg := [s] }
  | .mxMclr _ _ => {}
  | .mxMtag _ _ _ => {}
  | .mxMstat _ _ s => { rg := [s] }
  | .xCp _ _ _ _ _ _ h _ => { rg := [h] }
  | .xCpBs _ _ _ _ _ _ h _ => { rg := [h] }
  | .xCpSh _ _ _ _ _ _ h => { rg := [h] }
  | .xCpBcast _ _ _ _ _ _ h _ => { rg := [h] }
  | .xCpDz _ _ _ _ _ _ h _ => { rg := [h] }
  | .xSread _ _ _ _ _ _ h => { rg := [h] }
  | .xPub _ _ h => { rg := [h] }
  | .xCancel _ _ h => { rg := [h] }
  | .pfTrn8 _ _ _ _ => {}
  | .pfTrn16 _ _ _ _ => {}
  | .pfTrn32 _ _ _ _ => {}
  | .pfFill _ _ _ v => { rg := [v] }
  | .pfQnt _ _ _ _ v _ => { rg := [v] }
  | .pfDqnt _ _ _ _ v _ => { rg := [v] }
  | .pfUpx12 _ _ _ _ => {}
  | .pfPkx12 _ _ _ _ => {}
  | .pfShuf _ _ _ _ v => { rg := [v] }
  | .eClr _ => {}
  | .eSet _ _ => {}
  | .eTpl _ _ => {}
  | .ePatch _ _ => {}
  | .eProv _ => {}
  | .eEmitP _ => {}
  | .eEmitS _ => {}
  | .eEmitA _ => {}
  | .eEmitrP _ _ _ => {}
  | .eEmitrS _ _ _ => {}
  | .eQst _ _ _ => {}
  | .eWait _ _ _ => {}
  | .eBind _ _ => {}
  | .rv64imacInstruction _ _ => {}
  | .illegalEncoding _ _ _ => {}
  | .eClrAll => {}
  | .ecallEnd => {}
  | .ecallLog => {}
  | .ecallYield => {}
  | .ecallUnknown => {}
  | .residencyUpdate => {}
  | .fixedLatencyResult => {}
  | .countedLoadDelivery => {}
  | .uncorrectableMemoryError => {}
  | .storeTicketKnown => {}
  | .farStorePerformed => {}
  | .remoteTickConfirmation => {}
  | .vclkTick => {}
  | .tickMarkedPassed => {}
  | .leaseExpiry => {}
  | .mwaitTimeout => {}
  | .idleCountExpiry => {}
  | .secondaryFairnessWithhold => {}
  | .handleEntryRead => {}
  | .engineCommandStart => {}
  | .engineCommandComplete => {}
  | .pubSwap => {}
  | .sreadCompletion => {}
  | .nvmeCommandTimeout => {}
  | .regionRollback => {}
  | .dirRead => {}
  | .dirOwnedWrite => {}
  | .evictionNoticeClean => {}
  | .evictionNoticeData => {}
  | .invalidation => {}
  | .recall => {}
  | .acknowledgement => {}
  | .l2Eviction => {}
  | .homeOwnedWrite => {}
  | .homeEntryEviction => {}
  | .instructionPrefetch => {}
  | .shootdownAck => {}
  | .keyRetirement => {}
  | .trapReplay => {}
  | .fetchMissPaging => {}
  | .readDuplicateCollapse => {}
  | .trapRecordFree => {}
  | .reap => {}
  | .remoteRouteTimeout => {}
  | .stewardCrash => {}
  | .warmReadoption => {}
  | .readoptionTimeout => {}
  | .composerSlotSwitch => {}
  | .emitQueueRoom => {}
  | .primaryBindingLapseEnd => {}
  | .mailboxDelivery => {}
  | .dbell => {}
  | .ringConfigWrite => {}
  | .sequenceRereadTimeout => {}
  | .launch => {}
  | .endLaunch => {}
  | .registerBuffer => {}
  | .unregisterBuffer => {}
  | .configureOrdmode => {}
  | .configureTelemetryPage => {}
  | .configurePowerCap => {}
  | .tearDownSpace => {}
  | .launchClaim => {}
  | .releaseTick => {}
  | .preemption => {}
  | .resume => {}
  | .launchCompletion => {}
  | .completionWordPassed => {}
  | .faultEndLaunch => {}
  | .imageLoad => {}
  | .powerOn => {}
  | .moduleReset => {}
  | .lifecycleChange => {}
  | .dieStageOnePassed => {}
  | .fullServiceStart => {}
  | .heartbeat => {}
  | .heartbeatMiss => {}
  | .resetVote => {}
  | .telemetryRewrite => {}
  | .powerCapLimiting => {}
  | .junctionTemperature => {}
  | .thermalRecovery => {}
  | .nop => {}
  | .hostMemoryAccess => {}
  | .homeRead => {}
  | .farLoadPerformed => {}
  | .linkLevelRetry => {}
  | .powerCapLimitingEnd => {}

/-! ### What a word sees and answers -/

/-- The meaning of a slot word within an issue: it reads the module as the issue found it (`iss.pre`, R72) and answers
the issue and the module with its effects, or stops. -/
abbrev Body := Issue → Mach → Except Stop (Issue × Mach)

/-- The issuing core as every read of the word's stream sees it (R72, R75). -/
def Issue.x (iss : Issue) : CoreState := (iss.pre.core iss.core).seenBy iss.stream iss.pre.fresh

/-- The same, with the vector registers as they stand at issue: of a destination no pending write of either stream counts (R22,
R134). -/
def Issue.standing (iss : Issue) : CoreState := { iss.x with regs.v := (iss.pre.core iss.core).regs.v }

/-- The bundle of the word's stream. -/
def Issue.origin (iss : Issue) : Origin := ((iss.origins.find? (fun e => e.1 = iss.stream)).map (·.2)).getD {}

/-- The number of the slot of a word. -/
def slotNum (i : Instr) : Nat := ((slotOf i).map Slot.num).getD 0

/-- The slot word in [31:0] and the slot in [34:32], as most causes report them (R374). -/
def tvalOf (i : Instr) : Dword := BitVec.ofNat 64 (((encode i).getD 0).toNat + 2 ^ 32 * slotNum i)

/-- A trap that reports its slot word and slot. -/
def slotTrap (i : Instr) (cause : BitVec 8) (taddr : Dword := 0) : Stop :=
  .trap { cause := cause, taddr := taddr, tval := tvalOf i }

/-- An answer of a check with the slot word and slot filled in. -/
def withSlot {α : Type} (i : Instr) : Except Trap α → Except Stop α
  | .ok a => .ok a
  | .error t => .error (.trap { t with tval := tvalOf i })

def CoreState.modStream (x : CoreState) (s : Stream) (f : StreamState → StreamState) : CoreState :=
  match s with
  | .primary => { x with front.sp := f x.front.sp }
  | .secondary => { x with front.ss := f x.front.ss }

/-- Append an event of a word to its issue (R384). -/
def Issue.event (iss : Issue) (i : Instr) (kind : BitVec 8) (count first : Nat) (detail : BitVec 32 := 0) : Issue :=
  { iss with events := iss.events ++ [{ kind := kind, slot := slotNum i, stream := iss.stream, count := count,
                                        first := first, detail := detail }] }

/-- The result of a scalar word (R75, R89). -/
def scalarResult (i : Instr) (k : LatClass) (d : BitVec 6) (v : Dword) : Body := fun iss m =>
  .ok (iss, m.modCore iss.core (fun x =>
    pushResult x iss.stream (slotNum i) k (iss.x.destG d) (v.setWidth 2048)))

/-- The result of a word that writes a predicate. -/
def predicateResult (i : Instr) (d : BitVec 4) (v : Bool) (iss : Issue) (x : CoreState) : CoreState :=
  pushResult x iss.stream (slotNum i) .A (iss.x.destP d) (if v then 1 else 0)

/-! ### Holds of an access (R269, R288, R289) -/

/-- A fence of the issue's own bundle holds an access of it, a later access for every kind (R286): an acquire one in its zones,
a ct.fence.vis a write. -/
def ownFenceHold (iss : Issue) (zones : List Nat) (write : Bool) : Bool :=
  let x := iss.x
  iss.words.any (fun w => decide (w.1 = iss.stream) && x.p (guardOf w.2) && (match w.2 with
    | .ctFenceAcq _ z => zones.any (fun k => bit z k) && (acquireHold x iss.stream z).waits x iss.stream
    | .ctFenceVis _ _ => write && (x.streamState iss.stream).fence.any (fun marks => !(x.fenceMet iss.pre.vclk marks))
    | _ => false))

/-- An access of the issue's stream in some zones is held by an acquire, or a write by a ct.fence.vis. -/
def orderHold (iss : Issue) (zones : List Nat) (write : Bool) : Bool :=
  iss.x.orderHeld iss.pre.vclk iss.stream zones write || ownFenceHold iss zones write

/-- The region that is open as the word issues: a ct.dawn of the same bundle has already opened it (R304). -/
def openRegionOf (iss : Issue) (m : Mach) : Option Region := (m.core iss.core).region

/-- The guards in force: those of earlier issues (R311). -/
def guardsOf (iss : Issue) : List Guard :=
  match iss.x.region with
  | some r => r.guards.map (·.2)
  | none => []

/-- A held command of the region writes bytes lo to hi of a space (R309). -/
def heldCommandWrites (r : Region) (sp : Space) (lo hi : Nat) (ranges : List (Nat × Nat)) : Bool :=
  r.held.any (fun h => match h with
    | .cmd k rs => k.ivals.any (fun v => v.write && v.space = sp && meets v.lo v.hi lo hi)
        || (sp = .glob && rs.any (fun e => e.2.2 && ranges.any (fun q => meets e.1 e.2.1 q.1 q.2)))
    | _ => false)

/-- Set a guard (R311). -/
def setGuard (x : CoreState) (n : Nat) (sp : Space) (lo hi : Nat) : CoreState :=
  match x.region with
  | some r => { x with
      region := some { r with guards := Sparse.put r.guards n { space := sp, lo := lo, hi := hi, issue := x.flight.issue } } }
  | none => x

/-! ### Local accesses (R102, R103, R150, R151) -/

/-- The checks of a local access of `n` bytes at S: alignment, the upper half, the space, its full-empty bits, and no
store to the constant store. -/
def localCheck (i : Instr) (iss : Issue) (s : Dword) (n : Nat) (bits store : Bool) : Except Stop (Space × Nat) :=
  if s.toNat % n ≠ 0 then .error (slotTrap i 7 s)
  else if field s 32 32 ≠ 0 then .error (slotTrap i 5 s)
  else match iss.pre.locate iss.core s.toNat n with
    | none => .error (slotTrap i 5 s)
    | some (sp, off) =>
      if bits && !sp.hasBits then .error (slotTrap i 5 s)
      else match store, sp with
        | true, .const _ => .error (slotTrap i 5 s)
        | _, _ => .ok (sp, off)

/-- A store, whatever its space: held by the region, else by its counter, fences and the scoreboard, else issued. -/
def storeWord (i : Instr) (st : StoreOp) (ranges : List (Nat × Nat)) (entries : Nat) : Body := fun iss m =>
  let x := iss.x
  let st := { st with stream := iss.stream, slot := slotNum i, origin := iss.origin }
  let lohi := span (st.bytes.map (·.1))
  match openRegionOf iss m with
  | some r =>
    if (guardsOf iss).any (fun g => g.space = st.space && st.bytes.any (fun b => g.lo ≤ b.1 && b.1 ≤ g.hi)) then
      .error (.roll 1)
    else if 128 < r.entries + entries then .error (.roll 4)
    else .ok (iss, m.modCore iss.core (fun y => { y with
      region := (y.region.map (fun r => { r with
        held := r.held ++ [.write { store := st, entries := entries, ranges := ranges }] })) }))
  | none =>
    let zones := match st.space with
      | .glob => x.zonesOf ranges
      | sp => localZones sp
    let cells := st.bytes.map (·.1)
    let near := st.space.sharedBits && !(cells.any (fun a => isFar iss.core st.space a))
    if full (m.core iss.core).cnt.st || orderHold iss zones true then .error (.hold .plain)
    else if near && !(iss.pre.canPerform iss.core (nearRef x iss.stream st.slot st.space cells true)) then .error (.hold .plain)
    else if st.bytes ≠ [] && interlocked x st.space lohi.1 lohi.2 true then .error (.hold .plain)
    else .ok (iss, m.issueStore iss.core st ranges)

/-- Store operations of both streams of the core that are not yet performed at a local space, latest first. -/
def pendingLocal (x : CoreState) (sp : Space) : List (Nat × BitVec 8) :=
  ((x.flight.stores.filter (fun s => s.space = sp && !s.performed)).flatMap (·.bytes)).reverse

/-- The L-address of a vector access of a local space (R151). -/
def vectorLocal (x : CoreState) : Instr → Option Dword
  | .vLdC _ _ _ b _ _ o => some (x.g b + o.signExtend 64 * 256)
  | .vLdCFe _ _ _ b _ _ o => some (x.g b + o.signExtend 64 * 256)
  | .vLdCTake _ _ _ b _ _ o => some (x.g b + o.signExtend 64 * 256)
  | .vStC _ _ _ b _ o => some (x.g b + o.signExtend 64 * 256)
  | .vStCSet _ _ _ b _ o => some (x.g b + o.signExtend 64 * 256)
  | _ => none

/-- A load of the core scratchpad at an offset may meet another access in its bank: a vector access of the same issue, or a
running engine command. The scratchpad has 16 banks, chosen by bits 11:8 (R75, the note of R264). -/
def bankMeets (iss : Issue) (slot off : Nat) : Bool :=
  let bank := off / 256 % 16
  iss.words.any (fun w => decide (slotNum w.2 ≠ slot) && iss.x.p (guardOf w.2) && (match vectorLocal iss.x w.2 with
    | some X => decide (X.toNat < 0x300000) && decide (X.toNat / 256 % 16 = bank)
    | none => false))
  || iss.x.flight.cmds.any (fun k => k.running && k.ivals.any (fun v =>
      v.space = .csp iss.core && decide ((bank + 16 - v.lo / 256 % 16) % 16 ≤ v.hi / 256 - v.lo / 256)))

/-- The cycles by which a local load is late: none, but for a bank conflict, which takes a number the spec does not give (R75,
log 95). -/
def bankDelay (iss : Issue) (slot : Nat) (sp : Space) (cells : List Nat) : Nat :=
  match sp, cells with
  | .csp _, off :: _ => if bankMeets iss slot off then Config.bankDelay iss.pre.fresh slot else 0
  | _, _ => 0

/-- The cycles by which the result of a local load that is read at its issue is late. A .fe or .take is read with its test, in one
indivisible step; from another core's share or from die scratchpad its result takes longer, by a number that the spec does not give
(R75, R103, R152, log 95). -/
def localDelay (iss : Issue) (slot : Nat) (sp : Space) (cells : List Nat) (test : Bool) : Nat :=
  if test && cells.any (fun a => isFar iss.core sp a) then Config.farDelay iss.pre.fresh slot else bankDelay iss slot sp cells

/-- A local load issues: its guard is set (R311), a near one is read now and a far one when it reaches its space (R429), a
take empties its granules, or reserves them in a region (R307). -/
def issueLocalLoad (iss : Issue) (slot : Nat) (k : LatClass) (sp : Space) (elems : List Elem) (gs : List Nat)
    (test take : Bool) (d : Option Dest) (tag : Option (BitVec 5)) (guardNo : Option Nat) (m : Mach) : Mach :=
  let x := iss.x
  let cells := elems.flatMap Elem.cells
  let above := overlayFor (heldBytes x sp ++ pendingLocal x sp) cells
  let far := !test && cells.any (fun a => isFar iss.core sp a)
  let vector := match d with
    | some (.v _) => true
    | _ => false
  let lanes := if vector then ofMask (fun n => elems.any (fun e => e.lane = n)) else BitVec.allOnes 64
  let value := elemsValue elems (cells.map (overlayByte above (iss.pre.bytesOf sp))) vector
  let m := if far then m else m.beforeLocal iss.core (nearRef x iss.stream slot sp cells false)
  let m := m.modCore iss.core (fun y =>
    let y := match guardNo, cells with
      | some n, a :: _ => setGuard y n sp a (a + cells.length - 1)
      | _, _ => y
    if far then
      let cz := y.charge (localZones sp)
      let f : FarLoad := { id := y.flight.nextOp, space := sp, elems := elems, overlay := above, zones := cz.2,
                           issue := y.flight.issue, stream := iss.stream }
      let y := { cz.1 with flight.nextOp := y.flight.nextOp + 1, flight.fars := y.flight.fars ++ [f] }
      pushResult y iss.stream slot k d 0 lanes tag true (some f.id)
    else pushResult y iss.stream slot k d value lanes tag true none (localDelay iss slot sp cells test))
  if !take then m
  else if (m.core iss.core).region.isSome then
    m.modCore iss.core (fun y => { y with
      region := y.region.map (fun r => { r with
        held := r.held ++ gs.map (fun g => .take sp g),
        reserved := r.reserved ++ gs.map (fun g => (sp, g)) }) })
  else m.setFull sp gs false

/-- A fixed-latency local load of elements in one space (R103, R149, R152): held by an acquire, an interlock or an empty
granule; in a region also checked against held commands and the store buffer (R309, R313). -/
def localLoad (i : Instr) (k : LatClass) (sp : Space) (elems : List Elem) (gs : List Nat) (test take : Bool)
    (d : Option Dest) (tag : Option (BitVec 5)) (guardNo : Option Nat) : Body := fun iss m =>
  let x := iss.x
  let cells := elems.flatMap Elem.cells
  let lohi := span cells
  let go := issueLocalLoad iss (slotNum i) k sp elems gs test take d tag guardNo m
  let near := sp.sharedBits && (test || !(cells.any (fun a => isFar iss.core sp a)))
  if orderHold iss (localZones sp) false then .error (.hold .plain)
  else if near && !(iss.pre.canPerform iss.core (nearRef x iss.stream (slotNum i) sp cells false)) then .error (.hold .plain)
  else if cells ≠ [] && interlocked x sp lohi.1 lohi.2 take then .error (.hold .plain)
  else if test && gs.any (fun g => !(iss.pre.isFull sp g)) then .error (.hold .plain)
  else match openRegionOf iss m with
    | some r =>
      if cells.any (fun a => heldCommandWrites r sp a a []) then .error (.roll 1)
      else if take && 128 < r.entries + gs.length then .error (.roll 4)
      else .ok (iss, go)
    | none => .ok (iss, go)

/-- Bytes of every store of the core, of either stream, that is not yet performed, and of held writes, latest first. -/
def allOwnBytes (x : CoreState) : List (Nat × BitVec 8) := heldBytes x .glob ++ pendingBytes x (fun s => !s.engine)

/-! ### Handle entries (R164, R238) -/

/-- The 32 bytes of a handle entry, as an uncached load that sees every store of the core issued before (R164). -/
def Mach.entryAt (m : Mach) (c cell : Nat) : BitVec 256 :=
  let above := allOwnBytes (m.core c)
  BitVec.ofNat 256 (ofBytes ((List.range 32).map (fun i => overlayByte above (m.seenMem (dieOf c)) (cell + i))))

/-- The seal of an entry under a context (R238, log 11). -/
def sealOf (x : CoreState) (base limit flags : Dword) : Dword :=
  Config.handleSeal base limit flags x.ctl.space x.ctl.keyid

/-- Base, limit and flags of an entry whose seal is right. -/
def openEntry (x : CoreState) (e : BitVec 256) : Option (Dword × Dword × Dword) :=
  let w := fun k => BitVec.ofNat 64 (field e (64 * k) 64)
  if w 3 = sealOf x (w 0) (w 1) (w 2) then some (w 0, w 1, w 2) else none

/-- Read a handle entry for a word: its address is checked as an uncached load, the issue is held while it is read, and a
wrong seal is refused with protection (R112, R164). -/
def handleFor (i : Instr) (addr : Dword) (iss : Issue) : Except Stop (Dword × Dword × Dword) :=
  match withSlot i (iss.pre.checkGlobal iss.core addr 32 false 3) with
  | .error e => .error e
  | .ok ph =>
    if iss.x.flight.handles.any (fun h => h.addr = addr && h.stream = iss.stream && h.read) then
      match openEntry iss.x (iss.pre.entryAt iss.core ph.cell) with
      | some r => .ok r
      | none => .error (slotTrap i 5 addr)
    else .error (.hold (.handle addr))

/-! ### Global accesses (R99, R100) -/

/-- Check every element of a global access at issue; the first failure decides (R99, R155). -/
def checkElems (i : Instr) (iss : Issue) (store : Bool) (rq : BitVec 2) (lanes : Bool) :
    List (Nat × Dword × Nat × Bool) → Except Stop (List (Elem × Dword × Phys))
  | [] => .ok []
  | (ln, va, size, signed) :: r =>
    match iss.pre.checkGlobal iss.core va size store rq with
    | .error t => .error (.trap { t with tval := if lanes then BitVec.ofNat 64 (ln + 2 ^ 32 * slotNum i) else tvalOf i })
    | .ok ph => match checkElems i iss store rq lanes r with
      | .error e => .error e
      | .ok l => .ok (({ lane := ln, addr := ph.cell, size := size, signed := signed }, va, ph) :: l)

/-- The byte ranges of elements as 57-bit virtual addresses. -/
def vaRanges (l : List (Elem × Dword × Phys)) : List (Nat × Nat) :=
  l.map (fun e => (e.2.1.toNat % 2 ^ 57, e.2.1.toNat % 2 ^ 57 + e.1.size - 1))

/-- The cells of checked elements that lie on untracked pages (R363). -/
def looseOf (l : List (Elem × Dword × Phys)) : List Nat := (l.filter (fun e => !(pteTracked e.2.2.leaf))).flatMap (fun e => e.1.cells)

/-- The translation of a checked access enters the first-level TLB (R359); an access of no element uses none. -/
def fillFor (c : Nat) (l : List (Elem × Dword × Phys)) (m : Mach) : Mach :=
  match l with
  | [] => m
  | e :: _ => m.fillTlb c e.2.1

/-- Lines of the load set by the L1 set they fall in: 128 sets of 8 ways (R313, R274). -/
def marksFit (marks : List LoadMark) : Bool :=
  marks.length ≤ 1024 && marks.all (fun k => (marks.filter (fun j => j.line % 128 = k.line % 128)).length ≤ 8)

/-- Enter the lines of a region's read into its load set (R312); a lease is entered as it is granted. -/
def addMarks (marks : List LoadMark) (lines : List Nat) : List LoadMark :=
  lines.foldl (fun ms n => if ms.any (fun k => k.line = n) then ms else ms ++ [{ line := n, lease := none }]) marks

/-- A counted global load of elements (R100, R154, R155). -/
def globalLoad (i : Instr) (rq : BitVec 2) (l : List (Elem × Dword × Phys)) (d : Option Dest) (tag : Option (BitVec 5))
    (guardNo : Option Nat) (amo : Option Amo) : Body := fun iss m =>
  let x := iss.x
  let ranges := vaRanges l
  let cells := l.flatMap (fun e => e.1.cells)
  let va := (l.head?.map (fun e => e.2.1)).getD 0
  let lines := (cells.map (· / 256)).eraseDups
  if full (m.core iss.core).cnt.ld || orderHold iss (x.zonesOf ranges) amo.isSome then .error (.hold .plain)
  else
    let op : LoadOp :=
      { id := 0, issue := 0, stream := iss.stream, slot := slotNum i, origin := iss.origin, va := va, dest := d,
        elems := l.map (·.1), tag := tag,
        overlay := if amo.isSome then [] else overlayFor (heldBytes x .glob) cells,
        rq := rq, amo := amo, remote := cells.any (remoteCell m), loose := looseOf l,
        device := l.any (fun e => pteKind e.2.2.leaf = 1) }
    match openRegionOf iss m with
    | some r =>
      let lohi := span cells
      let marks := if rq = 3 then r.marks else addMarks r.marks lines
      if cells ≠ [] && heldCommandWrites r .glob 1 0 ranges then .error (.roll 1)
      else if !(marksFit marks) then .error (.roll 4)
      else
        let m := m.modCore iss.core (fun y =>
          let y := { y with region := y.region.map (fun r => { r with marks := marks }) }
          match guardNo with
          | some n => setGuard y n .glob lohi.1 lohi.2
          | none => y)
        .ok (iss, (fillFor iss.core l m).issueLoad iss.core op ranges)
    | none => .ok (iss, (fillFor iss.core l m).issueLoad iss.core op ranges)

/-- The store of elements with their bytes (R100, R154, R156). -/
def globalStore (i : Instr) (rq : BitVec 2) (l : List (Elem × Dword × Phys)) (bytes : List (Nat × BitVec 8))
    (entries : Nat) : Body := fun iss m =>
  let va := (l.head?.map (fun e => e.2.1)).getD 0
  let st : StoreOp :=
    { id := 0, issue := 0, stream := iss.stream, slot := 0, origin := {}, space := .glob, bytes := bytes, rq := rq, va := va,
      remote := (bytes.map (·.1)).any (remoteCell m), loose := looseOf l }
  match storeWord i st (vaRanges l) entries iss (fillFor iss.core l m) with
  | .ok r => .ok r
  | .error e => .error e

end Sys2Proof.Machine
end

