-- ==== Sys2Proof/Machine/Issue.lean ====
section
/-! DEFINITION. One issue (R72, R78, R375): how it opens, how a word is evaluated in it, and how it closes by taking effect,
trapping, rolling back or holding. -/

namespace Sys2Proof.Machine

/-- Words that roll an open region back with UNSUP instead of taking effect (R126). -/
def unsupported : Instr → Bool
  | .scAmoAdd .. | .scAmoAnd .. | .scAmoOr .. | .scAmoXor .. | .scAmoMax .. | .scAmoMin .. | .scAmoMaxu ..
  | .scAmoMinu .. | .scAmoSwap .. | .scAmoCas .. => true
  | .scMtc .. | .scZdef .. | .scZdefh .. | .scSvc .. | .scStqpop .. => true
  | .ctFenceRel .. | .ctFenceAcq .. | .ctFenceVis .. | .ctFenceFull .. | .ctBarArrive .. | .ctBarWait .. | .ctBarSync ..
  | .ctArm .. | .ctMwait .. | .ctEnd .. => true
  | _ => false

/-- CT words that raise the stream-protocol trap in a fed bundle (R81). -/
def fetchedOnly : Instr → Bool
  | .ctBr .. | .ctCall .. | .ctCallr .. | .ctJr .. | .ctRet .. | .ctLoop .. | .ctDawn .. => true
  | _ => false

/-- Words a service bundle may hold (R377); an illegal encoding traps for itself (R71). -/
def serviceWord : Instr → Bool
  | .ctBr .. | .ctCall .. | .ctCallr .. | .ctJr .. | .ctRet .. | .ctWait .. => true
  | .ctFenceRel .. | .ctFenceAcq .. | .ctFenceVis .. | .ctFenceFull .. => true
  | .ctPand .. | .ctPor .. | .ctPxor .. | .ctPandn .. | .ctPnot .. | .ctPset .. | .ctPclr .. => true
  | .nop => true
  | .illegalEncoding .. => true
  | i => slotOf i = some .sc

/-- Words that Twilight service refuses (R422): every MX word and cp.bs. -/
def twilightRefused : Instr → Bool
  | .xCpBs .. => true
  | .illegalEncoding .. => false
  | i => slotOf i = some .mx

/-- Words at whose issue every pending result lands first (R77). -/
def drainsFirst : Instr → Bool
  | .ctDawn .. | .scEret .. => true
  | _ => false

/-- A copy word with fo set. -/
def hasFo : Instr → Bool
  | .xCp _ _ _ _ _ _ _ y | .xCpBs _ _ _ _ _ _ _ y | .xCpBcast _ _ _ _ _ _ _ y | .xCpDz _ _ _ _ _ _ _ y => y = 1
  | _ => false

/-- The word's guard reads true (R13). -/
def guarded (x : CoreState) (i : Instr) : Bool := x.p (guardOf i)

/-- A register with a counted result outstanding is named by the word (R76). -/
def registerOutstanding (x : CoreState) (i : Instr) : Bool :=
  let u := useOf i
  let g := (u.rg ++ u.wg).filterMap x.destG
  let v := (u.rv ++ u.wv).filterMap x.destV
  x.flight.loads.any (fun l => match l.dest with
    | some d => (g ++ v).contains d
    | none => false)

/-- Evaluate a word in an open issue: a false guard makes it a NOP; fed, region and service rules come first, so that a word a
service bundle may not hold traps whether it would hold or not (R377); then the word's own meaning. -/
def evalWord (i : Instr) (body : Body) (iss : Issue) (s : State) : State :=
  let stop := fun (e : Stop) => { s with iss := some { iss with stops := iss.stops ++ [(iss.stream, slotNum i, e)] } }
  if !(guarded iss.x i) then s
  else if fetchedOnly i && iss.origin.fed then stop (slotTrap i 0x0C)
  else if unsupported i && iss.x.region.isSome then stop (.roll 7)
  else if unsupported i && (s.mach.core iss.core).region.isSome then stop (.roll 7)
  else if iss.x.trap.monitor && !(serviceWord i) then stop (slotTrap i 0x01)
  else if twilightRefused i && iss.x.twilight then stop (slotTrap i 5)
  else match body iss s.mach with
    | .ok (iss', m) => { s with mach := m, iss := some iss' }
    | .error e => stop e

/-- What keeps the bundles of some streams from issuing in this cycle, whatever their words (R74, R76, R77, R247). -/
def heldAtOpen (x : CoreState) (streams : List Stream) : Bool :=
  streams.any (stretched x)
  || streams.any (fun s => let t := x.streamState s; t.barSync ≠ 0 && bit x.arrive (t.barSync - 1))
  || x.releasing ≠ []
  || (match x.region with
      | some r => r.roll.isSome
      | none => false)

/-- An error known (R101), or a reason for a rollback that has arrived (R314), stops the first bundle that issues. -/
def openStops (x : CoreState) (streams : List Stream) : List (Stream × Nat × Stop) :=
  (match x.region with
    | some r => match r.pendingRoll with
      | some k => [(.primary, 0, .roll k)]
      | none => []
    | none => [])
  ++ (x.flight.errors.filter (fun e => streams.contains e.stream)).map
      (fun e => (e.stream, 0, .trap { cause := 9, taddr := e.taddr, tval := e.tval, draining := e.draining }))

/-- The stream has issued its bundle after a bar.sync: the wait is over; satisfied fences are forgotten. -/
def settleStream (now : Tick) (x : CoreState) (s : Stream) : CoreState :=
  let acq := (x.streamState s).acq.filter (fun h => h.waits x s)
  let vis := (x.streamState s).vis.filter (fun f => !(x.fenceMet now f))
  x.modStream s (fun t => { t with barSync := 0, acq := acq, vis := vis })

/-! ### Standing at issue -/

/-- A fence writes back the untracked sectors that its zones hold (R363): those of pending stores charged to them, whose bytes enter
the L1 first. -/
def Mach.fenceWriteBack (m : Mach) (c : Nat) (zones : BitVec 8) : Mach :=
  let mine := fun (s : StoreOp) => s.cached && s.zones.any (fun z => bit zones z.1) && s.bytes.any (fun b => s.loose.contains b.1)
  let stores := (m.core c).flight.stores.filter mine
  let sectors := stores.flatMap (fun s => (s.bytes.filter (fun b => s.loose.contains b.1)).map (fun b => b.1 / 64))
  if sectors = [] then m
  else
    let enter := fun (m : Mach) (s : StoreOp) =>
      if m.canPerform c (m.storeRef s) then (m.performFirst c (m.storeRef s)).enterStore c s else m
    (stores.foldl enter m).writeBack c (fun k => sectors.contains k)

/-- A fence first stands at issue: its epochs open (R285). -/
def Mach.standFence (m : Mach) (c : Nat) (s : Stream) (zones : BitVec 8) : Mach :=
  let m := m.fenceWriteBack c zones
  let x := (m.core c).openEpochs zones
  m.setCore c (x.modStream s (fun t => { t with fence := some (x.epochMarks zones) }))

/-- The zones in which a word opens epochs when it first stands at issue (R285). -/
def epochZones : Instr → Option (BitVec 8)
  | .ctFenceRel _ z => some z
  | .ctFenceVis _ z => some z
  | .ctFenceFull _ => some 0xFF
  | .ctEnd _ => some 0xFF
  | _ => none

/-- What a bundle does by standing at the head of a stream, in whatever way it is held there: its fence opens its epochs, unless a
zone has no room for one yet (R285); a ct.end of the primary stream clears STREAMCTL[2] and the binding of the secondary
queue lapses (R130, step 1). A word that is guarded off, or that a region or service code turns away, does nothing. -/
def Mach.standHead (m : Mach) (c : Nat) (st : Stream) (words : List Instr) : Mach :=
  let x := m.core c
  let seen := ((stepResults x [st]).1).seenBy st m.fresh
  match words.find? (fun i => (epochZones i).isSome && guarded seen i) with
  | none => m
  | some i =>
    let ends := match i with
      | .ctEnd _ => true
      | _ => false
    if x.region.isSome || (ends && (st = .secondary || x.trap.monitor)) then m
    else
      let zones := (epochZones i).getD 0
      let m := if ends then (m.modCore c (fun x => { x with front.paused := false })).lapse c 1 true else m
      if (x.streamState st).fence.isSome || !(x.canOpen m.vclk zones) then m
      else (if ends then m.writeBack c (fun _ => true) else m).standFence c st zones

/-- Open an issue of core `c`: a step of the streams (R74), or `none` while they are held. `back` is the module a hold,
a trap or a rollback returns to. -/
def openIssue (m : Mach) (c : Nat) (words : List (Stream × Instr)) (origins : List (Stream × Origin)) :
    Option (Mach × Issue) :=
  let streams := origins.map (·.1)
  let x0 := m.core c
  if heldAtOpen x0 streams then none
  else
    let landed := stepResults x0 streams
    let x := streams.foldl (settleStream m.vclk) landed.1
    let x := { x with flight.issue := x.flight.issue + 1 }
    let pre := m.setCore c x
    let pre := if words.any (fun w => drainsFirst w.2 && guarded (x.seenBy w.1 m.fresh) w.2) then pre.drain c else pre
    if words.any (fun w => guarded (x.seenBy w.1 m.fresh) w.2 && registerOutstanding x w.2) then none
    else some (pre,
      { core := c, stream := (streams.head?).getD .primary, pre := pre, back := m, words := words, origins := origins,
        stops := openStops x streams, events := landed.2 })

/-- The bundle of a stream in the issue is illegal, and holds the report of R71 alone. -/
def Issue.illegal (iss : Issue) (st : Stream) : Bool :=
  iss.words.any (fun w => decide (w.1 = st) && (match w.2 with
    | .illegalEncoding .. => true
    | _ => false))

/-- The place of a stop in the order of R375: the illegal-encoding trap of R71 first, then the primary bundle's slots, then the
secondary bundle's. -/
def Issue.stopRank (iss : Issue) (a : Stream × Nat × Stop) : Nat :=
  let illegal := match a.2.2 with
    | .trap t => decide (t.cause = 1) && iss.illegal a.1
    | _ => false
  if illegal then 0
  else match a.1 with
    | .primary => 1 + a.2.1
    | .secondary => 9 + a.2.1

/-- The stop of a list that R375 records. -/
def Issue.firstStop (iss : Issue) (l : List (Stream × Nat × Stop)) : Option (Stream × Nat × Stop) :=
  l.foldl (fun acc e => match acc with
    | none => some e
    | some a => if iss.stopRank a ≤ iss.stopRank e then some a else some e) none

/-- The traps of an issue. -/
def Issue.traps (iss : Issue) : List (Stream × Nat × Stop) :=
  iss.stops.filter (fun e => match e.2.2 with
    | .trap _ => true
    | _ => false)

def Issue.held (iss : Issue) : Bool :=
  iss.stops.any (fun e => match e.2.2 with
    | .hold _ => true
    | _ => false)

/-- The rollback reason of an issue: the lowest code of its rolls, and TRAP for its traps (R314, R318). -/
def Issue.rollReason (iss : Issue) (inRegion : Bool) : Option (BitVec 4) :=
  let codes := iss.stops.filterMap (fun e => match e.2.2 with
    | .roll k => some k.toNat
    | .trap _ => if inRegion then some 5 else none
    | .hold _ => none)
  match codes with
  | [] => none
  | k :: r => some (BitVec.ofNat 4 (r.foldl min k))

/-- What a hold of a slot leaves in the state while its bundle stands at issue. -/
def applyMark (m : Mach) (c : Nat) (s : Stream) (slot : Nat) : HoldMark → Mach
  | .plain => m
  | .mwait d => m.modCore c (fun x => x.modStream s (fun t => { t with mwait := some d }))
  | .handle a => m.modCore c (fun x =>
      if x.flight.handles.any (fun h => h.addr = a && h.stream = s) then x
      else { x with flight.handles := x.flight.handles ++ [{ addr := a, stream := s }] })
  | .ending => m
  | .intervals => m.modCore c (fun x => x.modStream s (fun t => { t with heldCycles := t.heldCycles + 1, heldSlot := slot }))

/-- Insert an event behind those of its kind and of lower kinds (R60). -/
def insertKind (e : Event) : List Event → List Event
  | [] => [e]
  | x :: r => if x.kind ≤ e.kind then x :: insertKind e r else e :: x :: r

/-- The events of an issue in the order of R384: primary before secondary, ascending slot, and within a slot ascending kind. -/
def orderedEvents (l : List Event) (s : Stream) : List Event :=
  (List.range 8).flatMap (fun k => (l.filter (fun e => e.stream = s && e.slot = k)).foldl (fun acc e => insertKind e acc) [])

/-- The origin of a stream's bundle in an issue. -/
def Issue.originOf (iss : Issue) (s : Stream) : Origin := ((iss.origins.find? (fun e => e.1 = s)).map (·.2)).getD {}

/-- The bundles of the issue leave the heads of their streams (R79, R82, R216); one that sc.svc or sc.brk follows with a trap
stays until sc.eret passes it (R110). -/
def leaveHeads (iss : Issue) (x : CoreState) : CoreState :=
  let streams := iss.origins.map (·.1)
  let fedPrimary := (iss.originOf .primary).fed
  let stays := fun (s : Stream) => iss.after.any (fun a => a.1 = s)
  let x := if streams.contains .primary && !(stays .primary) then
      if fedPrimary then { x with front.primary := x.front.primary.drop 1 }
      else if !iss.eret then
        let ts := match iss.transfer with
          | some t => x.front.transfers ++ [{ target := t, left := 4 }]
          | none => x.front.transfers
        let n := advance x.front.pc ts
        { x with front.pc := n.1, front.transfers := n.2 }
      else x
    else x
  if streams.contains .secondary then
    { x with
      front.secondary := if stays .secondary then x.front.secondary else x.front.secondary.drop 1,
      front.waitCount := 0,
      front.withhold := false }
  else if x.front.secondary ≠ [] && !x.front.paused && !x.trap.monitor && x.region.isNone then
    { x with front.waitCount := min 64 (x.front.waitCount + 1) }
  else x

/-- The words of the issue that hold the scoreboard or stretch have issued: one stretch event each (R77, R271). DESIGN CHOICE (log
111): it bears the slot of the instruction that was late or that wanted intervals, the lowest of several. -/
def stretchEvents (x : CoreState) (streams : List Stream) : List Event :=
  streams.filterMap (fun s =>
    let n := (x.streamState s).heldCycles
    if n = 0 then none else some { kind := 0x30, slot := (x.streamState s).heldSlot, stream := s, count := n, first := 0 })

/-- The issue takes effect. DESIGN CHOICE (log 111): the record of an ambiguous branch, which an SC and a CT word cause together,
bears slot 0 (R84). -/
def commitIssue (iss : Issue) (m : Mach) : Mach :=
  let c := iss.core
  let streams := iss.origins.map (·.1)
  let scTransfer := iss.eret || iss.after.any (fun a => a.1 = .primary)
  let events := iss.events ++ stretchEvents (m.core c) streams ++
    (match scTransfer, iss.ctWord with
      | true, some w => [{ kind := 0x31, slot := 0, stream := .primary, count := 1, first := 0, detail := w }]
      | _, _ => [])
  let m := m.appendEvents c (iss.originOf .primary) (orderedEvents events .primary)
  let m := m.appendEvents c (iss.originOf .secondary) (orderedEvents events .secondary)
  let m := m.modCore c (fun x => streams.foldl (fun x s => x.modStream s
    (fun t => { t with heldCycles := 0, fence := none, mwait := none })) x)
  let m := m.modCore c (fun x => { x with
    flight.handles := x.flight.handles.filter (fun h => !(streams.contains h.stream)) })
  let iss := if scTransfer then { iss with transfer := none } else iss
  let m := m.modCore c (leaveHeads iss)
  let m := if iss.dusk then m.commitRegion c else m
  let m := if iss.ends then m.endCore c else m
  let m := if iss.eret then m.returnFromTrap c else m
  match iss.after with
  | some (s, t) => m.takeTrap c s (iss.originOf s) t
  | none => m

/-- A trap finds only the reserved record of the queue free: it is not taken (R381). -/
def CoreState.noRecord (x : CoreState) (t : Trap) : Bool :=
  !t.fatal && !x.trap.monitor && decide (31 ≤ x.queues.trapq.length)

/-- The issue is held at the trap that it would take, for want of a record (R262, R381). -/
def Issue.trapHeld (iss : Issue) : Bool :=
  let x := iss.back.core iss.core
  match iss.firstStop iss.traps, iss.after with
  | some (_, _, .trap t), _ => x.noRecord t
  | none, some (_, t) => x.noRecord t
  | _, _ => false

/-- The issue lies in a region, or opens one. -/
def Issue.inRegion (iss : Issue) (m : Mach) : Bool :=
  (iss.back.core iss.core).region.isSome || (m.core iss.core).region.isSome

/-- The issue cannot take effect, roll back or trap in this cycle. -/
def Issue.waits (iss : Issue) (m : Mach) : Bool :=
  iss.held || ((iss.rollReason (iss.inRegion m)).isNone && iss.trapHeld)

/-- The lowest slot of a list. -/
def lowestSlot (l : List Nat) : Nat := l.foldl min 7

/-- A hold leaves its marks; several holds of one stream for want of scoreboard intervals are one held cycle (R271). -/
def applyMarks (c : Nat) (stops : List (Stream × Nat × Stop)) (m : Mach) : Mach :=
  let marks := stops.filterMap (fun e => match e.2.2 with
    | .hold k => some (e.1, k)
    | _ => none)
  let slot := fun (e : Stream × HoldMark) => lowestSlot ((stops.filter (fun t => t.1 = e.1 && t.2.2 = .hold e.2)).map (fun t => t.2.1))
  marks.eraseDups.foldl (fun m e => applyMark m c e.1 (slot e) e.2) m

/-- The error that a trap of cause 9 reports is no longer pending (R101). -/
def CoreState.dropError (x : CoreState) (st : Stream) (t : Trap) : CoreState :=
  { x with flight.errors := x.flight.errors.eraseP (fun e => decide (e.stream = st) && e.taddr = t.taddr && e.tval = t.tval) }

/-- An issue closes: it is held while any word holds; otherwise it rolls its region back, traps, or takes effect. -/
def closeIssue (s : State) : State :=
  match s.iss with
  | none => s
  | some iss =>
    let c := iss.core
    let dawned := iss.back.core c |>.region.isNone
    let opened := (s.mach.core c).region
    let out : Mach :=
      if iss.waits s.mach then applyMarks c iss.stops iss.back
      else match iss.rollReason (iss.inRegion s.mach) with
        | some k =>
          let base := if dawned then
              match opened with
              | some r => (iss.back.drain c).modCore c (fun x => { x with region := some { r with held := [] } })
              | none => iss.back
            else iss.back
          base.modCore c (fun x => { x with region := x.region.map (fun r => { r with roll := some k }) })
        | none => match iss.firstStop iss.traps with
          | some (st, _, .trap t) =>
            (if t.cause = 9 then iss.back.modCore c (fun x => x.dropError st t) else iss.back).takeTrap c st (iss.originOf st) t
          | _ => commitIssue iss s.mach
    { s with mach := out, iss := none }

/-- THE MEANING OF A SLOT WORD: within an open issue, its part of that issue; with none open, an issue of its own in the
primary stream of the core that State names (log 6). -/
def runWord (i : Instr) (body : Body) (s : State) : Host.Outcome State Fault Refusal :=
  match s.iss with
  | some iss => .next (evalWord i body iss s)
  | none =>
    let m := (s.mach.modCore s.core passCycle).standHead s.core .primary [i]
    match openIssue m s.core [(.primary, i)] [(.primary, (m.core s.core).primaryOrigin)] with
    | none => .next { s with mach := m }
    | some (pre, iss) => .next (closeIssue (evalWord i body iss { s with mach := pre, iss := some iss }))

end Sys2Proof.Machine
end

