-- ==== Sys2Proof/Machine/Sequencer.lean ====
section
/-! DEFINITION. One cycle of a core: the issue limit of the power cap, bundle fetch, the decoding of a bundle, and the merging
of the two streams (R69 to R71, R74, R78, R79, R360, R427). -/

namespace Sys2Proof.Machine

/-- The meaning of an instruction, as `exec` gives it. -/
abbrev Exec := Instr → State → Host.Outcome State Fault Refusal

/-! ### Fetch (R274, R360) -/

/-- A line of an instruction cache. -/
def cachedLine (l : List (Nat × BitVec 2048)) (line : Nat) : Option (BitVec 2048) := (l.find? (fun e => e.1 = line)).map (·.2)

/-- A code line, from the line buffer of the primary stream, which alone fetches, or brought into the instruction caches of the core
and of its cluster: 512 lines in a core, 4,096 in a cluster; the oldest leaves first (R274, log 16). -/
def Mach.fetchLine (m : Mach) (c line : Nat) : BitVec 2048 × Mach :=
  match cachedLine ((m.core c).caches.lineBuf.toList ++ (m.core c).caches.icache) line with
  | some d => (d, m)
  | none =>
    let k := clusterOf c
    let got := match cachedLine (m.cluster k).icache line with
      | some d => (d, m)
      | none =>
        let d := BitVec.ofNat 2048 (Mem.load m.mem (256 * line) 256)
        (d, m.modCluster k (fun x => { x with icache := ((line, d) :: x.icache).take 4096 }))
    (got.1, got.2.modCore c (fun x => { x with caches.icache := ((line, got.1) :: x.caches.icache).take 512 }))

/-- What a demand fetch finds at a bundle address (R360): a bundle, or the trap of its bundle. -/
def Mach.fetchBundle (m : Mach) (c : Nat) (pc : Dword) : Except Trap (Bundle × Mach) :=
  match m.translate c pc with
  | .leaf e shift =>
    if pteKind e ≠ 2 then .error { cause := 5 }
    else
      let cell := leafCell e shift pc
      let r := (m.fillTlb c pc).fetchLine c (cell / 256)
      .ok (BitVec.ofNat 256 (r.1.toNat / 2 ^ (8 * (cell % 256))),
        r.2.modCore c (fun x => { x with caches.lineBuf := some (cell / 256, r.1) }))
  | _ => .error { cause := 4, replay := true }

/-! ### Bundles (R61, R69 to R71) -/

/-- A bundle at the head of a stream: its words other than the NOP, and where it comes from. -/
structure HeadBundle where
  words : List Instr
  origin : Origin
  deriving DecidableEq, Repr

/-- The words of a bundle; an illegal one holds only the report of R71. -/
def bundleWords (b : Bundle) : List Instr :=
  let all := Slot.all.map (fun s => (s, decodeWord s (b.word s)))
  let bad := all.find? (fun e => match e.2 with
    | .ok _ => false
    | .error _ => true)
  match bad with
  | some e => [.illegalEncoding e.1 (b.word e.1) false]
  | none =>
    let fo := fun (s : Slot) => match decodeWord s (b.word s) with
      | .ok i => hasFo i
      | .error _ => false
    if fo .ca && (fo .cb || b.word .mx = 0) then [.illegalEncoding .ca (b.word .ca) true]
    else if fo .cb && b.word .mx = 0 then [.illegalEncoding .cb (b.word .cb) true]
    else all.filterMap (fun e => match e.2 with
      | .ok i => if i = .nop then none else some i
      | .error _ => none)

/-- The order in which the words of an issue are folded: CT before SC, so that sc.ctv finds what the CT word delivers; SC and
vector words before engine words; engine words in ascending slot, but an MX word held by fo behind its copy (R270); last
the words that change what other words of the issue still read (R29, R72). -/
def foldRank (l : List (Stream × Instr)) (w : Stream × Instr) : Nat :=
  match w.2 with
  | .scMtc .. | .scZdef .. | .scZdefh .. => 10
  | i => match slotOf i with
    | some .ct => 0 | some .sc => 1 | some .vx => 2 | some .vy => 3 | some .ca => 5 | some .cb => 7 | some .pf => 9
    | some .mx =>
      if l.any (fun e => e.1 = w.1 && hasFo e.2 && slotOf e.2 = some .ca) then 6
      else if l.any (fun e => e.1 = w.1 && hasFo e.2) then 8 else 4
    | none => 10

/-- The words in the order in which they are evaluated. DESIGN CHOICE (log 114): where a .take and a .set of one issue meet one
granule, the word that stands later here leaves its bit. -/
def foldOrder (l : List (Stream × Instr)) : List (Stream × Instr) :=
  (List.range 11).flatMap (fun k => l.filter (fun w => foldRank l w = k))

/-- The slot sets of two bundles are disjoint (R78). -/
def disjointSlots (a b : List Instr) : Bool := a.all (fun i => b.all (fun j => slotOf i ≠ slotOf j))

/-! ### Evaluating an issue -/

/-- Fold the words of an issue through their meanings. -/
def foldWords (ex : Exec) : List (Stream × Instr) → State → Host.Outcome State Fault Refusal
  | [], s => .next s
  | (st, i) :: r, s =>
    match ex i { s with iss := s.iss.map (fun x => { x with stream := st }) } with
    | .next s' => foldWords ex r s'
    | o => o

/-- Evaluate an issue of some bundles; `none` while it is held before its words are read. The answer has not closed. -/
def evalIssue (ex : Exec) (c : Nat) (heads : List (Stream × HeadBundle)) (extra : List (Stream × Nat × Stop)) (s : State) :
    Option (Host.Outcome State Fault Refusal) :=
  let words := foldOrder (heads.flatMap (fun h => h.2.words.map (fun i => (h.1, i))))
  match openIssue s.mach c words (heads.map (fun h => (h.1, h.2.origin))) with
  | none => none
  | some (pre, iss) =>
    some (foldWords ex words { s with mach := pre, iss := some { iss with stops := iss.stops ++ extra } })

/-- An evaluated issue. -/
abbrev Evaluated := Option (Host.Outcome State Fault Refusal)

/-- The evaluated issue can issue in this cycle: it takes effect, rolls back or traps. -/
def canIssue : Evaluated → Bool
  | some (.next s) => match s.iss with
    | some iss => !(iss.waits s.mach)
    | none => false
  | some _ => true
  | none => false

/-- The evaluated issue opens a region: the secondary stream stands still from it on (R304). -/
def opensRegion (before : State) (c : Nat) : Evaluated → Bool
  | some (.next s) => (s.mach.core c).region.isSome && (before.mach.core c).region.isNone
  | _ => false

/-- The evaluated issue is held by its ct.end (R78). -/
def heldByEnd : Evaluated → Bool
  | some (.next s) => match s.iss with
    | some iss => iss.stops.any (fun e => e.2.2 = .hold .ending)
    | none => false
  | _ => false

/-- Close an evaluated issue; one held before its words were read leaves the state as it stands. -/
def closeEval (s : State) : Evaluated → Host.Outcome State Fault Refusal
  | some (.next t) => .next (closeIssue t)
  | some o => o
  | none => .next s

/-- Count a stretch cycle of a stream that would step in this cycle (R77). -/
def Mach.countStretch (c : Nat) (m : Mach) (st : Stream) : Mach :=
  if stretched (m.core c) st then
    let slot := lowestSlot (((m.core c).flight.pend.filter (lateResult st)).map (·.slot))
    m.modCore c (fun x => x.modStream st (fun t => { t with heldCycles := t.heldCycles + 1, heldSlot := slot }))
  else m

/-! ### Merging the streams (R78, R79) -/

/-- A secondary head standing alone issues, or waits. -/
def secondaryAlone (ex : Exec) (c : Nat) (sec : HeadBundle) (s : State) : Host.Outcome State Fault Refusal :=
  closeEval s (evalIssue ex c [(.secondary, sec)] [] s)

/-- A secondary head that the primary bundle leaves waiting: its handle reads are made meanwhile, and, where no slot of it is
taken, its other holds run on (R78, R123, R271). -/
def waitMarks (c : Nat) (apart : Bool) (e : Evaluated) (s : State) : State :=
  match e with
  | some (.next t) => match t.iss with
    | some iss =>
      let stops := iss.stops.filter (fun e => match e.2.2 with
        | .hold (.handle _) => true
        | _ => apart)
      if iss.waits t.mach then { s with mach := applyMarks c stops s.mach } else s
    | none => s
  | _ => s

/-- A primary head that does not issue still occupies its slots: a secondary head that does not overlap it may issue alone (R78). -/
def besideHeld (ex : Exec) (c : Nat) (prim : HeadBundle) (sec : Option HeadBundle) (s : State) : Host.Outcome State Fault Refusal :=
  match sec with
  | none => .next s
  | some q =>
    if disjointSlots prim.words q.words then secondaryAlone ex c q s
    else .next (waitMarks c false (evalIssue ex c [(.secondary, q)] [] s) s)

/-- The primary head issues, with the secondary head beside it where the slots are disjoint and neither would be held;
while it is held, a secondary head that does not overlap it may issue alone (R78). A bundle that opens a region issues with
no secondary bundle (R304). -/
def mergeStreams (ex : Exec) (c : Nat) (prim : HeadBundle) (extra : List (Stream × Nat × Stop)) (sec : Option HeadBundle)
    (s : State) : Host.Outcome State Fault Refusal :=
  let p := evalIssue ex c [(.primary, prim)] extra s
  match sec with
  | none => closeEval s p
  | some q =>
    let apart := disjointSlots prim.words q.words
    let e := evalIssue ex c [(.secondary, q)] [] s
    let both := evalIssue ex c [(.primary, prim), (.secondary, q)] extra s
    if canIssue p then
      if apart && !(opensRegion s c p) && canIssue e && canIssue both then closeEval s both
      else match closeEval s p with
        | .next t => .next (waitMarks c apart e t)
        | o => o
    else match closeEval s p with
      | .next t => if heldByEnd p then secondaryAlone ex c q t else besideHeld ex c prim sec t
      | o => o

/-- The secondary head, when it may issue at all: the queue is not paused, no service code runs, no region is open
(R304, R377), and its stream neither idles nor waits for a replay. -/
def CoreState.secondaryHead (x : CoreState) : Option HeadBundle :=
  let waits := x.replay.any (fun r => r.1 = .secondary)
  if x.front.paused || x.trap.monitor || x.region.isSome || x.front.ss.idle ≠ 0 || waits then none
  else x.front.secondary.head?.map (fun e => { words := bundleWords e.bundle, origin := { fed := true, prov := e.prov } })

/-- The wait count of the secondary head has reached 64: the primary stream is to be withheld (R79). -/
def Mach.withholdPrimary (m : Mach) (c : Nat) : Mach :=
  m.modCore c (fun x => if 64 ≤ x.front.waitCount then { x with front.withhold := true } else x)

/-- One of the cycles of ct.idle passes: a step of its stream, unless a result is late; the end of a stretch is told by an
event of its own (R74, R77, R129). -/
def Mach.idleStep (m : Mach) (c : Nat) (st : Stream) : Mach :=
  let x := m.core c
  if (x.streamState st).idle = 0 ∨ stretched x st then m
  else
    let r := stepResults x [st]
    let m := m.setCore c (r.1.modStream st (fun t => { t with idle := t.idle - 1, heldCycles := 0 }))
    m.appendEvents c (x.streamOrigin st) (r.2 ++ stretchEvents x [st])

/-- A fetch miss holds the primary stream; outside a region it is also recorded as a replayable trap (R318, R378). -/
def fetchTrap (c : Nat) (o : Origin) (t : Trap) (s : State) : State :=
  let x := s.mach.core c
  if t.cause = 4 && x.region.isSome then
    { s with mach := s.mach.modCore c (fun x => { x with replay := x.replay ++ [(.primary, t.cause, o.addr)] }) }
  else s

/-- What the primary stream has at its head: nothing, or the words and origin of a bundle with the trap of its fetch, and the
module after the fetch; a fetch miss in a region is no trap (R318, R360). -/
def Mach.primaryHead (m : Mach) (c : Nat) : Except Trap (Option HeadBundle × Mach) :=
  let x := m.core c
  let o := x.primaryOrigin
  if o.fed then .ok (x.front.primary.head?.map (fun e => { words := bundleWords e.bundle, origin := o }), m)
  else match m.fetchBundle c x.front.pc with
    | .ok (b, m') => .ok (some { words := bundleWords b, origin := o }, m')
    | .error t => .error t

/-- The secondary head stands at issue (R285). -/
def Mach.standSecondary (m : Mach) (c : Nat) : Mach :=
  match (m.core c).secondaryHead with
  | some q => m.standHead c .secondary q.words
  | none => m

/-- The primary head stands at issue, issuing or not (R130, R285). DESIGN CHOICE (log 60): while a ct.idle runs, the bundle behind it
does not yet stand there. -/
def Mach.standPrimary (m : Mach) (c : Nat) : Except Trap (Option HeadBundle × Mach) :=
  if (m.core c).front.sp.idle ≠ 0 then .ok (none, m)
  else match m.primaryHead c with
    | .ok (some p, m) => .ok (some p, m.standHead c .primary p.words)
    | r => r

/-- The streams of a core issue in one cycle. The streams that would step count a stretch cycle where a result is late (R77), and
their heads do what standing at issue does (R130, R285), the primary head also in a cycle in which it is withheld or waits for a
replay (R79, R378). -/
def issueCycle (ex : Exec) (c : Nat) (s : State) : Host.Outcome State Fault Refusal :=
  let m := (s.mach.withholdPrimary c).standSecondary c
  let x := m.core c
  let sec := x.secondaryHead
  let m := if sec.isSome || x.front.ss.idle ≠ 0 then m.countStretch c .secondary else m
  let alone := fun (m : Mach) => match sec with
    | some q => secondaryAlone ex c q { s with mach := m }
    | none => .next { s with mach := m }
  let replays := x.replay.any (fun r => r.1 = .primary)
  let withheld := x.front.withhold && (match sec with
    | some q => canIssue (evalIssue ex c [(.secondary, q)] [] { s with mach := m })
    | none => false)
  match m.standPrimary c with
  | .ok (none, m) => alone (if x.front.sp.idle = 0 || replays || withheld then m else (m.countStretch c .primary).idleStep c .primary)
  | .ok (some p, m) =>
    if withheld then alone m
    else if replays then besideHeld ex c p sec { s with mach := m }
    else mergeStreams ex c p [] sec { s with mach := m.countStretch c .primary }
  | .error t =>
    if replays || withheld then alone m
    else if t.cause = 4 && x.region.isSome then .next (fetchTrap c x.primaryOrigin t { s with mach := m })
    else mergeStreams ex c { words := [], origin := x.primaryOrigin } [(.primary, 0, .trap t)] sec
      { s with mach := m.countStretch c .primary }

/-- A limited cycle: the power cap lets a sequencer issue in `limit` of every 16 cycles (R427). -/
def limitedCycle (limit phase : Nat) : Bool := decide (limit ≤ phase % 16)

/-- A cycle begins (R75, R316): results move on, committed effects of a region are released as far as the counters allow, and
the counter of free values advances (log 7). -/
def Mach.beginCycle (m : Mach) (c : Nat) : Mach :=
  let m := { m with fresh := m.fresh + 1 }.modCore c (fun x =>
    { passCycle x with limitPhase := (x.limitPhase + 1) % 16, front.awaits := false })
  if (m.core c).releasing = [] then m else m.release c

/-- In a limited cycle no bundle issues, and the heads stand at issue all the same (R130, R262, R285). -/
def Mach.standHeads (m : Mach) (c : Nat) : Mach :=
  let m := m.standSecondary c
  match m.standPrimary c with
  | .ok (_, m) => m
  | .error _ => m

/-- ONE CYCLE OF A CORE. Results move on, committed effects of a region are released as far as the counters allow (R316),
and the streams issue. A core that does not run does nothing. -/
def coreCycle (ex : Exec) (c : Nat) (s : State) : Host.Outcome State Fault Refusal :=
  if !(s.mach.core c).running then .next s
  else
    let m := s.mach.beginCycle c
    if limitedCycle (min m.fleet.limit m.fleet.thermal) (m.core c).limitPhase then
      .next { s with mach := { m.standHeads c with fleet.throttled := m.fleet.throttled + 1 } }
    else match issueCycle ex c { s with mach := m } with
      | .next t => .next (if (m.core c).front.ss.idle = 0 then t else { t with mach := t.mach.idleStep c .secondary })
      | o => o

end Sys2Proof.Machine
end

