-- ==== Sys2Proof/Machine/Composer.lean ====
section
/-! DEFINITION. The emit extension (R208 to R222), the environment calls of a generator, and one instruction of a composer
(R206). -/

namespace Sys2Proof.Machine

/-! ### The staging bundle (R208 to R211) -/

/-- An instruction of the emit extension: illegal in M-mode (R208), else its result at the next pc. -/
def emitInstr (f : Mach → Nat → Hart → Dword → RvResult) (s : State) : Host.Outcome State Fault Refusal :=
  let n := s.hart
  let h := s.mach.hart n
  let r := if h.user then f s.mach n h (h.pc + 4) else illegalInstruction s.mach
  .next { s with mach := r.apply n s.mach }

/-- Replace a slot word of the staging bundle. -/
def Hart.setStage (h : Hart) (k v : Nat) : Hart := { h with stage := setField h.stage (32 * k) 32 v }

/-- e.tpl: a load of 32 bytes (R209). -/
def loadTemplate (m : Mach) (n : Nat) (h : Hart) (va next : Dword) : RvResult :=
  if va.toNat % 32 ≠ 0 then .raise { cause := 4, tval := va }
  else match rvCell m n h va .load with
    | .error e => .raise e
    | .ok cell =>
      let m := m.beforeSlot n cell 32
      .done m { h with stage := BitVec.ofNat 256 (rvLoadAt m n h cell 32) } next

/-- A patch descriptor (R210): the slot, the lowest bit, the width and the copy count; `none` where it is invalid. -/
def patchOf (d : Dword) : Option (Nat × Nat × Nat × Nat) :=
  let lsb := field d 8 5
  let width := field d 16 5 + 1
  if field d 3 5 ≠ 0 ∨ field d 13 3 ≠ 0 ∨ field d 21 11 ≠ 0 ∨ 32 < lsb + width then none
  else some (field d 0 3, lsb, width, field d 32 16)

/-- e.patch (R210). -/
def patchStage (m : Mach) (h : Hart) (value desc next : Dword) : RvResult :=
  match patchOf desc with
  | none => .raise { cause := 29, tval := desc }
  | some (k, lsb, width, _) => .done m { h with stage := setField h.stage (32 * k + lsb) width value.toNat } next

/-! ### Emitting (R216 to R221) -/

/-- The core of a queue target (R208). -/
def targetCore (n : Nat) (v : Dword) : Nat := 4 * (n / 8) + v.toNat % 4

/-- The bit of a queue in mgrant and mbind (R204). -/
def queueBit (v : Dword) (q : Nat) : Nat := 2 * (v.toNat % 4) + q

/-- A queue of a core, and its occupancy (R216). -/
def Front.queue (f : Front) (q : Nat) : List Entry := if q = 0 then f.primary else f.secondary

def Mach.occupancy (m : Mach) (c q : Nat) : Nat := ((m.core c).front.queue q).length

/-- The words of a bundle, each with its slot, that R69 and R70 reject (R71). -/
def illegalWord (b : Bundle) : Option Dword :=
  (bundleWords b).findSome? (fun i => match i with
    | .illegalEncoding s w whole => some (BitVec.ofNat 64 (w.toNat + 2 ^ 32 * s.num + 2 ^ 40 * whole.toNat))
    | _ => none)

/-- A word that exchanges shape registers. -/
def hasSw : Instr → Bool
  | .xCp _ _ _ _ w _ _ _ | .xCpBs _ _ _ _ w _ _ _ | .xCpSh _ _ _ _ w _ _ | .xCpBcast _ _ _ _ w _ _ _
  | .xCpDz _ _ _ _ w _ _ _ | .xSread _ _ _ _ w _ _ | .pfTrn8 _ _ _ w | .pfTrn16 _ _ _ w | .pfTrn32 _ _ _ w
  | .pfFill _ _ w _ | .pfQnt _ _ _ w _ _ | .pfDqnt _ _ _ w _ _ | .pfUpx12 _ _ _ w | .pfPkx12 _ _ _ w
  | .pfShuf _ _ _ w _ => w = 1
  | _ => false

/-- Words that the secondary window refuses by name (R80); sc.zdef and sc.zdefh write zone registers, which lie outside
the window of R24. -/
def windowRefused : Instr → Bool
  | .scMtc .. | .scStqpop .. | .scZdef .. | .scZdefh .. | .ctArm .. | .ctMwait .. | .ctLoop .. | .ctRoff .. => true
  | .mxMstat .. => false
  | i => slotOf i = some .mx || hasSw i

/-- The window check of R80. -/
def inWindow (i : Instr) : Bool :=
  let u := useOf i
  !(windowRefused i) && u.wg.all (fun d => 56 ≤ d.toNat) && u.wv.all (fun d => 24 ≤ d.toNat)
    && u.wp.all (fun d => d.toNat = 6 || d.toNat = 7) && u.wq.all (fun d => 6 ≤ d.toNat)

/-- The first word of a bundle outside the secondary window. -/
def outsideWindow (b : Bundle) : Option Dword :=
  Slot.all.findSome? (fun s => match decodeWord s (b.word s) with
    | .ok i => if inWindow i then none else some (BitVec.ofNat 64 ((b.word s).toNat + 2 ^ 32 * s.num))
    | .error _ => none)

/-- The checks of R217, in order. -/
def emitCheck (h : Hart) (v : Dword) (q : Nat) : Option RvExc :=
  let target := v.toNat % 4 + 4 * q
  if !(bit h.mbind (queueBit v q)) then some { cause := 26, tval := BitVec.ofNat 64 (queueBit v q), target := target }
  else match illegalWord h.stage with
    | some w => some { cause := 24, tval := w, target := target }
    | none =>
      if q = 1 then (outsideWindow h.stage).map (fun w => { cause := 25, tval := w, target := target }) else none

/-- The provenance record of a bundle that a slot emits now (R211, R220). -/
def provenance (n : Nat) (h : Hart) : Dword :=
  let at_ := if h.eprov = 0 then h.pc else h.eprov
  let off := if bit at_ 0 ∨ at_ < h.mgbase ∨ 33554428 < (at_ - h.mgbase).toNat then 0xFFFFFF
    else (at_ - h.mgbase).toNat / 2
  BitVec.ofNat 64 (n / 8 + 256 * (n % 8) + 2048 * (decide (h.eprov ≠ 0)).toNat + 4096 * off + 2 ^ 36 * h.eseq.toNat)

/-- An entry enters a queue (R216). -/
def Front.push (f : Front) (q : Nat) (e : Entry) : Front :=
  if q = 0 then { f with primary := f.primary ++ [e] } else { f with secondary := f.secondary ++ [e] }

/-- Emit the staging bundle: the checks, the wait for room, and the entry; `f` says what follows in the slot. -/
def emitBundle (m : Mach) (n : Nat) (h : Hart) (v : Dword) (q : Nat) (f : Mach → Hart → RvResult) : RvResult :=
  match emitCheck h v q with
  | some e => .raise e
  | none =>
    let c := targetCore n v
    if 64 ≤ m.occupancy c q then .stay .waitRoom (some (c, q, 63))
    else
      let prov := provenance n h
      let m := m.modCore c (fun x => { x with front := x.front.push q { bundle := h.stage, prov := prov } })
      f m { h with eseq := h.eseq + 1, lastProv := prov }

/-- e.emitr: one copy (R206, R219). The pc stays until the last copy has entered. -/
def emitRepeated (m : Mach) (n : Nat) (h : Hart) (v desc inc : Dword) (q : Nat) (next : Dword) : RvResult :=
  match patchOf desc with
  | none => .raise { cause := 29, tval := desc }
  | some (k, lsb, width, copies) =>
    if copies ≤ h.eprog.toNat then .done m { h with eprog := 0 } next
    else emitBundle m n h v q (fun m h =>
      let at_ := 32 * k + lsb
      let h := { h with stage := setField h.stage at_ width (field h.stage at_ width + inc.toNat), eprog := h.eprog + 1 }
      if copies ≤ h.eprog.toNat then .done m { h with eprog := 0 } next
      else .through (m.modHart n (fun _ => { h with status := .ready, waits := none })))

/-- e.emit.a: the bundle as 32 bytes of code memory, with a ticket (R218). -/
def emitToCode (m : Mach) (n : Nat) (h : Hart) (va next : Dword) : RvResult :=
  if va.toNat % 32 ≠ 0 then .raise { cause := 6, tval := va }
  else match rvCell m n h va .emit with
    | .error e => .raise e
    | .ok cell => .done m (h.addStore ((toBytes 32 h.stage.toNat).mapIdx (fun i b => (cell + i, b))) false true) next

/-! ### Queues (R212 to R215) -/

/-- Another slot of any composer holds the binding. -/
def boundElsewhere (m : Mach) (n k : Nat) : Bool :=
  (m.comp (n / 8)).harts.any (fun e => e.1 ≠ n % 8 && bit e.2.mbind k)

/-- A ct.end bundle stands at the head of the core's primary stream (R212). DESIGN CHOICE (log 60): the bind is refused whatever
the word's guard reads there, and also while a ct.idle before it runs. -/
def headEnds (m : Mach) (c : Nat) : Bool :=
  let x := m.core c
  let words := if x.front.fed then ((x.front.primary.head?).map (fun e => bundleWords e.bundle)).getD []
    else match m.fetchBundle c x.front.pc with
      | .ok (b, _) => bundleWords b
      | .error _ => []
  words.any (fun i => match i with
    | .ctEnd _ => true
    | _ => false)

/-- The core has not ended and is part of a running launch (R214): it runs, or stands frozen (R392), or has stopped at a fault while
its launch goes on. -/
def Mach.takesPart (m : Mach) (x : CoreState) : Bool :=
  match x.reg.status with
  | .running => true
  | .frozen => true
  | .faulted | .exhausted => match m.launch x.reg.launch with
    | some l => l.status = .running
    | none => false
  | _ => false

/-- The bind is refused (R212). -/
def bindRefused (m : Mach) (n : Nat) (h : Hart) (v : Dword) (q : Nat) : Bool :=
  let k := queueBit v q
  let x := m.core (targetCore n v)
  !(bit h.mgrant k) || boundElsewhere m n k || (decide (q = 0) && !x.front.fed) || x.reg.status = .ended
    || (m.takesPart x && headEnds m (targetCore n v))

/-- e.bind (R212). -/
def bindQueue (m : Mach) (n : Nat) (h : Hart) (v : Dword) (q : Nat) (next : Dword) : RvResult :=
  let k := queueBit v q
  if bit h.mbind k then .done m h next
  else if bindRefused m n h v q then
    .raise { cause := 27, tval := BitVec.ofNat 64 k, target := v.toNat % 4 + 4 * q }
  else
    let m := if q = 1 then m.modCore (targetCore n v) (fun x => { x with front.bound := true }) else m
    .done m { h with mbind := setBit h.mbind k true, lapsed := setBit h.lapsed k false } next

/-- The value of e.qst (R214). -/
def queueStatus (m : Mach) (n : Nat) (h : Hart) (v : Dword) (q : Nat) : Dword :=
  let c := targetCore n v
  let k := queueBit v q
  let x := m.core c
  BitVec.ofNat 64 (m.occupancy c q + 256 * (bit h.mbind k).toNat + 512 * (boundElsewhere m n k).toNat
    + 1024 * (!(m.takesPart x)).toNat + 2048 * x.front.paused.toNat)

/-- e.wait (R215). -/
def waitQueue (m : Mach) (n : Nat) (h : Hart) (v limit : Dword) (q : Nat) (next : Dword) : RvResult :=
  let k := queueBit v q
  let c := targetCore n v
  let l := min 64 limit.toNat
  if !(bit h.mbind k || bit h.lapsed k) then
    .raise { cause := 26, tval := BitVec.ofNat 64 k, target := v.toNat % 4 + 4 * q }
  else if m.occupancy c q ≤ l then .done m h next
  else .stay .waitOccupancy (some (c, q, l))

/-! ### Instructions -/

/-- e.clr K (R209) -/
def execEClr (k : BitVec 3) (s : State) : Host.Outcome State Fault Refusal :=
  emitInstr (fun m _ h next => .done m (h.setStage k.toNat 0) next) s

/-- e.clr.all (R209) -/
def execEClrAll (s : State) : Host.Outcome State Fault Refusal :=
  emitInstr (fun m _ h next => .done m { h with stage := 0 } next) s

/-- e.set (R209) -/
def execESet (k : BitVec 3) (a : BitVec 5) (s : State) : Host.Outcome State Fault Refusal :=
  emitInstr (fun m _ h next => .done m (h.setStage k.toNat (h.xAt a).toNat) next) s

/-- e.tpl (R209) -/
def execETpl (i : BitVec 12) (a : BitVec 5) (s : State) : Host.Outcome State Fault Refusal :=
  emitInstr (fun m n h next => loadTemplate m n h (h.xAt a + i.signExtend 64) next) s

/-- e.patch (R210) -/
def execEPatch (b a : BitVec 5) (s : State) : Host.Outcome State Fault Refusal :=
  emitInstr (fun m _ h next => patchStage m h (h.xAt a) (h.xAt b) next) s

/-- e.prov (R211) -/
def execEProv (a : BitVec 5) (s : State) : Host.Outcome State Fault Refusal :=
  emitInstr (fun m _ h next => .done m { h with eprov := h.xAt a } next) s

/-- e.emit.p (R217) -/
def execEEmitP (a : BitVec 5) (s : State) : Host.Outcome State Fault Refusal :=
  emitInstr (fun m n h next => emitBundle m n h (h.xAt a) 0 (fun m h => .done m h next)) s

/-- e.emit.s (R217) -/
def execEEmitS (a : BitVec 5) (s : State) : Host.Outcome State Fault Refusal :=
  emitInstr (fun m n h next => emitBundle m n h (h.xAt a) 1 (fun m h => .done m h next)) s

/-- e.emit.a (R218) -/
def execEEmitA (a : BitVec 5) (s : State) : Host.Outcome State Fault Refusal :=
  emitInstr (fun m n h next => emitToCode m n h (h.xAt a) next) s

/-- e.emitr.p (R219) -/
def execEEmitrP (c b a : BitVec 5) (s : State) : Host.Outcome State Fault Refusal :=
  emitInstr (fun m n h next => emitRepeated m n h (h.xAt a) (h.xAt b) (h.xAt c) 0 next) s

/-- e.emitr.s (R219) -/
def execEEmitrS (c b a : BitVec 5) (s : State) : Host.Outcome State Fault Refusal :=
  emitInstr (fun m n h next => emitRepeated m n h (h.xAt a) (h.xAt b) (h.xAt c) 1 next) s

/-- e.qst (R214) -/
def execEQst (q : BitVec 1) (a d : BitVec 5) (s : State) : Host.Outcome State Fault Refusal :=
  emitInstr (fun m n h next => .done m (h.setX d (queueStatus m n h (h.xAt a) q.toNat)) next) s

/-- e.wait (R215) -/
def execEWait (q : BitVec 1) (b a : BitVec 5) (s : State) : Host.Outcome State Fault Refusal :=
  emitInstr (fun m n h next => waitQueue m n h (h.xAt a) (h.xAt b) q.toNat next) s

/-- e.bind (R212) -/
def execEBind (q : BitVec 1) (a : BitVec 5) (s : State) : Host.Outcome State Fault Refusal :=
  emitInstr (fun m n h next => bindQueue m n h (h.xAt a) q.toNat next) s

/-- An environment call of the slot that State names: from M-mode it is the standard's exception 11. -/
def callInstr (f : Mach → Nat → Dword → RvResult) (s : State) : Host.Outcome State Fault Refusal :=
  let h := s.mach.hart s.hart
  let r := if h.user then f s.mach s.hart (h.pc + 4) else .raise { cause := 11 }
  .next { s with mach := r.apply s.hart s.mach }

/-- ecall with a7 = 0 (R217, R401) -/
def execEcallEnd (s : State) : Host.Outcome State Fault Refusal := callInstr (fun m n _ => ecallEnd m n) s

/-- ecall with a7 = 1 (R401) -/
def execEcallLog (s : State) : Host.Outcome State Fault Refusal := callInstr ecallLog s

/-- ecall with a7 = 2 (R401) -/
def execEcallYield (s : State) : Host.Outcome State Fault Refusal := callInstr ecallYield s

/-- ecall with any other a7 (R401) -/
def execEcallUnknown (s : State) : Host.Outcome State Fault Refusal := callInstr ecallUnknown s

/-! ### One instruction of a composer (R206) -/

/-- A slot that waits becomes ready when what it waits for has come. -/
def wake (m : Mach) (h : Hart) : Hart :=
  let occ : Bool := match h.waits with
    | some (c, q, l) => decide (m.occupancy c q ≤ l)
    | none => true
  let go : Bool := match h.status with
    | .waitRoom => occ
    | .waitOccupancy => occ
    | .waitMemory => h.fenced m.vclk
    | .wfi => h.msip && h.msie
    | _ => false
  if h.status = .wfi && h.interrupted then h
  else if go || (h.interrupted && h.status ≠ .free && h.status ≠ .stopped) then { h with status := .ready, waits := none }
  else h

/-- A slot may be given its turn: it is ready, or an interrupt ends its wfi (R203, R206). -/
def Hart.turn (h : Hart) : Bool := h.status = .ready || (h.status = .wfi && h.interrupted)

/-- The next ready slot after the current one, in round-robin order. -/
def nextSlot (k : Composer) : Option Nat :=
  ((List.range 8).map (fun i => (k.current + 1 + i) % 8)).find? (fun i => (k.hart i).turn)

/-- The slot that executes: the current one while it is ready and has had fewer than 64 instructions, else the next. -/
def Composer.pick (k : Composer) : Option (Nat × Composer) :=
  if (k.hart k.current).turn && decide (k.run < 64) then some (k.current, { k with run := k.run + 1 })
  else (nextSlot k).map (fun i => (i, { k with current := i, run := 1 }))

/-- Fetch at the pc of a slot: 2 bytes, and 2 more where the word is a long one. -/
def rvFetch (m : Mach) (n : Nat) (h : Hart) : Except RvExc (BitVec 32) :=
  match rvCell m n h h.pc .fetch with
  | .error e => .error e
  | .ok cell =>
    let mem := m.seenMem (dieOfSlot n)
    let low := Mem.load mem cell 2
    if low % 4 ≠ 3 then .ok (BitVec.ofNat 32 low)
    else match rvCell m n h (h.pc + 2) .fetch with
      | .error e => .error e
      | .ok cell' => .ok (BitVec.ofNat 32 (low + 65536 * Mem.load mem cell' 2))

/-- The instruction that a word means in a slot: an ecall of a generator is one of the calls of R401. -/
def slotInstr (h : Hart) (w : BitVec 32) : Instr :=
  match decodeComposer w, h.user with
  | .rv64imacInstruction .ecall _, true => match (h.xAt 17).toNat with
    | 0 => .ecallEnd
    | 1 => .ecallLog
    | 2 => .ecallYield
    | _ => .ecallUnknown
  | i, _ => i

/-- ONE INSTRUCTION OF A COMPOSER: an interrupt that is due, a fetch that fails, or the instruction at the pc of the slot
whose turn it is. -/
def composeCycle (ex : Exec) (k : Nat) (s : State) : Host.Outcome State Fault Refusal :=
  let tick := fun (h : Hart) => wake s.mach { h with cycle := h.cycle + 1 }
  let m := s.mach.modComp k (fun c => { c with harts := c.harts.map (fun e => (e.1, tick e.2)) })
  match (m.comp k).pick with
  | none => .next { s with mach := m }
  | some (i, c) =>
    let m := m.modComp k (fun _ => c)
    let n := 8 * k + i
    let h := m.hart n
    if h.interrupted then
      .next { s with mach := (m.rvInterrupt n (decide (h.status = .wfi))).modHart n (fun h => { h with status := .ready }) }
    else match rvFetch m n h with
      | .error e => .next { s with mach := m.rvTrap n e }
      | .ok w => ex (slotInstr h w) { s with mach := m, hart := n }

/-! ### Events of a composer -/

/-- COMPOSER_SLOT_SWITCH: the current slot has had its 64 instructions, or is not ready; the composer moves on (R206). -/
def execComposerSlotSwitch (s : State) : Host.Outcome State Fault Refusal :=
  let k := s.arg.agent
  let c := s.mach.comp k
  let go := decide (64 ≤ c.run) || !((c.hart c.current).turn)
  .next (match go, nextSlot c with
    | true, some i => { s with mach := s.mach.modComp k (fun c => { c with current := i, run := 0 }) }
    | _, _ => s)

/-- EMIT_QUEUE_ROOM: a slot that waits for room in a queue that has room again is ready, and its emit is made again (R221). -/
def execEmitQueueRoom (s : State) : Host.Outcome State Fault Refusal :=
  let n := s.arg.agent
  .next { s with mach := s.mach.modHart n (fun h => if h.status = .waitRoom then wake s.mach h else h) }

end Sys2Proof.Machine
end

