-- ==== Sys2Proof/Machine/Float.lean ====
section
/-! DEFINITION. Number formats and exact arithmetic with one rounding (R31 to R46). -/

namespace Sys2Proof.Machine

/-! ### Formats and values (R31, R35) -/

/-- A floating-point format: widths of its exponent and fraction (R31). -/
structure Fmt where
  ebits : Nat
  fbits : Nat
  deriving DecidableEq, Repr

def fp32 : Fmt := { ebits := 8, fbits := 23 }
def fp16 : Fmt := { ebits := 5, fbits := 10 }
def bf16 : Fmt := { ebits := 8, fbits := 7 }

/-- The exponent of the unit of the subnormal range. -/
def Fmt.emin (f : Fmt) : Int := 2 - 2 ^ (f.ebits - 1) - f.fbits

/-- The exponent field of infinities and NaNs. -/
def Fmt.top (f : Fmt) : Nat := 2 ^ f.ebits - 1

/-- The sign bit. -/
def Fmt.sign (f : Fmt) (neg : Bool) : Nat := if neg then 2 ^ (f.ebits + f.fbits) else 0

/-- The canonical NaN (R35). -/
def Fmt.qnan (f : Fmt) : Nat := f.top * 2 ^ f.fbits + 2 ^ (f.fbits - 1)

def Fmt.inf (f : Fmt) (neg : Bool) : Nat := f.sign neg + f.top * 2 ^ f.fbits

def Fmt.zero (f : Fmt) (neg : Bool) : Nat := f.sign neg

/-- The largest finite value. -/
def Fmt.largest (f : Fmt) (neg : Bool) : Nat := f.sign neg + f.top * 2 ^ f.fbits - 1

/-- A value: a NaN, an infinity, or sign · mant · 2^exp. -/
inductive Num where
  | nan (signalling : Bool)
  | inf (neg : Bool)
  | fin (neg : Bool) (mant : Nat) (exp : Int)
  deriving DecidableEq, Repr

/-- The value of a bit pattern; subnormals are kept (R37). -/
def Fmt.unpack (f : Fmt) (x : Nat) : Num :=
  let frac := x % 2 ^ f.fbits
  let e := x / 2 ^ f.fbits % 2 ^ f.ebits
  let neg := x / 2 ^ (f.ebits + f.fbits) % 2 = 1
  if e = f.top then (if frac = 0 then .inf neg else .nan (frac < 2 ^ (f.fbits - 1)))
  else if e = 0 then .fin neg frac f.emin
  else .fin neg (frac + 2 ^ f.fbits) (f.emin + e - 1)

def Num.isNan : Num → Bool
  | .nan _ => true | _ => false

def Num.signalling : Num → Bool
  | .nan s => s | _ => false

def Num.isZero : Num → Bool
  | .fin _ 0 _ => true | _ => false

def Num.neg : Num → Bool
  | .nan _ => false | .inf n => n | .fin n _ _ => n

/-- The value with its sign inverted. -/
def Num.opposite : Num → Num
  | .nan s => .nan s | .inf n => .inf (!n) | .fin n m e => .fin (!n) m e

/-! ### Rounding (R38 to R40) -/

/-- A rounding mode; the stochastic one carries its 32-bit hash. -/
inductive Mode where
  | rn | rz | rs (hash : Nat)
  deriving DecidableEq, Repr

/-- Mix of R40. -/
def mix (x : BitVec 32) : BitVec 32 :=
  let x := x ^^^ (x >>> 16)
  let x := x * 0x7FEB352D
  let x := x ^^^ (x >>> 15)
  let x := x * 0x846CA68B
  x ^^^ (x >>> 16)

/-- Hash of R40. -/
def hash40 (seed : BitVec 32) (core lane idx : Nat) : Nat :=
  (mix (mix (seed ^^^ BitVec.ofNat 32 (core * 64 + lane)) ^^^ BitVec.ofNat 32 idx)).toNat

/-- The mode of a rnd field under FRM (R38), for one element. -/
def modeOf (rnd frm : BitVec 2) (hash : Nat) : Mode :=
  let m := if rnd = 3 then frm else rnd
  if m = 1 then .rz else if m = 2 then .rs hash else .rn

/-- N / D rounded to an integer (R40 in the stochastic mode). -/
def roundQuotient (mode : Mode) (N D : Nat) : Nat :=
  let n := N / D
  let r := N % D
  match mode with
  | .rz => n
  | .rn => if D < 2 * r ∨ (2 * r = D ∧ n % 2 = 1) then n + 1 else n
  | .rs h => if 2 ^ 32 ≤ r * 2 ^ 32 / D + h then n + 1 else n

/-- mant · 2^(exp − grid) as a quotient of two numbers. -/
def onGrid (mant : Nat) (exp grid : Int) : Nat × Nat :=
  if grid ≤ exp then (mant * 2 ^ (exp - grid).toNat, 1) else (mant, 2 ^ (grid - exp).toNat)

/-- Round a magnitude to an integer. -/
def roundToInt (mode : Mode) (mant : Nat) (exp : Int) : Nat :=
  let q := onGrid mant exp 0
  roundQuotient mode q.1 q.2

/-- A result with the numerical events it gives rise to. -/
structure Scored where
  bits : Nat
  events : List (BitVec 8) := []
  deriving DecidableEq, Repr

/-- Round an exact value to a format (R36, R37, R39). -/
def Fmt.round (f : Fmt) (mode : Mode) (neg : Bool) (mant : Nat) (exp : Int) : Scored :=
  if mant = 0 then { bits := f.zero neg }
  else
    let binade : Int := Nat.log2 mant + exp
    let grid := max f.emin (binade - f.fbits)
    let q := onGrid mant exp grid
    let n := roundQuotient mode q.1 q.2
    let bits := (grid - f.emin).toNat * 2 ^ f.fbits + n
    if f.top * 2 ^ f.fbits ≤ bits then
      { bits := if mode = .rz then f.largest neg else f.inf neg, events := [0x21] }
    else { bits := f.sign neg + bits }

/-! ### Exact sums and products (R36) -/

/-- A signed magnitude as an integer on a grid not above its exponent. -/
def termOn (grid : Int) (t : Bool × Nat × Int) : Int :=
  let v : Int := (t.2.1 * 2 ^ (t.2.2 - grid).toNat : Nat)
  if t.1 then -v else v

/-- The exact sum of finite terms: sign, magnitude, exponent. A zero sum is −0 only when every term is −0 (R36). -/
def sumTerms (l : List (Bool × Nat × Int)) : Bool × Nat × Int :=
  let grid := (l.map (fun t => t.2.2)).foldl min ((l.head?.map (fun t => t.2.2)).getD 0)
  let s := (l.map (termOn grid)).foldl (· + ·) 0
  if s = 0 then (l.all (fun t => t.1 && t.2.1 = 0), 0, grid) else (decide (s < 0), s.natAbs, grid)

/-- A product; none where it is invalid: 0 · infinity (R36). -/
def Num.mul : Num → Num → Option Num
  | .nan s, b => some (.nan (s || b.signalling))
  | a, .nan s => some (.nan (s || a.signalling))
  | .inf m, b => if b.isZero then none else some (.inf (m != b.neg))
  | a, .inf n => if a.isZero then none else some (.inf (a.neg != n))
  | .fin m x e, .fin n y g => some (.fin (m != n) (x * y) (e + g))

/-- A sum; none where it is invalid: infinity − infinity (R36). -/
def Num.add : Num → Num → Option Num
  | .nan s, b => some (.nan (s || b.signalling))
  | a, .nan s => some (.nan (s || a.signalling))
  | .inf m, .inf n => if m = n then some (.inf m) else none
  | .inf m, .fin _ _ _ => some (.inf m)
  | .fin _ _ _, .inf n => some (.inf n)
  | .fin m x e, .fin n y g => let r := sumTerms [(m, x, e), (n, y, g)]; some (.fin r.1 r.2.1 r.2.2)

/-- The invalid event of operands, one of which is a signalling NaN (R35). -/
def readEvents (l : List Num) : List (BitVec 8) := if l.any Num.signalling then [0x20] else []

/-- Round an exact result: a NaN is canonical (R35), an invalid operation gives it with an event (R36, R59). -/
def Fmt.finish (f : Fmt) (mode : Mode) (operands : List Num) (r : Option Num) : Scored :=
  match r with
  | none => { bits := f.qnan, events := [0x20] }
  | some (.nan _) => { bits := f.qnan, events := readEvents operands }
  | some (.inf n) => { bits := f.inf n, events := readEvents operands }
  | some (.fin n m e) => let s := f.round mode n m e; { s with events := readEvents operands ++ s.events }

/-- a · b + c rounded once; 0 · infinity is invalid whatever c holds (R136). -/
def fmaNum (a b c : Num) : Option Num :=
  match a.mul b with
  | none => none
  | some p => p.add c

/-! ### Comparison (R137, R142, R145) -/

/-- The order of two finite or infinite values, −0 and +0 equal. -/
def Num.lt : Num → Num → Bool
  | .nan _, _ => false
  | _, .nan _ => false
  | .inf m, .inf n => m && !n
  | .inf m, .fin _ _ _ => m
  | .fin _ _ _, .inf n => !n
  | .fin m x e, .fin n y g =>
    let grid := min e g
    decide (termOn grid (m, x, e) < termOn grid (n, y, g))

/-- Equal values; a NaN equals nothing. -/
def Num.eqv (a b : Num) : Bool := !a.isNan && !b.isNan && !a.lt b && !b.lt a

/-- The order that takes −0 as less than +0 (R137). -/
def Num.below (a b : Num) : Bool :=
  a.lt b || (a.isZero && b.isZero && a.neg && !b.neg)

/-! ### Clamping (R41, R42) -/

/-- Clamp an integer to a range, with a saturation event. -/
def clampTo (lo hi v : Int) (w : Nat) : Scored :=
  if v < lo then { bits := unsignedOf w lo, events := [0x23] }
  else if hi < v then { bits := unsignedOf w hi, events := [0x23] }
  else { bits := unsignedOf w v }

/-- Floating point to an integer type (R42). -/
def Num.toInt (x : Num) (mode : Mode) (lo hi : Int) (w : Nat) : Scored :=
  match x with
  | .nan _ => { bits := 0, events := [0x20] }
  | .inf n => { bits := unsignedOf w (if n then lo else hi), events := [0x23] }
  | .fin n m e => let v : Int := roundToInt mode m e; clampTo lo hi (if n then -v else v) w

/-- An integer to FP32 (R42). -/
def intToFp32 (mode : Mode) (v : Int) : Scored := fp32.round mode (decide (v < 0)) v.natAbs 0

/-! ### SX blocks (R43 to R46) -/

/-- The magnitude width of a width code (R44); code 3 is reserved. -/
def sxWidth (code : Nat) : Nat := if code = 0 then 7 else if code = 1 then 4 else 2

/-- Why a header is a poison block in the width that its reader names (R44, R45): header-width, then poison. -/
def sxEvents (header code : Nat) : List (BitVec 8) :=
  if header / 2 ^ 20 % 4 ≠ code then [0x24, 0x25] else if header % 256 = 255 then [0x24] else []

/-- Element `e` (0–15) of a block, or none of a poison block (R43, R45). `raw` holds its 1 + mw bits. DESIGN CHOICE (log 107): an
element with s = 1 and M = 0 is −0; the spec gives its value only. -/
def sxElement (header code e raw : Nat) : Option Num :=
  if sxEvents header code ≠ [] then none
  else
    let mw := sxWidth code
    let E := header % 256
    let F := header / 256 % 16
    let p := header / 2 ^ (12 + e / 2) % 2
    some (.fin (raw / 2 ^ mw % 2 = 1) (raw % 2 ^ mw * (16 + F)) ((E : Int) - 127 - 4 - (p : Int)))

/-- The raw bits of an element of a payload plane read as one number from the block's first byte (R43). -/
def sxRaw (payload mw e : Nat) : Nat := payload / 2 ^ (e * (1 + mw)) % 2 ^ (1 + mw)

/-- The magnitudes as integers on one grid. -/
def finiteMagnitude (grid : Int) : Num → Nat
  | .fin _ m e => m * 2 ^ (e - grid).toNat
  | _ => 0

/-- The least (E, F) by Scale with Scale ≥ amax / qmax (R46): amax is `top` · 2^grid. Scale(E, F) · qmax ≥ amax is
(16 + F) · qmax · 2^(E − 131) ≥ top · 2^grid. The scan is over E from 0, F from 0. -/
def sxScaleFits (qmax top : Nat) (grid : Int) (E F : Nat) : Bool :=
  let s : Int := (E : Int) - 131 - grid
  if 0 ≤ s then decide (top ≤ (16 + F) * qmax * 2 ^ s.toNat) else decide (top * 2 ^ (-s).toNat ≤ (16 + F) * qmax)

def sxLeastScale (qmax top : Nat) (grid : Int) : Nat × Nat :=
  match (List.range 255).find? (fun E => sxScaleFits qmax top grid E 15) with
  | some E => (E, ((List.range 16).find? (fun F => sxScaleFits qmax top grid E F)).getD 15)
  | none => (254, 15)

/-- Quantise 16 values into a block (R46): its header, its payload as a number, and for each event the element. `mode`
gives the rounding of an element. DESIGN CHOICE (log 102): the poison event of a block bears the index of its first NaN element. -/
def sxQuantise (x : List Num) (code : Nat) (mode : Nat → Mode) : Nat × Nat × List (BitVec 8 × Nat) :=
  let mw := sxWidth code
  let qmax := 2 ^ mw - 1
  let sig := (List.range 16).filterMap (fun e => if ((x[e]?).map Num.signalling).getD false then some (0x20, e) else none)
  if x.any Num.isNan then
    (255 + code * 2 ^ 20, 0, sig ++ [(0x24, ((List.range 16).find? (fun e => ((x[e]?).map Num.isNan).getD false)).getD 0)])
  else if x.all Num.isZero then (code * 2 ^ 20, 0, [])
  else
    let exps := x.filterMap (fun v => match v with
      | .fin _ _ e => some e
      | _ => none)
    let grid := exps.foldl min (exps.head?.getD 0)
    let mags := x.map (finiteMagnitude grid)
    let top := mags.foldl max 0
    let EF := sxLeastScale qmax top grid
    let unit := 16 + EF.2
    let s : Int := (EF.1 : Int) - 131 - grid
    let up := fun (v : Nat) (k : Int) => v * 2 ^ k.toNat
    let small := fun (v : Num) (m : Nat) => match v with
      | .fin _ _ _ => decide (up (2 * m) (-s) ≤ up (qmax * unit) s)
      | _ => false
    let pair := fun (j : Nat) => small (x[2 * j]?.getD (.nan false)) (mags[2 * j]?.getD 0)
      && small (x[2 * j + 1]?.getD (.nan false)) (mags[2 * j + 1]?.getD 0)
    let element := fun (e : Nat) =>
      let p := (pair (e / 2)).toNat
      match x[e]?.getD (.nan false) with
      | .inf n => (qmax + n.toNat * 2 ^ mw, true)
      | v =>
        let M := roundQuotient (mode e) (up (mags[e]?.getD 0) (-(s - p))) (up unit (s - p))
        let sat := decide (qmax < M)
        let M := min M qmax
        (M + (if M ≠ 0 && v.neg then 2 ^ mw else 0), sat)
    let elems := (List.range 16).map element
    let payload := elems.foldr (fun v acc => v.1 + 2 ^ (1 + mw) * acc) 0
    let pairs := (List.range 8).foldr (fun j acc => (pair j).toNat + 2 * acc) 0
    (EF.1 + 256 * EF.2 + 4096 * pairs + code * 2 ^ 20, payload,
      (List.range 16).filterMap (fun e => if ((elems[e]?).map (·.2)).getD false then some (0x23, e) else none))

end Sys2Proof.Machine
end

