-- ==== Sys2Proof/Machine/Flags.lean ====
section
/-! DEFINITION. The numerical events of a word or of an engine command (R59, R60): the flags of this machine. -/

namespace Sys2Proof.Machine

/-- Occurrences by kind: the kind code, the count and the index of the first, in ascending kind (R60). -/
abbrev Tally := List (BitVec 8 × Nat × Nat)

/-- One more occurrence of a kind at an index. -/
def Tally.add : Tally → BitVec 8 → Nat → Tally
  | [], k, idx => [(k, 1, idx)]
  | (j, n, first) :: r, k, idx =>
    if k = j then (j, n + 1, first) :: r
    else if k.toNat < j.toNat then (k, 1, idx) :: (j, n, first) :: r
    else (j, n, first) :: Tally.add r k idx

/-- The occurrences of an element at an index. -/
def Tally.addAll (t : Tally) (kinds : List (BitVec 8)) (idx : Nat) : Tally :=
  kinds.eraseDups.foldl (fun t k => t.add k idx) t

/-- The occurrences of a list of elements taken in order. -/
def tally (l : List (List (BitVec 8) × Nat)) : Tally := l.foldl (fun t e => t.addAll e.1 e.2) []

/-- The occurrences of two parts of a command, the lower of two first indexes kept (R60). -/
def Tally.join (t u : Tally) : Tally :=
  u.foldl (fun t e => match t.find? (fun x => x.1 = e.1) with
    | some _ => t.map (fun x => if x.1 = e.1 then (x.1, x.2.1 + e.2.1, min x.2.2 e.2.2) else x)
    | none => (t.filter (fun x => decide (x.1.toNat < e.1.toNat))) ++ e :: t.filter (fun x => decide (e.1.toNat < x.1.toNat))) t

/-- The event records of a word (R60). -/
def Tally.events (t : Tally) (slot : Nat) (stream : Stream) : List Event :=
  t.map (fun e => { kind := e.1, slot := slot, stream := stream, count := e.2.1, first := e.2.2 })

end Sys2Proof.Machine
end

