-- ==== Sys2Proof/Machine/Views.lean ====
section
/-! DEFINITION. Shape registers and views: field layouts (R167, R169), the exchange of sw (R26), addresses of elements and
covering intervals (R162, R168), the shape check and its report (R168), and how an engine word issues its command
(R160 to R164, R198, R271). -/

namespace Sys2Proof.Machine

/-! ### Layouts (R167, R169) -/

/-- The first bit and the width of a field of a view. -/
def viewField : Nat → Option (Nat × Nat)
  | 0 => some (0, 64) | 1 => some (64, 16) | 2 => some (80, 16) | 3 => some (96, 32) | 4 => some (128, 32)
  | 5 => some (160, 2) | 6 => some (162, 1) | 7 => some (163, 2) | 8 => some (176, 4) | 9 => some (180, 12)
  | 10 => some (192, 32) | _ => none

/-- The first bit and the width of a field of an MX shape. -/
def mxField : Nat → Option (Nat × Nat)
  | 0 => some (0, 32) | 1 => some (32, 16) | 2 => some (48, 32) | 3 => some (80, 16) | 4 => some (96, 18)
  | 5 => some (114, 18) | 6 => some (132, 12) | 7 => some (144, 4) | 8 => some (148, 7) | 9 => some (155, 7)
  | 10 => some (162, 11) | 11 => some (176, 16) | 12 => some (192, 32) | 13 => some (224, 32) | _ => none

/-- The layout of an engine's shape registers: engine 0 is MX. -/
def shapeField (engine n : Nat) : Option (Nat × Nat) := if engine = 0 then mxField n else viewField n

/-- The value of a field of a shape. -/
def getField (engine : Nat) (s : BitVec 256) (n : Nat) : Nat :=
  match shapeField engine n with
  | some (lo, len) => field s lo len
  | none => 0

/-- One field written, cut to its width; an undefined number is ignored (R107). -/
def putField (engine : Nat) (s : BitVec 256) (n v : Nat) : BitVec 256 :=
  match shapeField engine n with
  | some (lo, len) => setField s lo len v
  | none => s

/-- Write a shape register pair of engine `e`. -/
def CoreState.setShape (x : CoreState) (e r : Nat) (p : ShapePair) : CoreState :=
  { x with regs.shapes := Sparse.set {} x.regs.shapes (4 * e + r) p }

/-- The engine of a slot, as shape registers number it. -/
def engineOf : Nat → Nat
  | 4 => 0 | 5 => 1 | 6 => 2 | _ => 3

/-- The shape a word reads: the shadow, when sw exchanges the two first (R26, R160). -/
def shapeFor (x : CoreState) (e r : Nat) (w : BitVec 1) : BitVec 256 :=
  if w = 1 then (x.regs.shape e r).shadow else (x.regs.shape e r).active

/-- The exchange of sw on the registers a word names, from the pairs as the issue found them (R26, R72). -/
def exchange (iss : Issue) (e : Nat) (w : BitVec 1) (rs : List Nat) (m : Mach) : Mach :=
  if w = 0 then m
  else m.modCore iss.core (fun x => rs.foldl (fun x r =>
    let p := iss.x.regs.shape e r
    x.setShape e r { active := p.shadow, shadow := p.active }) x)

/-! ### Elements of a view (R168) -/

def View.ext0 (v : View) : Nat := field v.shape 64 16
def View.ext1 (v : View) : Nat := field v.shape 80 16
def View.str0 (v : View) : Int := signedOf 32 (field v.shape 96 32)
def View.str1 (v : View) : Int := signedOf 32 (field v.shape 128 32)
def View.size (v : View) : Nat := 2 ^ field v.shape 160 2
def View.isGlobal (v : View) : Bool := bit v.shape 162
def View.few (v : View) : Nat := field v.shape 163 2
def View.offset (v : View) : Nat := field v.shape 0 64

/-- The number of elements. -/
def View.count (v : View) : Nat := (v.ext0 + 1) * (v.ext1 + 1)

/-- The address of element t, from the view's base. -/
def View.addr (v : View) (t : Nat) : Int :=
  (v.base : Int) + ((t / (v.ext0 + 1) : Nat) : Int) * v.str1 + ((t % (v.ext0 + 1) : Nat) : Int) * v.str0

/-- The covering interval: first and last byte (R162). -/
def View.cover (v : View) : Int × Int :=
  let a := (v.ext1 : Int) * v.str1
  let b := (v.ext0 : Int) * v.str0
  ((v.base : Int) + min 0 a + min 0 b, (v.base : Int) + max 0 a + max 0 b + (v.size : Int) - 1)

/-! ### Places (R168, R264, R265, R256) -/

/-- The local spaces a command may use, by selector: 0 CSP, 1 CLM, 2 DSM, 3 constant store. -/
abbrev Selectors := List Nat

/-- The size of a space by its selector (R264). -/
def spaceSize : Nat → Nat
  | 0 => 0x300000 | 1 => 0x400000 | 2 => 0x2000000 | 3 => 0x10000 | _ => 0

/-- The first byte of lo to hi that lies outside the spaces allowed, the core's share or the die it holds; lo and hi are
L-addresses. -/
def Mach.firstOutside (m : Mach) (c : Nat) (allowed : Selectors) (lo hi : Int) : Option Int :=
  if lo < 0 then some lo
  else
    let l := lo.toNat
    let h := hi.toNat
    let sel := l / 2 ^ 28
    let off := l % 2 ^ 28
    let size := spaceSize sel
    if !(allowed.contains sel) || decide (size ≤ off) then some lo
    else if sel = 2 && decide ((m.die (dieOf c)).claim ≠ some (m.core c).reg.launch) then some lo
    else
      let last := min (h - l + off) (size - 1)
      let share := if sel ≠ 1 then none
        else ((List.range (min 4 (last / 4096 - off / 4096 + 1))).map (fun k => off / 4096 + k)).find?
          (fun b => !(m.sameLaunch c (4 * clusterOf c + b % 4)))
      match share with
      | some b => some ((sel * 2 ^ 28 + max off (4096 * b) : Nat) : Int)
      | none => if size ≤ h - l + off then some ((sel * 2 ^ 28 + size : Nat) : Int) else none

/-- The space of an L-address. -/
def spaceAt (c l : Nat) : Space :=
  match l / 2 ^ 28 with
  | 0 => .csp c
  | 1 => .clm (clusterOf c)
  | 2 => .dsm (dieOf c)
  | _ => .const c

/-- An interval of L-addresses lo to hi in one space (R162). -/
def intervalOf (c : Nat) (lo hi : Nat) (write : Bool) : Interval :=
  { space := spaceAt c lo, lo := lo % 2 ^ 28, hi := lo % 2 ^ 28 + (hi - lo), write := write }

/-- Merge the intervals of one space and one direction: one interval for each (R162). -/
def mergeIntervals (l : List Interval) : List Interval :=
  l.foldl (fun acc v =>
    match acc.find? (fun a => a.space = v.space && a.write = v.write) with
    | some _ => acc.map (fun a => if a.space = v.space && a.write = v.write then
        { a with lo := min a.lo v.lo, hi := max a.hi v.hi } else a)
    | none => acc ++ [v]) []

/-! ### The shape check (R168) -/

/-- A failure: the shape register, the field, and the first address outside where it is one of place. -/
structure ShapeFail where
  reg : Nat
  fld : Nat
  taddr : Dword := 0
  deriving DecidableEq, Repr

/-- Its trap. -/
def ShapeFail.stop (f : ShapeFail) (slot : Nat) : Stop :=
  .trap { cause := 5, taddr := f.taddr,
          tval := BitVec.ofNat 64 (f.fld + 256 * f.reg + 2 ^ 32 * slot + 2 ^ 41) }

/-- A failure of place at an address. -/
def placeFail (reg fld : Nat) (a : Int) : ShapeFail := { reg := reg, fld := fld, taddr := BitVec.ofInt 64 a }

/-- The failing check of lowest row in table order. -/
def firstFail (l : List (Option ShapeFail)) : Option ShapeFail := l.findSome? id

/-- A condition as a check. -/
def failIf (b : Bool) (reg fld : Nat) : Option ShapeFail := if b then some { reg := reg, fld := fld } else none

/-- The limits of one view on its own fields, lowest field first; `glob` says what GLOB must be, if anything, and `extra`
holds further limits by field. -/
def ownLimits (v : View) (reg : Nat) (dst : Bool) (glob : Option Bool) (extra : List (Nat × Bool)) : Option ShapeFail :=
  let more := fun n => extra.any (fun e => e.1 = n && e.2)
  let bad := fun n =>
    more n || (match n with
      | 0 => (!v.isGlobal && decide (2 ^ 32 ≤ v.offset)) || decide (v.offset % v.size ≠ 0)
      | 3 => decide (v.str0 % (v.size : Int) ≠ 0)
      | 4 => decide (v.str1 % (v.size : Int) ≠ 0)
      | 6 => (match glob with
        | some b => v.isGlobal != b
        | none => false)
      | 7 => v.few = 3 || (dst && v.few = 2) || (v.few ≠ 0 && (v.isGlobal || decide (3 ≤ v.offset / 2 ^ 28)))
      | _ => false)
  ((List.range 11).find? bad).map (fun n => { reg := reg, fld := n })

/-- The place of a local view. -/
def placeOf (m : Mach) (c : Nat) (v : View) (reg : Nat) (allowed : Selectors) : Option ShapeFail :=
  if v.isGlobal then none
  else (m.firstOutside c allowed v.cover.1 v.cover.2).map (placeFail reg 0)

/-- Covering intervals of two views of one memory meet: both local in one space, or both global. -/
def viewsMeet (a b : View) : Bool :=
  a.isGlobal = b.isGlobal && (a.isGlobal || decide (a.offset / 2 ^ 28 = b.offset / 2 ^ 28))
    && decide (a.cover.1 ≤ b.cover.2) && decide (b.cover.1 ≤ a.cover.2)

/-! ### Handles of views (R164) -/

/-- A view with its base resolved: BASE for a local one, the offset from the handle's base for a global one. -/
def resolve (v : View) (base : Dword) : View :=
  if v.isGlobal then { v with base := base.toNat + v.offset } else { v with base := v.offset }

/-- The view as a shape gives it, its base not yet moved by a handle. -/
def viewOf (shape : BitVec 256) : View := { shape := shape, base := field shape 0 64 }

/-- Resolve the views of a word through its handle: the entry is read when one of them is global, and every byte of a
global view lies within base and limit (R164). -/
def resolveViews (i : Instr) (handle : Dword) (vs : List View) (iss : Issue) : Except Stop (List View) :=
  if !(vs.any View.isGlobal) then .ok (vs.map (fun v => resolve v 0))
  else match handleFor i handle iss with
    | .error e => .error e
    | .ok (base, limit, _) =>
      let rs := vs.map (fun v => resolve v base)
      if rs.all (fun v => !v.isGlobal || (decide ((base.toNat : Int) ≤ v.cover.1) && decide (v.cover.2 ≤ (limit.toNat : Int)))) then
        .ok rs
      else .error (slotTrap i 5 handle)

/-- The interval of a resolved local view. -/
def View.interval (v : View) (c : Nat) (write : Bool) : List Interval :=
  if v.isGlobal then [] else [intervalOf c v.cover.1.toNat v.cover.2.toNat write]

/-- The virtual addresses of the bytes of a resolved global view (R164): its elements, whole rows and the whole view in one range
where elements and rows lie side by side. -/
def View.ranges (v : View) : List (Nat × Nat) :=
  let bytes := fun (a : Int) (n : Nat) => (a.toNat % 2 ^ 57, a.toNat % 2 ^ 57 + n - 1)
  let width := (v.ext0 + 1) * v.size
  let row := fun (r : Nat) =>
    if v.str0 = (v.size : Int) then [bytes (v.addr (r * (v.ext0 + 1))) width]
    else (List.range (v.ext0 + 1)).map (fun e => bytes (v.addr (r * (v.ext0 + 1) + e)) v.size)
  if !v.isGlobal then []
  else if v.str0 = (v.size : Int) && (v.ext1 = 0 || v.str1 = (width : Int)) then [bytes v.base ((v.ext1 + 1) * width)]
  else (List.range (v.ext1 + 1)).flatMap row

/-! ### Issuing a command (R160 to R163, R198, R271) -/

/-- The granules of an interval. -/
def Interval.granules (v : Interval) : List Nat := Machine.granules v.lo (v.hi - v.lo + 1)

/-- The full-empty action of a view is met (R163). -/
def fewMet (m : Mach) (c : Nat) (v : View) (dst : Bool) : Bool :=
  v.few = 0 || (v.interval c false).all (fun iv => iv.granules.all (fun g => m.isFull iv.space g = !dst))

/-- Pieces of a global range by base page, as cells (R357). -/
def Mach.cellRanges (m : Mach) (c lo hi : Nat) : List (Nat × Nat) :=
  ((List.range (hi / 16384 - lo / 16384 + 1)).map (fun k => lo / 16384 + k)).filterMap (fun p =>
    let a := max lo (16384 * p)
    let b := min hi (16384 * p + 16383)
    let va : Dword := (BitVec.ofNat 57 a).signExtend 64
    match m.translate c va with
    | .leaf e shift => some (leafCell e shift va, leafCell e shift va + (b - a))
    | _ => none)

/-- A command's destinations meet a guard in force (R311). -/
def commandMeetsGuard (iss : Issue) (k : Command) (writes : List (Nat × Nat)) : Bool :=
  (guardsOf iss).any (fun g =>
    k.ivals.any (fun v => v.write && v.space = g.space && meets v.lo v.hi g.lo g.hi)
    || (g.space = .glob && writes.any (fun r => (iss.pre.cellRanges iss.core r.1 r.2).any (fun q => meets q.1 q.2 g.lo g.hi))))

/-- An MX word stands under a copy of its bundle that has fo set: whether that copy's guard reads true (R73). -/
def copyBefore (iss : Issue) : Option Bool :=
  (iss.words.find? (fun w => w.1 = iss.stream && hasFo w.2)).map (fun w => guarded iss.x w.2)

/-- A copy into shadows (R180). -/
def CmdKind.intoShadow : CmdKind → Bool
  | .copy .shadow _ _ _ _ => true
  | _ => false

/-- Issue an engine command that has passed its checks: it is held by its fences, by the full-empty actions of its views,
by the scoreboard's 32 intervals and by its counter; in a region it is held until DUSK, unless it is a cp.sh. -/
def commandWord (i : Instr) (kind : CmdKind) (ivals : List Interval) (reads writes : List (Nat × Nat)) (rq : BitVec 2)
    (ready : Bool) : Body := fun iss m =>
  let x := iss.x
  let slot := slotNum i
  let k : Command :=
    { id := 0, issue := 0, slot := slot, stream := iss.stream, origin := iss.origin, word := (encode i).getD 0, kind := kind,
      ivals := mergeIntervals ivals, rq := rq,
      after := if slot = 4 && copyBefore iss = some true then some 0 else none }
  let zones := (if reads = [] then [] else x.zonesOf reads) ++ (if writes = [] then [] else x.zonesOf writes)
    ++ (if k.chargesLocal then [0] else [])
  let write := writes ≠ [] || k.ivals.any (fun v => v.write && localZones v.space ≠ [])
  let cnt := (m.core iss.core).cnt
  let shadow := kind.intoShadow
  if !ready || orderHold iss zones write then .error (.hold .plain)
  else match openRegionOf iss m with
    | some r =>
      if shadow then
        if 32 < intervalsUsed (m.core iss.core) + k.ivals.length then .error (.hold .intervals)
        else if full cnt.cp then .error (.hold .plain)
        else .ok (iss, m.issueCommand iss.core { k with inRegion := true } reads [])
      else if commandMeetsGuard iss k writes then .error (.roll 1)
      else if 16 ≤ r.commands then .error (.roll 4)
      else .ok (iss, m.modCore iss.core (fun y => { y with
        region := y.region.map (fun r => { r with
          held := r.held ++ [.cmd k (reads.map (fun e => (e.1, e.2, false)) ++ writes.map (fun e => (e.1, e.2, true)))] }) }))
    | none =>
      if 32 < intervalsUsed (m.core iss.core) + k.ivals.length then .error (.hold .intervals)
      else if full (if slot = 4 then cnt.mx else cnt.cp) then .error (.hold .plain)
      else .ok (iss, m.issueCommand iss.core k reads (if shadow then [] else writes))

end Sys2Proof.Machine
end

