-- ==== Sys2Proof/Machine/Array.lean ====
section
/-! DEFINITION. The matrix array: operands in their layouts (R170, R172), one cell over one k-group (R47 to R53), the k-groups
of a command in order (R54, R171) and the drain converter (R56, R174). -/

namespace Sys2Proof.Machine

/-! ### Formats (R47, R170) -/

/-- The width code of an SX format. -/
def mxSx (fmt : Nat) : Option Nat := if fmt ≤ 2 then some fmt else none

/-- Bytes of an SX block of a width code (R43). -/
def sxBlockBytes (code : Nat) : Nat := if code = 0 then 16 else if code = 1 then 10 else 6

/-- Bytes of an element of a format that is not SX. -/
def mxBytes (fmt : Nat) : Nat := if fmt = 5 then 1 else 2

/-- Products in a k-group (R47). -/
def groupSize (fmt : Nat) : Nat := if fmt = 1 then 2 else if fmt = 2 then 4 else 1

/-- Bytes of `n` positions of k in a row or a column: whole blocks of an SX format. -/
def mxSpan (fmt n : Nat) : Nat :=
  match mxSx fmt with
  | some code => sxBlockBytes code * (n / 16)
  | none => mxBytes fmt * n

/-! ### Operands (R45, R47, R49, R52) -/

/-- An operand of the array: its value, the events its use gives rise to, and whether it was flushed. -/
structure Operand where
  num : Num
  events : List (BitVec 8) := []
  flushed : Bool := false
  deriving DecidableEq, Repr

/-- An operand of a format that is not SX: subnormals enter as zeros (R52), a NaN is invalid (R49). -/
def scalarOperand (fmt raw : Nat) : Operand :=
  if fmt = 3 ∨ fmt = 4 then
    let f := if fmt = 3 then bf16 else fp16
    match f.unpack raw with
    | .nan s => { num := .nan s, events := [0x20] }
    | .inf n => { num := .inf n }
    | .fin n mant e =>
      if mant ≠ 0 ∧ mant < 2 ^ f.fbits then { num := .fin n 0 0, flushed := true } else { num := .fin n mant e }
  else
    let v := signedOf (8 * mxBytes fmt) raw
    { num := .fin (decide (v < 0)) v.natAbs 0 }

/-- An operand of an SX block (R44, R45, R49). -/
def sxOperand (header code e raw : Nat) : Operand :=
  match sxElement header code e raw with
  | some v => { num := v }
  | none => { num := .nan false, events := sxEvents header code }

/-- Bytes between consecutive blocks, or elements, of a row of A. -/
def mxStep (fmt : Nat) : Nat :=
  match mxSx fmt with
  | some code => sxBlockBytes code
  | none => mxBytes fmt

/-- The operand at position k of a line of an operand region: its payload starts at `pay` of a memory and its headers at
`hd` of another, with consecutive blocks (or elements) `blk` and headers `hblk` bytes apart (R170). -/
def readOperand (payload headers : Mem) (fmt pay hd blk hblk k : Nat) : Operand :=
  match mxSx fmt with
  | some code =>
    let bytes := Mem.load payload (pay + blk * (k / 16)) (sxBlockBytes code)
    sxOperand (Mem.load headers (hd + hblk * (k / 16)) 4) code (k % 16) (sxRaw bytes (sxWidth code) (k % 16))
  | none => scalarOperand fmt (Mem.load payload (pay + blk * k) (mxBytes fmt))

/-- A element (i, k) of a shape (R170). -/
def operandA (m : Mach) (c : Nat) (shape : BitVec 256) (i k : Nat) : Operand :=
  let base := getField 0 shape 0
  let hdr := getField 0 shape 2
  let fmt := getField 0 shape 7
  readOperand (m.bytesOf (spaceAt c base)) (m.bytesOf (spaceAt c hdr)) fmt (base % 2 ^ 28 + i * getField 0 shape 1)
    (hdr % 2 ^ 28 + i * getField 0 shape 3) (mxStep fmt) 4 k

/-- B element (t, j) of a segment (R170). -/
def operandB (m : Mach) (c : Nat) (shape : BitVec 256) (seg t j : Nat) : Operand :=
  let fmt := getField 0 shape 7
  let start := seg * 0x40000
  let b := m.bytesOf (.bstore c)
  readOperand b b fmt (start + getField 0 shape 4 + mxStep fmt * j) (start + getField 0 shape 5 + 4 * j)
    (128 * mxStep fmt) 512 t

/-- The byte of the constant store that holds the sign of a Hadamard matrix at (t, j) (R172). -/
def hadamardAt (shape : BitVec 256) (order t j : Nat) : Nat :=
  32 * getField 0 shape 10 + t % order * (order / 8) + j % order / 8

/-- The sign of the Hadamard matrix as an operand (R172). -/
def operandH (m : Mach) (c : Nat) (shape : BitVec 256) (order t j : Nat) : Operand :=
  let negative := bit (Mem.read (m.bytesOf (.const c)) (hadamardAt shape order t j)) (j % order % 8)
  { num := .fin negative 1 0 }

/-- Among some bytes is one that the operand at position k of a line depends on; the arguments are those of `readOperand` (R165). -/
def operandMeets (bad : List (Space × Nat)) (payload headers : Space) (fmt pay hd blk hblk k : Nat) : Bool :=
  let holds := fun (sp : Space) (lo len : Nat) => bad.any (fun b => decide (b.1 = sp) && decide (lo ≤ b.2) && decide (b.2 < lo + len))
  match mxSx fmt with
  | some code => holds payload (pay + blk * (k / 16)) (sxBlockBytes code) || holds headers (hd + hblk * (k / 16)) 4
  | none => holds payload (pay + blk * k) (mxBytes fmt)

/-- The same for A (i, k) and for B (t, j) of a segment (R165, R170). -/
def meetsA (bad : List (Space × Nat)) (c : Nat) (shape : BitVec 256) (i k : Nat) : Bool :=
  let base := getField 0 shape 0
  let hdr := getField 0 shape 2
  operandMeets bad (spaceAt c base) (spaceAt c hdr) (getField 0 shape 7) (base % 2 ^ 28 + i * getField 0 shape 1)
    (hdr % 2 ^ 28 + i * getField 0 shape 3) (mxStep (getField 0 shape 7)) 4 k

def meetsB (bad : List (Space × Nat)) (c : Nat) (shape : BitVec 256) (seg t j : Nat) : Bool :=
  let step := mxStep (getField 0 shape 7)
  let start := seg * 0x40000
  operandMeets bad (.bstore c) (.bstore c) (getField 0 shape 7) (start + getField 0 shape 4 + step * j)
    (start + getField 0 shape 5 + 4 * j) (128 * step) 512 t

/-- A cell of an mma, or of a Hadamard pass, depends on one of some bytes (R165). -/
def mmaMeets (bad : List (Space × Nat)) (c : Nat) (shape : BitVec 256) (seg k0 i j : Nat) : Bool :=
  bad ≠ [] && (List.range (getField 0 shape 6 + 1)).any (fun t => meetsA bad c shape i (k0 + t) || meetsB bad c shape seg t j)

def hrotMeets (bad : List (Space × Nat)) (c order : Nat) (shape : BitVec 256) (k0 i j : Nat) : Bool :=
  bad ≠ [] && (List.range (getField 0 shape 6 + 1)).any (fun t => decide (t / order = j / order) &&
    (meetsA bad c shape i (k0 + t) || bad.contains (.const c, hadamardAt shape order t j)))

/-! ### One cell (R47 to R53) -/

/-- ArrayFlush of a rounded value (R52): a subnormal becomes a zero of the sign given, with a flush event. DESIGN CHOICE (log
101): a value that rounds to zero itself is no flush; the spec does not say. -/
def arrayFlush (bits : Nat) (neg : Bool) : Nat × List (BitVec 8) :=
  let mag := bits % 2 ^ 31
  if mag ≠ 0 ∧ mag < 2 ^ 23 then (fp32.zero neg, [0x22]) else (bits, [])

/-- |a − b| (R48). -/
def distance (a b : Num) : Option Num :=
  match a.add b.opposite with
  | none => none
  | some (.nan s) => some (.nan s)
  | some (.inf _) => some (.inf false)
  | some (.fin _ mant e) => some (.fin false mant e)

/-- CellTerm, with its events and flushes; a NaN where it has no value (R48, R49). DESIGN CHOICE (log 100): a zero product of
integers is signed as that of floating-point operands, by the signs of its factors. -/
def cellTerm (ada : Bool) (a b : Operand) : Num × List (BitVec 8) :=
  let flushes := (if a.flushed then [0x22] else []) ++ (if b.flushed then [0x22] else [])
  let events := a.events ++ b.events
  if a.num.isNan || b.num.isNan then (.nan false, events ++ flushes)
  else match (if ada then distance a.num b.num else a.num.mul b.num) with
    | some v => (v, events ++ flushes)
    | none => (.nan false, events ++ 0x20 :: flushes)

/-- A kind counts once in one cell and k-group, a flush once for each replacement (R52, R60). -/
def cellEvents (l : List (BitVec 8)) : List (BitVec 8) :=
  (l.filter (fun k => k ≠ 0x22)).eraseDups ++ l.filter (fun k => k = 0x22)

/-- MAD or ADA over the pairs of a k-group (R47 to R52). -/
def cellSum (ada : Bool) (old : BitVec 32) (pairs : List (Operand × Operand)) : BitVec 32 × List (BitVec 8) :=
  let terms := pairs.map (fun p => cellTerm ada p.1 p.2)
  let events := terms.flatMap (·.2)
  let own := fp32.unpack old.toNat
  let all := own :: terms.map (·.1)
  if all.any Num.isNan then (BitVec.ofNat 32 fp32.qnan, cellEvents events)
  else
    let infs := all.filterMap (fun v => match v with
      | .inf n => some n
      | _ => none)
    match infs with
    | n :: r =>
      if r.all (fun k => k = n) then (BitVec.ofNat 32 (fp32.inf n), cellEvents events)
      else (BitVec.ofNat 32 fp32.qnan, cellEvents (events ++ [0x20]))
    | [] =>
      let sum := sumTerms (all.filterMap (fun v => match v with
        | .fin n mant e => some (n, mant, e)
        | _ => none))
      let rounded := fp32.round .rn sum.1 sum.2.1 sum.2.2
      let flushed := arrayFlush rounded.bits sum.1
      (BitVec.ofNat 32 flushed.1, cellEvents (events ++ rounded.events ++ flushed.2))

/-- Key of R53, as a signed magnitude; a NaN has the key −∞. -/
def cslKey (bits : Nat) : Int :=
  let mag : Int := (bits % 2 ^ 31 / 256 * 256 : Nat)
  if bits / 2 ^ 31 = 1 then -mag else mag

/-- One product of CSL at k index `k` (R53). -/
def cslStep (old : BitVec 32) (a b : Operand) (k : Nat) : BitVec 32 × List (BitVec 8) :=
  let term := cellTerm false a b
  let candidate : Option (Nat × List (BitVec 8)) := match term.1 with
    | .nan _ => none
    | .inf n => some (fp32.inf n, [])
    | .fin n mant e =>
      let rounded := fp32.round .rn n mant e
      let flushed := arrayFlush rounded.bits n
      some (flushed.1, rounded.events ++ flushed.2)
  match candidate with
  | none => (old, term.2 ++ [0x20])
  | some (v, events) =>
    let big := decide (0x7F7FFF00 < v % 2 ^ 31)
    let v := if big then v / 2 ^ 31 * 2 ^ 31 + 0x7F7FFF00 else v
    let events := term.2 ++ events ++ (if big then [0x21] else [])
    if (fp32.unpack old.toNat).isNan || decide (cslKey old.toNat < cslKey v) then
      (BitVec.ofNat 32 (v / 256 * 256 + k % 256), events)
    else (old, events)

/-- CSL over the products of a k-group, in ascending k. -/
def cellSelect (old : BitVec 32) : List (Operand × Operand × Nat) → List (BitVec 8) → BitVec 32 × List (BitVec 8)
  | [], events => (old, cellEvents events)
  | (a, b, k) :: r, events => let n := cslStep old a b k; cellSelect n.1 r (events ++ n.2)

/-- One cell over one k-group, by the step code of its operation (R54). -/
def cellStep (code : Nat) (old : BitVec 32) (pairs : List (Operand × Operand × Nat)) : BitVec 32 × List (BitVec 8) :=
  if pairs = [] then (old, [])
  else if code = 2 then cellSelect old pairs []
  else cellSum (code = 1) old (pairs.map (fun p => (p.1, p.2.1)))

/-! ### A command (R171, R172) -/

/-- The k positions of the k-groups of K positions. -/
def kGroups (size K : Nat) : List (List Nat) :=
  (List.range (K / size)).map (fun n => (List.range size).map (fun e => n * size + e))

/-- The cells of M rows and N columns, in ascending order. -/
def cellsOf (M N : Nat) : List (Nat × Nat) := (List.range M).flatMap (fun i => (List.range N).map (fun j => (i, j)))

/-- Accumulate k-groups into cells, counting events (R60, R171). -/
def accumulate (A : Nat → Nat → Operand) (B : Nat → Nat → Option Operand) (code : Nat → Nat) (cells : List (Nat × Nat)) :
    List (List Nat) → Nat → Sparse (BitVec 32) → Tally → Sparse (BitVec 32) × Tally
  | [], _, C, t => (C, t)
  | G :: rest, n, C, t =>
    let r := cells.foldl (fun (acc : Sparse (BitVec 32) × Tally) ij =>
      let key := 128 * ij.1 + ij.2
      let pairs := G.filterMap (fun k => (B k ij.2).map (fun b => (A ij.1 k, b, k)))
      let new := cellStep (code n) (Sparse.get 0 acc.1 key) pairs
      (Sparse.set 0 acc.1 key new.1, new.2.foldl (fun t k => t.add k key) acc.2)) (C, t)
    accumulate A B code cells rest (n + 1) r.1 r.2

/-- mma and mmaz in the engine (R171), on the cells but those that `skip` leaves out (R165). -/
def runMma (m : Mach) (c : Nat) (zero : Bool) (tile : Tile) (shape : BitVec 256) (seg k0 : Nat) (cp : Bool)
    (skip : Nat → Nat → Bool := fun _ _ => false) : Tile × Tally :=
  let M := getField 0 shape 8 + 1
  let N := getField 0 shape 9 + 1
  let K := getField 0 shape 6 + 1
  let size := groupSize (getField 0 shape 7)
  let cells := (cellsOf M N).filter (fun ij => !(skip ij.1 ij.2))
  let start := if zero then cells.foldl (fun C ij => Sparse.set 0 C (128 * ij.1 + ij.2) 0) tile.cells else tile.cells
  let code := fun n => if cp then getField 0 shape 13 / 4 ^ (n % 16) % 4 else 0
  let r := accumulate (fun i t => operandA m c shape i (k0 + t)) (fun t j => some (operandB m c shape seg t j)) code cells
    (kGroups size K) 0 start []
  ({ tile with cells := r.1, groups := (if zero then 0 else tile.groups) + BitVec.ofNat 64 (K / size) }, r.2)

/-- A Hadamard pass in the engine (R55, R172): only the positions of Blk(j) enter column j; `skip` leaves cells out (R165). -/
def runHrot (m : Mach) (c order : Nat) (tile : Tile) (shape : BitVec 256) (k0 : Nat)
    (skip : Nat → Nat → Bool := fun _ _ => false) : Tile × Tally :=
  let M := getField 0 shape 8 + 1
  let N := getField 0 shape 9 + 1
  let K := getField 0 shape 6 + 1
  let size := groupSize (getField 0 shape 7)
  let r := accumulate (fun i t => operandA m c shape i (k0 + t))
    (fun t j => if t / order = j / order then some (operandH m c shape order t j) else none) (fun _ => 0)
    ((cellsOf M N).filter (fun ij => !(skip ij.1 ij.2))) (kGroups size K) 0 tile.cells []
  ({ tile with cells := r.1, groups := tile.groups + BitVec.ofNat 64 (K / size) }, r.2)

/-! ### The drain converter (R56, R174) -/

/-- Bytes of a drained element: fp32 and i32 take 4, bf16x2 and fp16x2 take 2. -/
def drainBytes (tag : BitVec 5) : Nat := if tag = 1 ∨ tag = 4 then 4 else 2

/-- An accumulator value times 2^−factor, rounded once into the drain format. -/
def drainElement (v : BitVec 32) (factor : Nat) (tag : BitVec 5) (mode : Mode) : Scored :=
  let x := fp32.unpack v.toNat
  let scaled := match x with
    | .fin n mant e => Num.fin n mant (e - factor)
    | y => y
  if tag = 4 then scaled.toInt mode (-2147483648) 2147483647 32
  else (if tag = 1 then fp32 else if tag = 2 then bf16 else fp16).finish mode [x] (some scaled)

/-- The drain of M rows and N columns: for each element its place in the region, its bytes and its events. -/
def runDrain (c : Nat) (tile : Tile) (shape : BitVec 256) (factor : Nat) (tag : BitVec 5) (rnd : Nat) (seed : BitVec 32) :
    List (Nat × List (BitVec 8)) × Tally :=
  let w := drainBytes tag
  let elems := (cellsOf (getField 0 shape 8 + 1) (getField 0 shape 9 + 1)).map (fun ij =>
    let idx := 128 * ij.1 + ij.2
    let r := drainElement (Sparse.get 0 tile.cells idx) factor tag (modeOf (BitVec.ofNat 2 rnd) 0 (hash40 seed c 0 idx))
    (ij.1 * getField 0 shape 11 + ij.2 * w, toBytes w r.bits, r.events, idx))
  (elems.map (fun e => (e.1, e.2.1)), tally (elems.map (fun e => (e.2.2.1, e.2.2.2))))

end Sys2Proof.Machine
end

