-- ==== Sys2Proof/Machine/Rice.lean ====
section
/-! DEFINITION. The decoder of CCSDS 121.0-B, issue 3, in the part R185 supports: option identifiers, the code options, the
reference samples and the unit-delay predictor with its mapper. The spec names the standard and does not reproduce it:
the tables here are the standard's (log 9, PRESUMED). -/

namespace Sys2Proof.Machine

/-- The parameters of a coded stream (R185, R186): resolution n, block size J, reference interval in blocks, the unit-delay
predictor, the restricted option set, signed samples. -/
structure RiceParams where
  n : Nat
  J : Nat
  interval : Nat
  predictor : Bool
  restricted : Bool
  signed : Bool
  deriving DecidableEq, Repr

/-- The bits of bytes, the most significant of each byte first (R187). -/
def streamBits (l : List (BitVec 8)) : List Bool :=
  l.flatMap (fun b => [bit b 7, bit b 6, bit b 5, bit b 4, bit b 3, bit b 2, bit b 1, bit b 0])

/-- Read n bits, the first the most significant. -/
def readBits : Nat → Nat → List Bool → Option (Nat × List Bool)
  | 0, acc, r => some (acc, r)
  | _ + 1, _, [] => none
  | n + 1, acc, b :: r => readBits n (2 * acc + b.toNat) r

/-- Read a fundamental sequence: the zeros before the next one. -/
def readFs : Nat → List Bool → Option (Nat × List Bool)
  | _, [] => none
  | acc, true :: r => some (acc, r)
  | acc, false :: r => readFs (acc + 1) r

/-- The code options. -/
inductive RiceOption where
  | zero | second | split (k : Nat) | plain
  deriving DecidableEq, Repr

/-- The length of an option identifier. -/
def RiceParams.idBits (p : RiceParams) : Nat :=
  if p.restricted then (if p.n ≤ 2 then 1 else 2) else if p.n ≤ 8 then 3 else 4

/-- Read the option identifier of a block; `none` where the bits end, `some none` where it is not defined for n. -/
def readOption (p : RiceParams) (l : List Bool) : Option (Option RiceOption × List Bool) :=
  match readBits p.idBits 0 l with
  | none => none
  | some (id, r) =>
    if id = 0 then
      match r with
      | [] => none
      | false :: r => some (some .zero, r)
      | true :: r => some (some .second, r)
    else if id = 2 ^ p.idBits - 1 then some (some .plain, r)
    else if id - 1 < p.n then some (some (.split (id - 1)), r)
    else some (none, r)

/-- What a block answers: its values, all or as far as the bits went, and the bits that follow; `zeros` is a run of blocks,
none of them meaning the remainder of the segment. -/
structure RiceBlock where
  reference : Option Nat := none
  values : List Nat := []
  zeros : Option (Option Nat) := none
  rest : Option (List Bool)
  deriving DecidableEq, Repr

/-- `count` fundamental sequences, as far as the bits go. -/
def readFsList : Nat → List Nat → List Bool → List Nat × Option (List Bool)
  | 0, acc, r => (acc.reverse, some r)
  | n + 1, acc, r => match readFs 0 r with
    | none => (acc.reverse, none)
    | some (v, r) => readFsList n (v :: acc) r

/-- The low k bits of each value of a list, as far as the bits go. -/
def readLow (k : Nat) : List Nat → List Nat → List Bool → List Nat × Option (List Bool)
  | [], acc, r => (acc.reverse, some r)
  | v :: vs, acc, r =>
    match readBits k 0 r with
    | none => (acc.reverse, none)
    | some (x, r) => readLow k vs ((v * 2 ^ k + x) :: acc) r

/-- The pair (first, second) of a second-extension code: code = s (s + 1) / 2 + second, with s the sum. -/
def secondPair (code : Nat) : Nat × Nat :=
  let s := ((List.range (code + 1)).find? (fun s => code < (s + 1) * (s + 2) / 2)).getD 0
  let b := code - s * (s + 1) / 2
  (s - b, b)

/-- The option of a block after its reference sample, with `count` values to read. -/
def readValues (p : RiceParams) (o : RiceOption) (withRef : Bool) (count : Nat) (l : List Bool) : RiceBlock :=
  match o with
  | .plain =>
    let v := readLow p.n (List.replicate count 0) [] l
    { values := v.1, rest := v.2 }
  | .split k =>
    let v := readFsList count [] l
    match v.2 with
    | none => { values := if k = 0 then v.1 else [], rest := none }
    | some r => if k = 0 then { values := v.1, rest := some r } else
      let w := readLow k v.1 [] r
      { values := w.1, rest := w.2 }
  | .second =>
    let v := readFsList (p.J / 2) [] l
    let pairs := v.1.flatMap (fun c => [(secondPair c).1, (secondPair c).2])
    { values := if withRef then pairs.drop 1 else pairs, rest := v.2 }
  | .zero =>
    match readFs 0 l with
    | none => { rest := none }
    | some (v, r) =>
      let run := if v = 4 then none else if v < 4 then some (v + 1) else some v
      { zeros := some run, rest := some r }

/-- Read one coded data set. `none` where its identifier is not defined or the bits end before its first value. -/
def readBlock (p : RiceParams) (withRef : Bool) (l : List Bool) : Option RiceBlock :=
  match readOption p l with
  | none => none
  | some (none, _) => none
  | some (some o, r) =>
    if withRef then
      match readBits p.n 0 r with
      | none => none
      | some (v, r) => some { readValues p o true (p.J - 1) r with reference := some v }
    else some (readValues p o false p.J r)

/-- The sample that an n-bit word is. -/
def RiceParams.sample (p : RiceParams) (v : Nat) : Int := if p.signed then signedOf p.n v else ((v % 2 ^ p.n : Nat) : Int)

/-- The least and the greatest sample. -/
def RiceParams.range (p : RiceParams) : Int × Int :=
  if p.signed then (-(2 ^ (p.n - 1) : Nat), (2 ^ (p.n - 1) : Nat) - 1) else (0, (2 ^ p.n : Nat) - 1)

/-- The sample that a mapped prediction error gives after the sample before it. -/
def RiceParams.unmap (p : RiceParams) (before : Int) (v : Nat) : Int :=
  let low := before - p.range.1
  let high := p.range.2 - before
  let theta := min low high
  let d : Int := if (v : Int) ≤ 2 * theta then (if v % 2 = 0 then (v / 2 : Nat) else -(((v + 1) / 2 : Nat) : Int))
    else if theta = low then (v : Int) - theta else theta - (v : Int)
  p.sample (unsignedOf p.n (before + d))

/-- The samples of values, from the sample before them; without a predictor a value is the sample. -/
def RiceParams.undo (p : RiceParams) : Int → List Nat → List Int
  | _, [] => []
  | before, v :: r =>
    let x := if p.predictor then p.unmap before v else p.sample v
    x :: p.undo x r

/-- Decode block by block from block `b` until `left` blocks are done; the sample before, and the samples so far.
The answer is the samples decoded, and whether it was the end of the bits that stopped it; a stream that is sound gives left · J
samples more (R187). -/
def riceBlocks (p : RiceParams) : Nat → Nat → Nat → Int → List Int → List Bool → List Int × Bool
  | 0, _, _, _, out, _ => (out, false)
  | _ + 1, _, 0, _, out, _ => (out, false)
  | fuel + 1, b, left, before, out, l =>
    let withRef := p.predictor && b % p.interval = 0
    match readBlock p withRef l with
    | none => (out, match readOption p l with
      | some (none, _) => false
      | _ => true)
    | some k =>
      let first := (k.reference.map p.sample).toList
      let start := first.headD before
      match k.zeros, k.rest with
      | some run, some r =>
        let segment := min (64 - b % p.interval % 64) (p.interval - b % p.interval)
        let n := match run with
          | some n => n
          | none => min segment left
        if left < n then (out ++ first, false)
        else
          let zeros := p.undo start (List.replicate (n * p.J - first.length) 0)
          riceBlocks p fuel (b + n) (left - n) ((first ++ zeros).getLastD before) (out ++ first ++ zeros) r
      | none, some r =>
        let xs := p.undo start k.values
        riceBlocks p fuel (b + 1) (left - 1) ((first ++ xs).getLastD before) (out ++ first ++ xs) r
      | _, none => (out ++ first ++ p.undo start k.values, true)

/-- Decode `count` samples, a multiple of J: the samples, the number of the first not decoded on a stream error, and whether the
stream ended before the last. -/
def riceDecode (p : RiceParams) (bytes : List (BitVec 8)) (count : Nat) : List Int × Option Nat × Bool :=
  let r := riceBlocks p (count / p.J) 0 (count / p.J) 0 [] (streamBits bytes)
  let out := r.1
  (out ++ List.replicate (count - out.length) 0, if out.length < count then some out.length else none, r.2)

end Sys2Proof.Machine
end

