-- ==== Sys2Proof/Machine/Engine.lean ====
section
/-! DEFINITION. What an engine does with a command (R160, R165, R174 to R196): its reads and writes, what it works out, the
faults that only memory shows, and how it starts, goes on and completes. A command reads and writes its elements as it completes,
or some of them before (log 20). -/

namespace Sys2Proof.Machine

/-! ### Bytes of a command (R164, R165, R168) -/

/-- Why an access of an engine fails: no translation, or a page that refuses it (R165). -/
inductive EngineFail where
  | miss (va : Dword)
  | refused (va : Dword)
  deriving DecidableEq, Repr

/-- What a command has read and written so far: cells and events latest first, the global cells it read, the global cells that lie
on untracked pages, the elements whose source it has read, the tile it leaves, and the occurrences that an array command has
counted; whether it has met data that cannot be read, and whether it has written to device registers. -/
structure Work where
  cells : List (Space × Nat × BitVec 8) := []
  read : List Nat := []
  loose : List Nat := []
  units : List Nat := []
  events : List (List (BitVec 8) × Nat) := []
  tile : Option (Nat × Tile) := none
  counted : Tally := []
  hit : Bool := false
  device : Bool := false
  fail : Option EngineFail := none
  deriving DecidableEq, Repr

/-- The address of a 57-bit virtual address. -/
def canonicalVa (va : Nat) : Dword := (BitVec.ofNat 57 va).signExtend 64

/-- The leaf and the cell of a byte that an engine reads or writes (R165): device registers under .uc alone (R277). -/
def Mach.engineCell (m : Mach) (c rq : Nat) (write : Bool) (va : Nat) : Except EngineFail (Nat × BitVec 64 × Nat) :=
  let a := canonicalVa va
  match m.translate c a with
  | .leaf e shift =>
    if pteKind e = 2 ∨ (pteKind e = 1 ∧ rq ≠ 3) ∨ (write ∧ (!(pteWritable e) || pteRdup e)) then .error (.refused a)
    else .ok (leafCell e shift a, e, shift)
  | _ => .error (.miss a)

/-- A list of answers, or the first failure. -/
def collect {α ε : Type} : List (Except ε α) → Except ε (List α)
  | [] => .ok []
  | .error e :: _ => .error e
  | .ok a :: r => match collect r with
    | .error e => .error e
    | .ok l => .ok (a :: l)

/-- Stores of the core that issued before a command and are not yet performed, the latest first (R164). -/
def bytesBefore (x : CoreState) (k : Command) : List (Nat × BitVec 8) := pendingBytes x (fun s => decide (s.issue < k.issue))

/-- What the elements of a command see: the core, global memory at its die, the stores before it, the bytes whose reading fails
beyond correction, and the elements that it deals with in this move: those of `only`, where it names any, less those of `skip`. -/
structure EngineEnv where
  c : Nat
  mem : Mem
  above : List (Nat × BitVec 8)
  bad : List (Space × Nat)
  rq : Nat
  mode : CopyKind
  only : List (Nat × Nat) := []
  skip : List (Nat × Nat) := []
  deriving DecidableEq, Repr

/-- A number lies in one of some ranges. -/
def inRanges (l : List (Nat × Nat)) (t : Nat) : Bool := l.any (fun r => decide (r.1 ≤ t) && decide (t ≤ r.2))

/-- The elements of `n` that the move deals with. -/
def EngineEnv.elements (env : EngineEnv) (n : Nat) : List Nat :=
  (List.range n).filter (fun t => (env.only = [] || inRanges env.only t) && !(inRanges env.skip t))

/-- One byte of a local place by its L-address. -/
def Mach.localByte (m : Mach) (c l : Nat) : BitVec 8 := Mem.read (m.bytesOf (spaceAt c l)) (l % 2 ^ 28)

/-- One of some bytes from an L-address on cannot be read. -/
def EngineEnv.badLocal (env : EngineEnv) (l n : Nat) : Bool :=
  env.bad ≠ [] && (List.range n).any (fun i => env.bad.contains (spaceAt env.c l, l % 2 ^ 28 + i))

/-- The cells of some translated bytes that lie on untracked pages (R363). -/
def looseCells (l : List (Nat × BitVec 64 × Nat)) : List Nat := (l.filter (fun e => !(pteTracked e.2.1))).map (·.1)

/-- The bytes of element t of a source view, the global cells they lie in, and those on untracked pages; no bytes where one cannot
be read. -/
def readElem (m : Mach) (env : EngineEnv) (v : View) (t : Nat) :
    Except EngineFail (Option (List (BitVec 8)) × List Nat × List Nat) :=
  let a := (v.addr t).toNat
  let addrs := (List.range v.size).map (fun i => a + i)
  if !v.isGlobal then .ok (if env.badLocal a v.size then none else some (addrs.map (m.localByte env.c)), [], [])
  else match collect (addrs.map (m.engineCell env.c env.rq false)) with
    | .error e => .error e
    | .ok l =>
      let cells := l.map (·.1)
      if cells.any (fun x => env.bad.contains (Space.glob, x)) then .ok (none, cells, looseCells l)
      else
        let byte := fun (e : Nat × Nat × BitVec 64 × Nat) =>
          if pteKind e.2.2.1 = 1 then Config.deviceByte (m.fresh + v.size * t + e.1) else overlayByte env.above env.mem e.2.1
        .ok (some (((List.range v.size).zip l).map byte), cells, looseCells l)

/-- The cores that a cp.bcast of a core writes (R179). -/
def Mach.bcastTargets (m : Mach) (c : Nat) : List Nat :=
  ((List.range 4).map (fun j => 4 * clusterOf c + j)).filter (m.sameLaunch c)

/-- The cells of bytes that are written to an address of a destination, those on untracked pages, and whether one lies in device
registers, which are no memory (R165, R178, R179, R180, log 49). -/
def destCells (m : Mach) (env : EngineEnv) (v : View) (a : Int) (bytes : List (BitVec 8)) :
    Except EngineFail (List (Space × Nat × BitVec 8) × List Nat × Bool) :=
  let a := a.toNat
  if v.isGlobal then
    match collect ((List.range bytes.length).map (fun i => m.engineCell env.c env.rq true (a + i))) with
    | .error e => .error e
    | .ok l =>
      let plain := l.find? (fun e => !(pteShadow e.2.1) || decide (16 < e.2.2))
      match env.mode, plain with
      | .shadow, some _ => .error (.refused (canonicalVa a))
      | _, _ => .ok (((l.zip bytes).filter (fun e => pteKind e.1.2.1 = 0)).map (fun e => (Space.glob, e.1.1, e.2)),
          looseCells l, l.any (fun e => pteKind e.2.1 = 1))
  else match env.mode with
    | .bstore => .ok (bytes.mapIdx (fun i b => (Space.bstore env.c, a + i, b)), [], false)
    | .bcast =>
      .ok ((m.bcastTargets env.c).flatMap (fun j => bytes.mapIdx (fun i b => (Space.csp j, a % 2 ^ 28 + i, b))), [], false)
    | _ => .ok (bytes.mapIdx (fun i b => (spaceAt env.c a, a % 2 ^ 28 + i, b)), [], false)

/-- Write bytes at an address of a destination. -/
def Work.put (w : Work) (m : Mach) (env : EngineEnv) (v : View) (a : Int) (bytes : List (BitVec 8)) : Work :=
  if w.fail.isSome then w
  else match destCells m env v a bytes with
    | .error e => { w with fail := some e }
    | .ok l => { w with cells := l.1.reverse ++ w.cells, loose := l.2.1 ++ w.loose, device := w.device || l.2.2 }

/-- Read element t of a source for element u of the command, and hand its bytes on; nothing is written that depends on data that
cannot be read (R165). -/
def Work.take (w : Work) (m : Mach) (env : EngineEnv) (v : View) (u t : Nat) (f : Work → List (BitVec 8) → Work) : Work :=
  if w.fail.isSome then w
  else match readElem m env v t with
    | .error e => { w with fail := some e }
    | .ok (none, cells, loose) =>
      { w with read := cells ++ w.read, loose := loose ++ w.loose, units := u :: w.units, hit := true }
    | .ok (some bytes, cells, loose) =>
      f { w with read := cells ++ w.read, loose := loose ++ w.loose, units := u :: w.units } bytes

/-- Element u of a command of local views: nothing is written where a byte that it depends on cannot be read (R165). -/
def Work.element (w : Work) (u : Nat) (bad : Bool) (f : Work → Work) : Work :=
  if bad then { w with units := u :: w.units, hit := true } else f { w with units := u :: w.units }

/-- Write bytes of the local region at an L-address (R162). -/
def Work.putLocal (w : Work) (c l : Nat) (bytes : List (BitVec 8)) : Work :=
  { w with cells := (bytes.mapIdx (fun i b => (spaceAt c l, l % 2 ^ 28 + i, b))).reverse ++ w.cells }

/-! ### Copies (R177 to R179, R185 to R187) -/

/-- Element t of the source goes to element t of the destination, for every t. -/
def runCopy (m : Mach) (env : EngineEnv) (src dst : View) : Work :=
  (env.elements src.count).foldl (fun w t => w.take m env src t t (fun w b => w.put m env dst (dst.addr t) b)) {}

/-- The parameters of a cp.dz: DZN and DZRSI of its source, and its mode field (R185, R186). -/
def riceParams (src : View) (mode : Nat) : RiceParams :=
  { n := field src.shape 176 4 + 1, interval := field src.shape 180 12 + 1, J := 8 * 2 ^ (mode % 4),
    predictor := mode / 4 % 2 = 1, restricted := mode / 8 % 2 = 1, signed := mode / 16 % 2 = 1 }

/-- cp.dz: the coded stream is read, then the samples are written in element order (R187). Where a byte of the stream cannot be
read, the samples decoded before it are written, and none that depends on it (R165). -/
def runRice (m : Mach) (env : EngineEnv) (src dst : View) (mode : Nat) : Work :=
  let r := (List.range src.count).foldl (fun (acc : Work × List (BitVec 8)) t =>
    if acc.1.fail.isSome then acc
    else match readElem m env src t with
      | .error e => ({ acc.1 with fail := some e }, acc.2)
      | .ok (none, cells, loose) =>
        ({ acc.1 with read := cells ++ acc.1.read, loose := loose ++ acc.1.loose, units := t :: acc.1.units, hit := true }, acc.2)
      | .ok (some b, cells, loose) =>
        ({ acc.1 with read := cells ++ acc.1.read, loose := loose ++ acc.1.loose, units := t :: acc.1.units },
          if acc.1.hit then acc.2 else b.reverse ++ acc.2)) ({}, [])
  if r.1.fail.isSome then r.1
  else
    let d := riceDecode (riceParams src mode) r.2.reverse dst.count
    let cut := r.1.hit && d.2.2
    let w := match d.2.1 with
      | some n => if cut then r.1 else { r.1 with events := [([(0x40 : BitVec 8)], n)] }
      | none => r.1
    let count := if cut then d.2.1.getD dst.count else dst.count
    (d.1.zip (List.range count)).foldl (fun w e => w.put m env dst (dst.addr e.2) (toBytes 2 (unsignedOf 16 e.1))) w

/-! ### Permute, fill and convert (R190 to R196) -/

/-- A transpose: destination row c, place r takes source row r, place c (R190). -/
def runTranspose (m : Mach) (env : EngineEnv) (src dst : View) : Work :=
  (env.elements dst.count).foldl (fun w t =>
    let row := t / (dst.ext0 + 1)
    let place := t % (dst.ext0 + 1)
    w.take m env src t (place * (src.ext0 + 1) + row) (fun w b => w.put m env dst (dst.addr t) b)) {}

/-- fill (R191). -/
def runFill (m : Mach) (env : EngineEnv) (dst : View) (value : Dword) : Work :=
  (env.elements dst.count).foldl (fun w t =>
    w.element t false (fun w => w.put m env dst (dst.addr t) (toBytes dst.size value.toNat))) {}

/-- The format of the unquantised elements, by aux[4]. -/
def quantFmt (aux : Nat) : Fmt := if aux / 16 % 2 = 1 then bf16 else fp32

/-- The rounding mode of an element of a qnt or dqnt (R40, R192, R193). -/
def quantMode (c aux : Nat) (seed : BitVec 32) (frm : BitVec 2) (idx : Nat) : Mode :=
  modeOf (BitVec.ofNat 2 (aux / 4 % 4)) frm (hash40 seed c 0 idx)

/-- The bytes of element t of a local view. -/
def localElem (m : Mach) (c : Nat) (v : View) (t : Nat) : Nat :=
  let a := (v.addr t).toNat
  Mem.load (m.bytesOf (spaceAt c a)) (a % 2 ^ 28) v.size

/-- Element t of a local view cannot be read. -/
def EngineEnv.badElem (env : EngineEnv) (v : View) (t : Nat) : Bool := env.bad ≠ [] && env.badLocal (v.addr t).toNat v.size

/-- qnt: each 16 elements of a row become a block and its header (R192). -/
def runQuantise (m : Mach) (env : EngineEnv) (src dst : View) (plane aux : Nat) (seed : BitVec 32) (frm : BitVec 2) : Work :=
  let nb := (src.ext0 + 1) / 16
  let bb := sxBlockBytes (aux % 4)
  (env.elements ((src.ext1 + 1) * nb)).foldl (fun w n =>
    let row := n / nb
    let b := n % nb
    let from_ := fun (e : Nat) => row * (src.ext0 + 1) + 16 * b + e
    w.element n ((List.range 16).any (fun e => env.badElem src (from_ e))) (fun w =>
      let x := (List.range 16).map (fun e => (quantFmt aux).unpack (localElem m env.c src (from_ e)))
      let q := sxQuantise x (aux % 4) (fun e => quantMode env.c aux seed frm (16 * n + e))
      let w := w.put m env dst (dst.addr (row * (dst.ext0 + 1) + b * bb)) (toBytes bb q.2.1)
      let w := w.putLocal env.c (plane + 4 * n) (toBytes 4 q.1)
      { w with events := (q.2.2.map (fun e => ([e.1], 16 * n + e.2))).reverse ++ w.events })) {}

/-- dqnt: each block becomes 16 elements (R193). -/
def runDequantise (m : Mach) (env : EngineEnv) (src dst : View) (plane aux : Nat) (seed : BitVec 32) (frm : BitVec 2) : Work :=
  let nb := (dst.ext0 + 1) / 16
  let bb := sxBlockBytes (aux % 4)
  let f := quantFmt aux
  (env.elements dst.count).foldl (fun w t =>
    let row := t / (dst.ext0 + 1)
    let n := row * nb + t % (dst.ext0 + 1) / 16
    let e := t % (dst.ext0 + 1) % 16
    let at_ := plane + 4 * n
    let first := row * (src.ext0 + 1) + (n % nb) * bb
    let width := sxWidth (aux % 4)
    let bits := 1 + width
    let own := (List.range bb).filter (fun i => decide (e * bits / 8 ≤ i) && decide (i ≤ (e * bits + bits - 1) / 8))
    w.element t (env.badLocal at_ 4 || own.any (fun i => env.badElem src (first + i))) (fun w =>
      let header := Mem.load (m.bytesOf (spaceAt env.c at_)) (at_ % 2 ^ 28) 4
      let payload := (List.range bb).foldr (fun i acc => localElem m env.c src (first + i) + 256 * acc) 0
      let r := match sxElement header (aux % 4) e (sxRaw payload width e) with
        | some (.fin s mant exp) =>
          f.round (if aux / 16 % 2 = 1 then quantMode env.c aux seed frm (16 * n + e) else .rn) s mant exp
        | _ => { bits := f.qnan, events := sxEvents header (aux % 4) }
      let w := w.put m env dst (dst.addr t) (toBytes dst.size r.bits)
      { w with events := (r.events, 16 * n + e) :: w.events })) {}

/-- upx12: pixels of a row's bytes, zero-extended (R33, R194). -/
def runUnpack (m : Mach) (env : EngineEnv) (src dst : View) : Work :=
  (env.elements dst.count).foldl (fun w t =>
    let row := t / (dst.ext0 + 1)
    let p := t % (dst.ext0 + 1)
    let first := row * (src.ext0 + 1) + 3 * (p / 2)
    w.element t (env.badElem src (first + p % 2) || env.badElem src (first + p % 2 + 1)) (fun w =>
      let word := (List.range 3).foldr (fun i acc => localElem m env.c src (first + i) + 256 * acc) 0
      w.put m env dst (dst.addr t) (toBytes 2 (word / 2 ^ (12 * (p % 2)) % 4096)))) {}

/-- pkx12: elements clamped to 0–4,095 and packed (R194). -/
def runPack (m : Mach) (env : EngineEnv) (src dst : View) : Work :=
  (env.elements (src.count / 2)).foldl (fun w n =>
    let row := 2 * n / (src.ext0 + 1)
    let p := 2 * n % (src.ext0 + 1)
    let a := clampTo 0 4095 (localElem m env.c src (2 * n) : Nat) 12
    let b := clampTo 0 4095 (localElem m env.c src (2 * n + 1) : Nat) 12
    let bytes := toBytes 3 (a.bits + 4096 * b.bits)
    let first := row * (dst.ext0 + 1) + 3 * (p / 2)
    let lost := fun (i : Nat) => (decide (i ≤ 1) && env.badElem src (2 * n)) || (decide (1 ≤ i) && env.badElem src (2 * n + 1))
    let put := fun (acc : Work × Nat) x =>
      (if lost acc.2 then { acc.1 with hit := true } else acc.1.put m env dst (dst.addr (first + acc.2)) [x], acc.2 + 1)
    let w := (bytes.foldl put (w.element n false id, 0)).1
    let kept := fun (t : Nat) (l : List (BitVec 8)) => if env.badElem src t then [] else l
    { w with events := (kept (2 * n + 1) b.events, 2 * n + 1) :: (kept (2 * n) a.events, 2 * n) :: w.events }) {}

/-- shuf: destination element t takes source element Idx(t), or zero beyond the source (R196). -/
def runShuffle (m : Mach) (env : EngineEnv) (src dst : View) (table : Nat) : Work :=
  (env.elements dst.count).foldl (fun w t =>
    let at_ := table + 2 * t
    let idx := Mem.load (m.bytesOf (spaceAt env.c at_)) (at_ % 2 ^ 28) 2
    w.element t (env.badLocal at_ 2 || (decide (idx < src.count) && env.badElem src idx)) (fun w =>
      if idx < src.count then w.put m env dst (dst.addr t) (toBytes dst.size (localElem m env.c src idx))
      else
        let w := w.put m env dst (dst.addr t) (List.replicate dst.size 0)
        { w with events := ([0x42], t) :: w.events })) {}

/-! ### The work of a command (R160) -/

/-- The status record of a tile (R175). -/
def statusRecord (tile : Tile) (before : Nat) (now : Tick) : List (BitVec 8) :=
  toBytes 32 (tile.tag.toNat + 256 * before + 2 ^ 64 * tile.groups.toNat + 2 ^ 128 * now.toNat)

/-- The request type of a command's global side: rq of a copy, and .si for cp.dz (R176). -/
def CmdKind.rq : CmdKind → Nat
  | .copy .rice _ _ _ _ => 2
  | .copy _ _ _ _ mode => mode % 4
  | _ => 0

/-- How a command reaches its destination. -/
def CmdKind.mode : CmdKind → CopyKind
  | .copy kind _ _ _ _ => kind
  | _ => .plain

/-- A cell of an array command meets one of its skipped ones. -/
def anyCell (shape : BitVec 256) (skip : Nat → Nat → Bool) : Bool :=
  (cellsOf (getField 0 shape 8 + 1) (getField 0 shape 9 + 1)).any (fun ij => skip ij.1 ij.2)

/-- What a command works out, on the elements it has not dealt with yet, or on those of `only` (R341). `bad` names the bytes whose
reading fails beyond correction (R165). -/
def engineWork (m : Mach) (c : Nat) (k : Command) (bad : List (Space × Nat)) (only : List (Nat × Nat) := []) : Work :=
  let x := m.core c
  let env : EngineEnv :=
    { c := c, mem := m.seenMem (dieOf c), above := bytesBefore x k, bad := bad, rq := k.kind.rq, mode := k.kind.mode,
      only := only, skip := k.done }
  match k.kind with
  | .mma zero t shape seg k0 cp =>
    let skip := mmaMeets bad c shape seg k0
    let r := runMma m c zero (x.tile t) shape seg k0 cp skip
    { tile := some (t, r.1), counted := r.2, hit := bad ≠ [] && anyCell shape skip }
  | .hrot order t shape k0 =>
    let skip := hrotMeets bad c order shape k0
    let r := runHrot m c order (x.tile t) shape k0 skip
    { tile := some (t, r.1), counted := r.2, hit := bad ≠ [] && anyCell shape skip }
  | .drain t shape factor tag rnd dst seed =>
    let r := runDrain c (x.tile t) shape factor tag rnd seed
    r.1.foldl (fun w e => w.putLocal c (dst + e.1) e.2) { counted := r.2 }
  | .mclr t => { tile := some (t, { x.tile t with cells := [], groups := 0 }) }
  | .mstat t dst before => Work.putLocal {} c dst (statusRecord (x.tile t) before m.vclk)
  | .copy .rice src dst _ mode => runRice m env src dst mode
  | .copy _ src dst _ _ => runCopy m env src dst
  | .sread .. => {}
  | .pub _ => {}
  | .cancel _ => {}
  | .transpose src dst => runTranspose m env src dst
  | .fill dst value => runFill m env dst value
  | .quantise src dst plane aux seed frm => runQuantise m env src dst plane aux seed frm
  | .dequantise src dst plane aux seed frm => runDequantise m env src dst plane aux seed frm
  | .unpack src dst => runUnpack m env src dst
  | .pack src dst => runPack m env src dst
  | .shuffle src dst table => runShuffle m env src dst table

/-- The events of a command: the occurrences of an array command are already counted (R60). -/
def Work.tally (w : Work) : Tally := if w.counted = [] then Machine.tally w.events.reverse else w.counted

/-! ### Performing a command's writes (R162, R163, R180, R291, R430) -/

/-- Engine writes to local spaces: the bytes, then their granules full (R162). -/
def Mach.engineWrite (m : Mach) (cells : List (Space × Nat × BitVec 8)) : Mach :=
  (cells.map (·.1)).eraseDups.foldl (fun m sp =>
    let l := (cells.filter (fun e => e.1 = sp)).map (·.2)
    match sp with
    | .glob => m
    | _ => (m.writeLocal sp l).setFull sp ((l.map (fun e => e.1 / 16)).eraseDups) true) m

/-- The granules of the bytes that a command reads of some elements of a local view. -/
def viewGranules (v : View) (elements : List Nat) : List Nat :=
  (elements.flatMap (fun t =>
    let a := (v.addr t).toNat % 2 ^ 28
    Machine.granules a v.size)).eraseDups

/-- The source view of a copy or permute command, the number of its elements of work, and which elements of the source one of
those reads; none where every one of them may read all (R185, R196). -/
def CmdKind.source : CmdKind → Option (View × Nat × Option (Nat → List Nat))
  | .copy .rice src _ _ _ => some (src, src.count, some (fun t => [t]))
  | .copy _ src _ _ _ => some (src, src.count, some (fun t => [t]))
  | .transpose src dst =>
    some (src, dst.count, some (fun t => [t % (dst.ext0 + 1) * (src.ext0 + 1) + t / (dst.ext0 + 1)]))
  | .quantise src .. =>
    let nb := (src.ext0 + 1) / 16
    some (src, (src.ext1 + 1) * nb, some (fun n => (List.range 16).map (fun e => n / nb * (src.ext0 + 1) + 16 * (n % nb) + e)))
  | .dequantise src dst _ aux _ _ =>
    let bb := sxBlockBytes (aux % 4)
    some (src, dst.count, some (fun t => (List.range bb).map (fun i =>
      t / (dst.ext0 + 1) * (src.ext0 + 1) + t % (dst.ext0 + 1) / 16 * bb + i)))
  | .unpack src dst => some (src, dst.count, some (fun t => (List.range 2).map (fun i =>
      t / (dst.ext0 + 1) * (src.ext0 + 1) + 3 * (t % (dst.ext0 + 1) / 2) + t % (dst.ext0 + 1) % 2 + i)))
  | .pack src _ => some (src, src.count / 2, some (fun n => [2 * n, 2 * n + 1]))
  | .shuffle src dst _ => some (src, dst.count, none)
  | _ => none

/-- A source view with FEW 2: each granule is empty once the command has read every byte it reads from it (R163). `units` are the
elements that it has dealt with now. -/
def Mach.emptySource (m : Mach) (c : Nat) (k : Command) (units : List Nat) : Mach :=
  match k.kind.source with
  | none => m
  | some (v, n, reads) =>
    if v.few ≠ 2 || v.isGlobal || units = [] then m
    else
      let ahead := (List.range n).filter (fun t => !(inRanges k.done t) && !(units.contains t))
      let of := fun (l : List Nat) => match reads with
        | some f => viewGranules v ((l.flatMap f).eraseDups)
        | none => if l = [] then [] else viewGranules v (List.range v.count)
      m.setFull (spaceAt c v.cover.1.toNat) ((of units).filter (fun g => !((of ahead).contains g))) false

/-- The 16-byte pieces that a command writes, and those that it reads (R298). -/
def Work.pieces (w : Work) (k : CmdKind) : List (Space × Nat) × List (Space × Nat) :=
  let own := match k.source with
    | some (v, _, some f) => if v.isGlobal then [] else ((w.units.flatMap f).eraseDups).flatMap (fun t =>
        (List.range v.size).map (fun i => (Space.csp (2 ^ 64), ((v.addr t).toNat + i) / 16)))
    | _ => []
  ((w.cells.map (fun e => (e.1, e.2.1 / 16))).eraseDups, (w.read.map (fun a => (Space.glob, a / 16)) ++ own).eraseDups)

/-- Two parts of a command's work share no 16-byte piece that it writes, and none that it reads (R298). -/
def Work.apart (w rest : Work) (k : CmdKind) : Bool :=
  let a := w.pieces k
  let b := rest.pieces k
  a.1.all (fun p => !(b.1.contains p)) && a.2.all (fun p => !(b.2.contains p))

/-- A command that can be seen part-way: its elements are read and written one by one (R298, R341). -/
def CmdKind.divides : CmdKind → Bool
  | .copy .rice .. => false
  | .copy .. => true
  | .transpose .. => true
  | .fill .. => true
  | .quantise .. => true
  | .dequantise .. => true
  | .unpack .. => true
  | .pack .. => true
  | .shuffle .. => true
  | _ => false

/-- The page of a cell under a core's space: its first cell and address, and its size in 16 KiB units (R180). -/
def Mach.pageAt (m : Mach) (c : Nat) (va : Nat) : Option (Nat × Nat × Nat) :=
  match m.translate c (canonicalVa va) with
  | .leaf e shift => some ((pteKey e).toNat * 2 ^ 56 + ptePa e, va / 2 ^ shift * 2 ^ shift, 2 ^ (shift - 14))
  | _ => none

/-- The shadow set of a handle. -/
def CoreState.shadowSet (x : CoreState) (handle : Dword) : ShadowSet :=
  (x.shadows.find? (fun s => s.handle = handle)).getD { handle := handle, pages := [] }

def CoreState.setShadow (x : CoreState) (s : ShadowSet) : CoreState :=
  let others := x.shadows.filter (fun e => e.handle ≠ s.handle)
  { x with shadows := if s.pages = [] then others else others ++ [s] }

/-- Create the shadows of pages that a cp.sh writes first, each a copy of its live page now (R180). -/
def makeShadow (mem : Mem) (inRegion : Bool) (s : ShadowSet) (page : Nat × Nat × Nat) : ShadowSet :=
  if s.pages.any (fun p => p.live = page.1) then s
  else
    let data := mem.filter (fun e => decide (page.1 ≤ e.1) && decide (e.1 < page.1 + 16384 * page.2.2))
    let new : ShadowPage := { live := page.1, va := page.2.1, units := page.2.2, inRegion := inRegion, data := data }
    { s with pages := s.pages ++ [new] }

/-- Write cells into the shadows of their pages. -/
def writeShadow (s : ShadowSet) (cells : List (Nat × BitVec 8)) : ShadowSet :=
  let put := fun (p : ShadowPage) =>
    let own := cells.filter (fun e => decide (p.live ≤ e.1) && decide (e.1 < p.live + 16384 * p.units))
    { p with data := p.data.writeAll own }
  { s with pages := s.pages.map put }

/-- The writes of a cp.sh: no observer sees them (R180). -/
def Mach.shadowWrite (m : Mach) (c : Nat) (handle : Dword) (inRegion : Bool) (dst : View) (cells : List (Nat × BitVec 8)) :
    Mach :=
  let pages := ((List.range dst.count).filterMap (fun t => m.pageAt c (dst.addr t).toNat)).eraseDups
  let used := pages.filter (fun p => cells.any (fun e => p.1 ≤ e.1 && decide (e.1 < p.1 + 16384 * p.2.2)))
  m.modCore c (fun x => x.setShadow (writeShadow (used.foldl (makeShadow m.mem inRegion) (x.shadowSet handle)) cells))

/-! ### Start and completion (R160, R161, R165, R269) -/

/-- The command of a number. -/
def CoreState.command (x : CoreState) (id : Nat) : Option Command := x.flight.cmds.find? (fun k => k.id = id)

/-- Two intervals conflict (R269). -/
def Interval.conflicts (a b : Interval) : Bool :=
  a.space = b.space && meets a.lo a.hi b.lo b.hi && (a.write || b.write)
    && (match a.space with
      | .const _ => false
      | _ => true)

/-- An earlier local access that is not yet performed at its space meets the interval (R269, R429). -/
def accessConflicts (x : CoreState) (issue : Nat) (v : Interval) : Bool :=
  x.flight.stores.any (fun s => s.space = v.space && !s.performed && decide (s.issue ≤ issue)
    && s.bytes.any (fun b => v.lo ≤ b.1 && b.1 ≤ v.hi))
  || (v.write && x.flight.fars.any (fun f => f.space = v.space && decide (f.issue ≤ issue)
    && (f.elems.flatMap Elem.cells).any (fun a => v.lo ≤ a && a ≤ v.hi)))

/-- A command may start: it stands at the head of its engine, its copy has landed, and nothing earlier conflicts. -/
def canStart (x : CoreState) (k : Command) : Bool :=
  !k.running
  && x.flight.cmds.all (fun e => decide (k.id ≤ e.id) || (decide (e.slot ≠ k.slot)
      && k.ivals.all (fun v => e.ivals.all (fun u => !(u.conflicts v)))))
  && (match k.after with
      | some n => x.flight.cmds.all (fun e => decide (e.id ≠ n))
      | none => true)
  && k.ivals.all (fun v => !(accessConflicts x k.issue v))

/-- A fatal fault of an engine is reported, and the core stops (R165, R379); the record tells whether it was met as the core drained
for pre-emption (R380, R388). -/
def Mach.reportFault (m : Mach) (c : Nat) (k : Command) (cause : BitVec 8) (va : Dword) : Mach :=
  let t : Trap := { cause := cause, fatal := true, taddr := va, tval := BitVec.ofNat 64 (k.word.toNat + 2 ^ 32 * k.slot) }
  let m := m.noteCause c t
  let x := m.core c
  let drains := decide (((m.launch x.reg.launch).map (·.status)) = some .stopping)
  m.fatalTrap c (trapRecord x c m.vclk t.tcause va (if k.origin.fed then k.origin.prov else 0) t.tval k.origin.epc
    (trapFlags 0 false false (decide (k.stream = .secondary)) drains))

/-- A fault found in an engine ends the context with a fatal report (R165, R379). An open region is first rolled back with TRAP. The
fault of a command of the region itself is taken where the recovery path runs its words again; that of a command issued before the
region, which no words repeat, is reported then (R318, R379, log 108). -/
def Mach.engineFault (m : Mach) (c : Nat) (k : Command) (cause : BitVec 8) (va : Dword) : Mach :=
  match (m.core c).region with
  | some r => m.modCore c (fun x => { x with region := some { r with
      roll := some (r.roll.getD 5),
      fault := if k.inRegion then r.fault else some (r.fault.getD (k, cause, va)) } })
  | none => m.reportFault c k cause va

/-- A command leaves its engine: its counter falls and its intervals are released (R161, R271). -/
def Mach.leaveEngine (m : Mach) (c : Nat) (k : Command) : Mach :=
  m.modCore c (fun x => { x with
    flight.cmds := x.flight.cmds.filter (fun e => e.id ≠ k.id),
    cnt.mx := if k.slot = 4 then x.cnt.mx - 1 else x.cnt.mx,
    cnt.cp := if k.slot = 4 then x.cnt.cp else x.cnt.cp - 1 })

/-- A command's global writes, by cell. -/
def globalWrites (w : Work) : List (Nat × BitVec 8) := w.cells.reverse.filterMap (fun e => match e.1 with
  | .glob => some e.2
  | _ => none)

def globalCells (w : Work) : List Nat := (globalWrites w).map (·.1)

/-- A command's work takes effect, its global writes apart (R162, R163, R175, R180, R346). -/
def Mach.applyWork (m : Mach) (c : Nat) (k : Command) (w : Work) : Mach :=
  let cells := w.cells.reverse
  let m' := match k.kind with
    | .copy .shadow _ dst handle _ => m.shadowWrite c handle k.inRegion dst (cells.map (fun (e : Space × Nat × BitVec 8) => e.2))
    | _ => m.engineWrite cells
  let m' := m'.emptySource c k w.units
  let m' := if k.inRegion then m'.modCore c (fun x => { x with region := (m.core c).region }) else m'
  let lines := ((w.read.filter (fun a => !(w.loose.contains a))).map (· / 256)).eraseDups
  let m' := lines.foldl (fun m line => m.engineRead c k.rq k.inRegion line) m'
  m'.modCore c (fun x =>
    let x := match w.tile with
      | some (n, t) => { x with tiles := Sparse.set {} x.tiles n { t with tag := (x.tile n).tag } }
      | none => x
    match k.kind with
    | .copy .bstore .. => { x with loc.bdirty := true }
    | _ => x)

/-- The write of a command, in the order of the accesses of its core (R164, R316). -/
def Command.ref (k : Command) (cells : List Nat) : OpRef :=
  { id := k.id, issue := k.issue, slot := k.slot, stream := k.stream, store := true, cells := cells, group := k.group, engine := true }

/-- The global cells that a command has written ahead and whose ticket is not known. -/
def Mach.writtenAhead (m : Mach) (c : Nat) (k : Command) : List Nat :=
  (m.recent.filter (fun r => decide (r.agent = c) && decide (r.op = k.id))).map (·.cell)

/-- A command completes with its work (R161, R164, R165, R285): the charges of its reads leave, its events are appended, its counter
falls; a failure then ends the context. Its global writes are performed and take their ticket now, or, `late`, after that (R291,
R430). What it read or wrote at another module stays pending until the confirmation of its ticket (R283). -/
def Mach.finishCommand (m : Mach) (c : Nat) (k : Command) (w : Work) (events : List Event) (late : Bool) : Mach :=
  let owes := m.loadOwes c none w.read
  let glob := if k.kind.intoShadow then [] else globalWrites w
  let cells := glob.map (·.1)
  let ahead := m.writtenAhead c k
  let farRead := k.farRead || w.read.any (remoteCell m)
  let farWrite := k.farWrite || cells.any (remoteCell m)
  let tick := m.leastTicket (cells ++ ahead)
  let m' := (m.applyWork c k w).modCore c (fun x =>
    if farRead then
      let x := x.owe k.zonesRead owes.1 owes.2
      { x with flight.remotes := x.flight.remotes ++ [(k.id, k.zonesRead)] }
    else x.settle m.vclk k.zonesRead owes.1 owes.2)
  let store : StoreOp :=
    { id := k.id, issue := k.issue, stream := k.stream, slot := k.slot, origin := k.origin, space := .glob, bytes := glob,
      zones := k.zonesWrite, rq := k.rq, group := k.group, engine := true, done := ahead, remote := farWrite,
      loose := cells.filter w.loose.contains }
  let m' :=
    if glob = [] && ahead = [] && !w.device && !farWrite then
      (m'.ticketKnown c k.id none).modCore c (fun x => x.discharge m.vclk k.zonesWrite none)
    else
      let m' := m'.modCore c (fun x => { x with flight.stores := x.flight.stores ++ [{ store with performed := decide (glob = []) }] })
      if late then m'
      else
        let m' := if glob = [] then m' else m'.performStore c store
        m'.fixTicket c { store with performed := true } tick
  let m' := ({ m' with fresh := m'.fresh + 8 * w.read.length }.appendEvents c k.origin events).leaveEngine c k
  match w.fail with
  | some (.miss va) => m'.engineFault c k 3 va
  | some (.refused va) => m'.engineFault c k 5 va
  | none => m'

/-- Atomics of the core that issued before a command and that its reads meet (R164). -/
def Mach.atomicsBefore (m : Mach) (c : Nat) (k : Command) (cells : List Nat) : List OpRef :=
  (m.openRefs c).filter (fun r => r.load && r.store && decide (r.issue < k.issue) && r.cells.any cells.contains)

/-- A command with its reads and writes of global cells can go on now: no line of them is transient at its die (R351), and no write
that the same ct.dusk released before it is still to come (R316). -/
def Mach.canGoOn (m : Mach) (c : Nat) (k : Command) (reads writes : List Nat) : Bool :=
  !(m.cellsBusy c (writes ++ reads)) && !((m.core c).groupAhead k.group k.id)
    && (m.firstRefs c (k.ref writes)).all (m.canPerform c)

/-- A command deals with some of its elements ahead of the others, whole 16-byte pieces of what it reads and writes (R298, R341):
their bytes are read and written; global ones are seen from now on, before their ticket is known (R291). It waits while an earlier
atomic on the bytes it reads is open (R164). -/
def Mach.advanceCommand (m : Mach) (c : Nat) (k : Command) (only : List (Nat × Nat)) : Mach :=
  let m0 := m
  let m := m.beforeRead (dieOf c) (fun _ _ => false) (engineWork m c k [] only).read
  let w := engineWork m c k [] only
  let rest := engineWork m c { k with done := k.done ++ only } []
  let glob := if k.kind.intoShadow then [] else globalWrites w
  let cells := glob.map (·.1)
  if !k.kind.divides || w.fail.isSome || w.units = [] || !(w.apart rest k.kind) || !(m.canGoOn c k w.read cells)
      || (m.atomicsBefore c k w.read).length ≠ 0 then m0
  else
    let m := m.performFirst c (k.ref cells)
    let owes := m.loadOwes c none w.read
    let m := (m.applyWork c k w).modCore c (fun x => x.owe k.zonesRead owes.1 owes.2)
    let store : StoreOp :=
      { id := k.id, issue := k.issue, stream := k.stream, slot := k.slot, origin := k.origin, space := .glob, bytes := glob,
        rq := k.rq, engine := true, loose := cells.filter w.loose.contains }
    let m := if glob = [] then m else m.writeThrough c store glob
    let note := fun (e : Command) =>
      if e.id = k.id then { e with done := e.done ++ only, tally := Tally.join e.tally w.tally,
                                   farRead := e.farRead || w.read.any (remoteCell m),
                                   farWrite := e.farWrite || cells.any (remoteCell m) } else e
    { m with fresh := m.fresh + 8 * w.read.length }.modCore c (fun x => { x with flight.cmds := x.flight.cmds.map note })

/-- Stop a cp.sh (R183): it leaves its engine, and its charges leave their zones. -/
def Mach.stopCopy (m : Mach) (c : Nat) (k : Command) : Mach :=
  (m.modCore c (fun x => (x.discharge m.vclk k.zonesRead none).discharge m.vclk k.zonesWrite none)).leaveEngine c k

/-- A cp.sh of a handle. -/
def Command.shadows (k : Command) (handle : Dword) : Bool :=
  match k.kind with
  | .copy .shadow _ _ h _ => h = handle
  | _ => false

/-- The handle's shadow set ends unpublished (R183). -/
def Mach.cancelShadows (m : Mach) (c : Nat) (handle : Dword) : Mach :=
  let m := ((m.core c).flight.cmds.filter (fun k => k.shadows handle)).foldl (fun m k => m.stopCopy c k) m
  m.modCore c (fun x => x.setShadow { handle := handle, pages := [] })

/-- Complete a running command, other than a pub or an sread; `bad` names bytes whose reading fails beyond correction. Earlier
atomics on the bytes it reads are performed first (R164), and what must come before its writes (R164, R316). -/
def Mach.completeCommand (m : Mach) (c : Nat) (k : Command) (bad : List (Space × Nat)) (late : Bool) : Mach :=
  match k.kind with
  | .cancel handle => (m.cancelShadows c handle).finishCommand c k {} [] false
  | _ =>
    let w := engineWork m c k bad
    let first := m.atomicsBefore c k w.read
    let writes := fun (w : Work) => if k.kind.intoShadow then [] else globalCells w
    if !(first.all (m.canPerform c) && m.canGoOn c k w.read (writes w)) then m
    else
      let m := first.foldl (fun m r => m.force (m.earlyCount + 1) c r) (m.beforeRead (dieOf c) (fun _ _ => false) w.read)
      let m := if late && k.group = 0 then m else m.performFirst c (k.ref (writes w))
      let w := engineWork m c k bad
      m.finishCommand c k w ((Tally.join k.tally w.tally).events k.slot k.stream) late

/-- The pages of a shadow set take the place of the live ones at one tick (R182): the content of each page changes whole, and
every line of it counts as written: no cache holds it, regions that have read it roll back, monitors on it fire. -/
def Mach.swapPage (m : Mach) (p : ShadowPage) : Mach :=
  let hi := p.live + 16384 * p.units
  let inside := fun (line : Nat) => decide (p.live ≤ 256 * line) && decide (256 * line < hi)
  let mem : Mem := m.mem.filter (fun e => decide (e.1 < p.live)) ++ p.data ++ m.mem.filter (fun e => decide (hi ≤ e.1))
  let shown := m.fw.windows.any (fun w => meets p.live (hi - 1) w.2 (w.2 + 0x1FFFFFF))
  let m := m.settleWhere inside
  let m := { m with
    mem := mem,
    recent := m.recent.filter (fun r => !(inside (r.cell / 256))),
    dies := m.dies.map (fun (d : Nat × Die) =>
      (d.1, { d.2 with dir := d.2.dir.filter (fun e => !(inside e.1) || e.2.transient) })),
    homes := m.homes.filter (fun h => !(inside h.1)) }
  let m := m.mapCores (fun _ x =>
    let y := { x with
      caches.l1 := x.caches.l1.filter (fun (e : Nat × List Sector) => !(inside e.1)),
      caches.untracked := x.caches.untracked.filter (fun (u : UntrackedSector) => !(inside (u.sector / 4))) }
    if (x.region.map (fun (r : Region) => r.marks.any (fun k => inside k.line))).getD false then askRoll 3 y else y)
  let m := m.linesWritten [] ((List.range (64 * p.units)).map (fun i => p.live / 256 + i))
  if shown then m.mirrorIn ((List.range (16384 * p.units)).map (fun i => (p.live + i, Mem.read mem (p.live + i)))) else m

/-- A pub at the tick it takes as its ticket (R182). Pages of an open region are not yet of the set (R310). -/
def Mach.publish (m : Mach) (c : Nat) (k : Command) (handle : Dword) : Mach :=
  let all := ((m.core c).shadowSet handle).pages
  let pages := all.filter (fun p => !p.inRegion)
  let m := pages.foldl Mach.swapPage m
  let m := m.modCore c (fun x =>
    let x := x.setShadow { handle := handle, pages := all.filter (fun p => p.inRegion) }
    if pages.any (fun p => remoteCell m p.live) && k.zonesWrite ≠ [] then
      { x with flight.remotes := x.flight.remotes ++ [(k.id, k.zonesWrite)] }
    else x.discharge m.vclk k.zonesWrite (some m.vclk))
  m.leaveEngine c k

/-- The bytes of an sread land in its destination (R188): under a non-zero status each byte holds its old value or the data
read (log 13). DESIGN CHOICE (log 98): a global destination is written under .ow, as sread has no rq field. -/
def sreadWork (m : Mach) (c : Nat) (dst : View) (data : List (BitVec 8)) (failed : Bool) : Work :=
  let env : EngineEnv := { c := c, mem := [], above := [], bad := [], rq := 0, mode := .plain }
  (List.range dst.count).foldl (fun w t =>
    (List.range dst.size).foldl (fun w i =>
      let n := t * dst.size + i
      if failed && !(Config.sreadLands (m.fresh + n)) then w
      else w.put m env dst (dst.addr t + (i : Int)) [(data[n]?).getD 0]) w) {}

end Sys2Proof.Machine
end

