-- ==== Sys2Proof/Machine/CoreEvents.lean ====
section
/-! DEFINITION. The events that end what a core or a composer slot has in flight: results, loads, stores, tickets, timers and
engine commands. An event whose condition does not hold leaves the state as it is (log 18). -/

namespace Sys2Proof.Machine

/-- An event: a change of the module under its operands. -/
def eventStep (f : EventArgs → Mach → Mach) (s : State) : Host.Outcome State Fault Refusal :=
  .next { s with mach := f s.arg s.mach }

/-- The address of the bundle that issued an operation, with bit 0 set when it was fed (R101, R165). -/
def Origin.issuer (o : Origin) : Dword := if o.fed then setBit o.addr 0 true else o.addr

/-- An uncorrectable error is known: trap 0x09 at the next bundle of the stream (R101). -/
def Mach.knowError (m : Mach) (c : Nat) (st : Stream) (taddr : Dword) (o : Origin) : Mach :=
  m.modCore c (fun x => { x with flight.errors := x.flight.errors ++ [{ stream := st, taddr := taddr, tval := o.issuer }] })

/-! ### Results and loads -/

/-- A fixed-latency result, by its place among those on their way, arrives in its last cycle (R75, R77). -/
def resultArrives (a : EventArgs) (m : Mach) : Mach :=
  m.modCore a.agent (fun x => { x with flight.pend := x.flight.pend.mapIdx (fun i p =>
    if i = a.item && decide (p.cycles ≤ 1) && p.far.isNone then { p with cycles := 0 } else p) })

/-- The reference of an access of a core that is not yet performed. -/
def Mach.refOf (m : Mach) (c id : Nat) : Option OpRef := (m.openRefs c).find? (fun r => r.id = id)

/-- Perform an access of a core now, after what must precede it, if it can be; else nothing changes. -/
def Mach.performNow (m : Mach) (c id : Nat) : Mach :=
  match m.refOf c id with
  | some r =>
    if m.canPerform c r then
      let m := m.performBefore c r
      let m := match (m.core c).flight.loads.find? (fun l => l.id = id) with
        | some l => m.beforeLoad c l r.cells
        | none => m
      m.force (m.earlyCount + 1) c r
    else m
  | none => m

/-- The 16-byte pieces that some ranges of cells touch (R298). -/
def inPieces (l : List (Nat × Nat)) (a : Nat) : Bool := l.any (fun r => decide (r.1 / 16 ≤ a / 16) && decide (a / 16 ≤ r.2 / 16))

/-- Some 16-byte pieces of a load are performed ahead of the rest (R298): their bytes are fixed. -/
def Mach.capturePieces (m : Mach) (c : Nat) (l : LoadOp) (ranges : List (Nat × Nat)) : Mach :=
  match m.refOf c l.id with
  | none => m
  | some r =>
    if l.amo.isSome || l.device || !(m.canPerform c r) then m
    else
      let m := m.performBefore c r
      match (m.core c).flight.loads.find? (fun k => k.id = l.id) with
      | none => m
      | some l =>
        let cells := l.elems.flatMap Elem.cells
        let mine := fun (a : Nat) => inPieces ranges a && !(l.pieces.any (fun e => e.1 = a))
        let m := (m.beforeLoad c l (cells.filter mine)).takeIn c l (cells.filter mine)
        let got := (cells.zip (m.takes c l).bytes).filter (fun e => mine e.1)
        let owes := m.owesOf c l (got.map (·.1))
        (m.setLoad c { l with pieces := l.pieces ++ got }).modCore c (fun x => x.owe l.zones owes.1 owes.2)

/-- A counted load is performed, after what must precede it, and delivered (R76, R279, R282, R285, R295); under ranges only the
pieces named are performed (R298). A remote one stays pending in its zones until its confirmation (R283). -/
def loadDelivers (a : EventArgs) (m : Mach) : Mach :=
  let c := a.agent
  match (m.core c).flight.loads.find? (fun l => l.id = a.item) with
  | none => m
  | some l =>
    if a.ranges ≠ [] then (if l.data.isSome then m else m.capturePieces c l a.ranges)
    else
      let m := m.performNow c l.id
      match (m.core c).flight.loads.find? (fun k => k.id = l.id) with
      | none => m
      | some l =>
        let held := l.remote && !l.zones.isEmpty
        let m' := { m with fresh := m.fresh + 256 }
        if l.data.isNone then m
        else if held then (m'.deliver c { l with zones := [] }).modCore c (fun x => { x with
          flight.remotes := x.flight.remotes ++ [(l.id, l.zones)] })
        else m'.deliver c l

/-- A load leaves the core without a value: its register is unchanged, its charges leave and ld falls (R101). An atomic writes
nothing either. -/
def Mach.abandonLoad (m : Mach) (c : Nat) (l : LoadOp) : Mach :=
  let m := match l.amo with
    | some a => match (m.core c).flight.stores.find? (fun (s : StoreOp) => s.id = a.store) with
      | some s => m.dropStore c s none
      | none => m
    | none => m
  m.modCore c (fun x => { x with
    flight.loads := x.flight.loads.filter (fun o => o.id ≠ l.id),
    cnt.ld := x.cnt.ld - 1 }.discharge m.vclk l.zones none)

/-- Complete an engine command of which the bytes at some addresses cannot be read (R165): nothing that depends on them is
written, and the error is known. Global bytes are named by their virtual addresses, local ones by L-addresses. -/
def Mach.commandError (m : Mach) (c : Nat) (k : Command) (addrs : List (BitVec 64)) (places : List Nat) : Mach :=
  let glob := addrs.filterMap (fun va => match m.translate c va with
    | .leaf e shift => some (Space.glob, leafCell e shift va)
    | _ => none)
  let local_ := places.map (fun l => (match k.kind with
    | .mma .. => if l / 2 ^ 28 = 4 then Space.bstore c else spaceAt c l
    | _ => spaceAt c l, l % 2 ^ 28))
  let bad := glob ++ local_
  if !((engineWork m c k bad).hit) then m
  else
    let m' := m.completeCommand c k bad false
    if ((m'.core c).command k.id).isSome then m'
    else m'.knowError c k.stream ((addrs.head?).getD (BitVec.ofNat 64 ((places.head?).getD 0))) k.origin

/-- The address that an error of a load reports (R101, R157): its own, or, of a vector load, that of the first failing line: the
line of the address given where the load reads it, else its first line. -/
def Mach.failingAddress (m : Mach) (c : Nat) (l : LoadOp) (addrs : List (BitVec 64)) : Dword :=
  let line := fun (va : Dword) => va &&& ~~~(255 : Dword)
  match l.dest, addrs.head? with
  | some (.v _), some va => match m.translate c va with
    | .leaf e shift =>
      if (l.elems.flatMap Elem.cells).any (fun a => a / 256 = leafCell e shift va / 256) then line va else line l.va
    | _ => line l.va
  | some (.v _), none => line l.va
  | _, _ => l.va

/-- An uncorrectable memory error becomes known, on a counted load that has not delivered, though not on an atomic that has been
performed, or on the reads of an engine command (R101, R157, R165). -/
def memoryError (a : EventArgs) (m : Mach) : Mach :=
  let c := a.agent
  match (m.core c).flight.loads.find? (fun l => l.id = a.item && (l.data.isNone || l.amo.isNone)), (m.core c).command a.item with
  | some l, _ => (m.abandonLoad c l).knowError c l.stream (m.failingAddress c l a.addrs) l.origin
  | none, some k => if k.running then m.commandError c k a.addrs (a.cells.map (·.1)) else m
  | none, none => m

/-- A far local load is read at its space, after what must precede it (R293, R429). -/
def farLoadReads (a : EventArgs) (m : Mach) : Mach :=
  if (m.core a.agent).flight.fars.any (fun f => f.id = a.item) then m.performNow a.agent a.item else m

/-! ### Stores and tickets -/

/-- The bytes of a store that go through the L1 of an untracked page (R363). -/
def StoreOp.inCache (s : StoreOp) : List (Nat × BitVec 8) :=
  if s.cached then s.bytes.filter (fun b => s.loose.contains b.1) else []

/-- Some 16-byte pieces of a store are performed ahead of the rest (R298). -/
def Mach.performPieces (m : Mach) (c : Nat) (s : StoreOp) (p : Nat → Bool) : Mach :=
  let now := s.bytes.filter (fun b => p b.1 && !(s.inCache.contains b))
  let cells := now.map (·.1)
  if now = [] || now = s.bytes then m
  else ((m.writeThrough c s now).dropEarly c s.id cells).modStore c s.id (fun o =>
    { o with bytes := o.bytes.filter (fun b => !(cells.contains b.1)), done := o.done ++ cells })

/-- A store, or a completed engine write, is performed at one die ahead of other observers (R281, R291, R296): in open mode; under
tempered mode at every die but its core's own at once (part 66), where a pair of stores is kept at its own die alone (R295). Not
one that a ct.dusk released (R316). -/
def Mach.performAhead (m : Mach) (c d : Nat) (r : OpRef) (s : StoreOp) : Mach :=
  if s.group ≠ 0 || r.remote then m
  else if m.fleet.tempered then
    (if d = 64 then ((List.range 64).filter (fun k => k ≠ dieOf c)).foldl (fun m k => m.performAt k c s) (m.performFirst c r) else m)
  else if 64 ≤ d then m
  else (if d = dieOf c then m.performBefore c r else m.performFirst c r).performAt d c s

/-- A write under .uc is performed at the home when every acknowledgement is in, the one of a lease at its expiry (R280, R347). -/
def Mach.mayPerform (m : Mach) (s : StoreOp) : Bool :=
  s.rq ≠ 3 || s.performed || tickGe m.vclk (m.leastTicket (s.bytes.map (·.1) ++ s.done))

/-- STORE_TICKET_KNOWN of a core store or of a completed engine write. Part 0: every acknowledgement is held now; it is performed,
after what must precede it, and has its ticket (R280, R281). Part 1: where leases put its ticket into the future, the ticket is
known, and the write is performed by then (R281, R347). Part 2 + d: it is performed at die d ahead of the others (R296). Under
ranges it is performed on the pieces named (R298). Bytes of an untracked page enter the L1, and are performed as their sectors are
written back (R363). -/
def storeTicket (a : EventArgs) (m : Mach) : Mach :=
  let c := a.agent
  match (m.core c).flight.stores.find? (fun s => s.id = a.item && s.space = .glob && s.waits.isNone) with
  | none => m
  | some s =>
    let r := m.storeRef s
    let go := m.canPerform c r && m.mayPerform s
    if s.inCache ≠ [] && !s.entered then
      (if go then (m.performFirst c r).enterStore c s else m)
    else if s.inCache ≠ [] then
      (if go then (m.performBefore c r).performPieces c s (fun _ => true) else m)
    else if 2 ≤ a.part then (if go && !s.performed then m.performAhead c (a.part - 2) r s else m)
    else if a.ranges ≠ [] then (if go && !s.performed then (m.performBefore c r).performPieces c s (inPieces a.ranges) else m)
    else if a.part = 1 then
      (if go && s.ticket.isNone && !s.performed && !(tickGe m.vclk (m.storeTick s a.tick)) then
        m.fixTicket c s (m.storeTick s a.tick) else m)
    else if !go then m
    else
      let t := m.storeTick s a.tick
      let m := m.performNow c s.id
      match (m.core c).flight.stores.find? (fun o => o.id = s.id) with
      | some s => if s.performed && s.ticket.isNone then m.fixTicket c s t else m
      | none => m

/-- A composer store gets its ticket: it is performed, after the slot's earlier stores to the same bytes (R207, R218, R282). -/
def hartTicket (a : EventArgs) (m : Mach) : Mach :=
  let n := a.agent
  match (m.hart n).stores.find? (fun s => s.id = a.item && s.ticket.isNone) with
  | none => m
  | some s =>
    let cells := s.bytes.map (·.1)
    let t := m.leastTicket cells
    let before := { m.hart n with stores := (m.hart n).stores.filter (fun o => decide (o.id < s.id)) }
    let m := (before.chain false cells).foldl (fun m o => m.performHart n o) m
    let m := (m.performHart n s).modHart n (fun h => { h with stores := h.stores.map (fun o =>
      if o.id = s.id then { o with performed := true, ticket := some t } else o) })
    m.ticketKnown (slotAgent n) s.id (some t)

/-- A far local store is performed at its space, after what must precede it; it leaves the core with the tick of that moment
(R280, R293, R429). -/
def farStorePerforms (a : EventArgs) (m : Mach) : Mach :=
  let c := a.agent
  match (m.core c).flight.stores.find? (fun s => s.id = a.item && s.space ≠ .glob) with
  | none => m
  | some s =>
    let m := if s.performed then m else m.performNow c s.id
    match (m.core c).flight.stores.find? (fun o => o.id = s.id) with
    | some s => if s.performed then m.dropStore c s (some m.vclk) else m
    | none => m

/-- The home module of a remote access has confirmed its ticket (R283): a write has been performed by then (R281), and the access
leaves its zones. -/
def remoteConfirmed (a : EventArgs) (m : Mach) : Mach :=
  let c := a.agent
  let mine := (m.core c).flight.remotes.filter (fun r => r.1 = a.item)
  let marks := mine.flatMap (fun r => r.2)
  if mine = [] then m
  else
    let m := match (m.core c).flight.stores.find? (fun s => s.id = a.item) with
      | some s => if s.performed || s.ticket.isNone then m
        else (m.performBefore c (m.storeRef s)).force (m.earlyCount + 1) c (m.storeRef s)
      | none => m
    m.modCore c (fun x => { x with
      flight.remotes := x.flight.remotes.filter (fun e => e.1 ≠ a.item) }.discharge m.vclk marks none)

/-- An access to a module that no route reaches ends without effect and raises trap 0x09 (R418); of a command those of its bytes
that lie there. -/
def routeTimeout (a : EventArgs) (m : Mach) : Mach :=
  let c := a.agent
  let lost := fun (cell : Nat) => m.fw.unreachable.contains (cellModule cell)
  match (m.core c).flight.loads.find? (fun l => l.id = a.item && (l.elems.flatMap Elem.cells).any lost),
      (m.core c).flight.stores.find? (fun s => s.id = a.item && s.space = .glob && !s.engine && s.ticket.isNone
        && s.bytes.any (fun b => lost b.1)), (m.core c).command a.item with
  | some l, _, _ => (m.abandonLoad c l).knowError c l.stream (m.failingAddress c l a.addrs) l.origin
  | none, some s, _ => (m.dropStore c s none).knowError c s.stream s.va s.origin
  | none, none, some k =>
    let w := engineWork m c k []
    let written := w.cells.filter (fun e => !(e.1 = Space.glob && lost e.2.1))
    if !k.running then m
    else if w.read.any lost then m.commandError c k a.addrs []
    else if written.length = w.cells.length then m
    else (m.finishCommand c k { w with cells := written } (w.tally.events k.slot k.stream) false).knowError c k.stream
      ((a.addrs.head?).getD 0) k.origin
  | none, none, none => m

/-! ### Clocks and timers -/

/-- A lease that has reached its expiry: the sector is dropped with no message (R348), and a region that holds the line under it
rolls back with CONFLICT (R312). -/
def CoreState.expireLeases (x : CoreState) (now : Tick) : CoreState :=
  let drop := fun (s : Sector) => match s with
    | .leased t => if tickGe now t then Sector.invalid else s
    | _ => s
  let x := { x with
    caches.l1 := x.caches.l1.map (fun (e : Nat × List Sector) => (e.1, e.2.map drop)),
    caches.untracked := x.caches.untracked.filter (fun (u : UntrackedSector) => u.dirty || (u.lease.all (fun t => !(tickGe now t)))) }
  match x.region with
  | some r =>
    let late := fun (k : LoadMark) => match k.lease with
      | some t => tickGe now t
      | none => false
    if r.marks.any late then askRoll 3 x else x
  | none => x

/-- Stores of a core whose ticket is known and that a choice names are performed at every observer, after what must precede them
(R281, R291). -/
def Mach.performTimed (m : Mach) (c : Nat) (p : Tick → Bool) : Mach :=
  ((m.core c).flight.stores.filter (fun s => !s.performed && s.ticket.any p)).foldl (fun m s => match m.refOf c s.id with
    | some r => (m.performBefore c r).force (m.earlyCount + 1) c r
    | none => m) m

/-- The stores whose ticket has come are performed (R281). -/
def Mach.performDue (m : Mach) : Mach := (m.cores.map (·.1)).foldl (fun m c => m.performTimed c (tickGe m.vclk)) m

/-- Ticks that `due` names are marked passed (R10): in the epochs of zones, also of saved cores, in leases, in the bounds of home agents, in the record
of tickets and among the stores of composer slots. -/
def Mach.markTicks (m : Mach) (due : Tick → Bool) : Mach :=
  let old := fun (t : Option Tick) => match t with
    | some t => due t
    | none => false
  let clear := fun (t : Option Tick) => if old t then none else t
  let epoch := fun (e : Epoch) => { e with ticket := clear e.ticket }
  { m with
    cores := m.cores.map (fun e => (e.1, { e.2 with
      zones := e.2.zones.map (fun z => ({ z with epochs := z.epochs.map epoch } : Zone).merge m.vclk) })),
    dies := m.dies.map (fun d => (d.1, { d.2 with dir := d.2.dir.map (fun k => (k.1, { k.2 with lease := clear k.2.lease })) })),
    comps := m.comps.map (fun k => (k.1, { k.2 with harts := k.2.harts.map (fun h =>
      (h.1, { h.2 with stores := h.2.stores.filter (fun s => !(s.performed && old s.ticket)) })) })),
    homes := m.homes.map (fun h => (h.1, { h.2 with lease := clear h.2.lease })),
    fw.launches := m.fw.launches.map (fun l => { l with
      saved := l.saved.map (fun s => { s with tickets := s.tickets.map clear }),
      gens := l.gens.map (fun g => { g with saved := g.saved.map (fun h =>
        { h with stores := h.stores.filter (fun s => !(s.performed && old s.ticket)) }) }) }),
    bounds := m.bounds.filter (fun b => !(due b.2)),
    recent := m.recent.filter (fun r => !(old r.tick)) }

/-- The tick now is the release tick of a launch, and it is not released, or a core of it has not had its first cycle (R255). -/
def Mach.releasing (m : Mach) : Bool :=
  m.fw.launches.any (fun l => l.status = .claimed && l.tick = some m.vclk) || m.cores.any (fun e => e.2.running && e.2.front.awaits)

/-- VCLK advances by one tick (R9): leases that it reaches expire, stores whose ticket it reaches are performed, and a tick that
passed 2^20 ticks ago and is not yet marked passed is marked now (R10). A release tick lasts until every core that it releases has
had a cycle (R255). -/
def clockTick (_ : EventArgs) (m : Mach) : Mach :=
  if m.releasing then m
  else
    let m := { m with vclk := m.vclk + 1 }
    let m := (m.mapCores (fun _ x => x.expireLeases m.vclk)).performDue
    m.markTicks (tickGe (m.vclk - 0x100000))

/-- Every tick that has passed is marked passed (R10). -/
def markPassed (_ : EventArgs) (m : Mach) : Mach := m.markTicks (tickGe m.vclk)

/-- The leases of one core that have reached their expiry are dropped (R348). -/
def leaseExpires (a : EventArgs) (m : Mach) : Mach := m.modCore a.agent (fun x => x.expireLeases m.vclk)

/-- The timeout of an mwait has passed: the monitor is disarmed, and the wait ends (R123). -/
def mwaitTimesOut (a : EventArgs) (m : Mach) : Mach :=
  match ((m.core a.agent).streamState a.stream).mwait with
  | some (some d) => if tickGe m.vclk d then m.modCore a.agent (fun x => { x with monitor := none }) else m
  | _ => m

/-- The last cycle of ct.idle passes (R129). -/
def idleExpires (a : EventArgs) (m : Mach) : Mach :=
  if ((m.core a.agent).streamState a.stream).idle = 1 then m.idleStep a.agent a.stream else m

/-! ### Engines -/

/-- The read of a handle entry completes (R164). -/
def handleRead (a : EventArgs) (m : Mach) : Mach :=
  m.modCore a.agent (fun x => { x with flight.handles := x.flight.handles.map (fun h =>
    if h.addr = a.word && h.stream = a.stream then { h with read := true } else h) })

/-- An engine starts a command when nothing earlier conflicts (R160, R269). -/
def commandStarts (a : EventArgs) (m : Mach) : Mach :=
  let x := m.core a.agent
  match x.command a.item with
  | some k =>
    if canStart x k then m.modCore a.agent (fun x => { x with flight.cmds := x.flight.cmds.map (fun e =>
      if e.id = k.id then { e with running := true } else e) })
    else m
  | none => m

/-- A command that completes by its engine alone. -/
def Command.plain (k : Command) : Bool :=
  match k.kind with
  | .pub _ => false
  | .sread .. => false
  | _ => true

/-- A running command completes (R161, R165), its global writes seen now, or, under the flag, later, with their ticket (R291); under ranges it goes on with the elements named (R298, R341). -/
def commandCompletes (a : EventArgs) (m : Mach) : Mach :=
  match (m.core a.agent).command a.item with
  | some k =>
    if !(k.running && k.plain) then m
    else if a.ranges ≠ [] then m.advanceCommand a.agent k a.ranges
    else m.completeCommand a.agent k [] a.flag
  | none => m

/-- A pub swaps its pages when every earlier cp.sh into the handle has completed (R182), and after every earlier write that the same
ct.dusk released (R316). -/
def pubSwaps (a : EventArgs) (m : Mach) : Mach :=
  let c := a.agent
  let x := m.core c
  match x.command a.item with
  | some k => match k.kind with
    | .pub handle =>
      let r := k.ref []
      if k.running && x.flight.cmds.all (fun e => !(e.shadows handle && decide (e.id < k.id))) && !(x.groupAhead k.group k.id)
          && (m.firstRefs c r).all (m.canPerform c) then (m.performFirst c r).publish c k handle
      else m
    | _ => m
  | none => m

/-- An sread completes with an NVMe status (R188): its data lands, and a non-zero status appends a storage-error event that names
the first failing block. -/
def sreadEnds (a : EventArgs) (status : BitVec 32) (m : Mach) : Mach :=
  let c := a.agent
  match (m.core c).command a.item with
  | some k => match k.kind with
    | .sread _ dst _ _ _ =>
      let w := sreadWork m c dst a.bytes (status ≠ 0)
      let events : List Event := if status = 0 then []
        else [{ kind := 0x41, slot := k.slot, stream := k.stream, count := 1, first := a.part, detail := status }]
      if k.running && m.canGoOn c k [] (globalCells w) then
        ({ m with fresh := m.fresh + a.bytes.length }.performFirst c (k.ref (globalCells w))).finishCommand c k w events a.flag
      else m
    | _ => m
  | none => m

/-- A region that has been told to roll back does so once its counted loads have delivered (R315); the fatal fault of a
command issued before it is reported then (R379, log 108). -/
def regionRolls (a : EventArgs) (m : Mach) : Mach :=
  let x := m.core a.agent
  match x.region with
  | some r => match r.roll with
    | some k =>
      if x.regionLoads then m
      else match r.fault with
        | some (cmd, cause, va) => (m.rollback a.agent k).reportFault a.agent cmd cause va
        | none => m.rollback a.agent k
    | none => m
  | none => m

/-! ### Events -/

/-- FIXED_LATENCY_RESULT (R75) -/
def execFixedLatencyResult (s : State) : Host.Outcome State Fault Refusal := eventStep resultArrives s
/-- COUNTED_LOAD_DELIVERY (R76) -/
def execCountedLoadDelivery (s : State) : Host.Outcome State Fault Refusal := eventStep loadDelivers s
/-- UNCORRECTABLE_MEMORY_ERROR (R101) -/
def execUncorrectableMemoryError (s : State) : Host.Outcome State Fault Refusal := eventStep memoryError s
/-- STORE_TICKET_KNOWN (R280), of a composer slot where the flag is set -/
def execStoreTicketKnown (s : State) : Host.Outcome State Fault Refusal :=
  eventStep (fun a m => if a.flag then hartTicket a m else storeTicket a m) s
/-- FAR_STORE_PERFORMED (R429) -/
def execFarStorePerformed (s : State) : Host.Outcome State Fault Refusal := eventStep farStorePerforms s
/-- FAR_LOAD_PERFORMED (R429) -/
def execFarLoadPerformed (s : State) : Host.Outcome State Fault Refusal := eventStep farLoadReads s
/-- REMOTE_ROUTE_TIMEOUT (R418) -/
def execRemoteRouteTimeout (s : State) : Host.Outcome State Fault Refusal := eventStep routeTimeout s
/-- VCLK_TICK (R9) -/
def execVclkTick (s : State) : Host.Outcome State Fault Refusal := eventStep clockTick s
/-- TICK_MARKED_PASSED (R10) -/
def execTickMarkedPassed (s : State) : Host.Outcome State Fault Refusal := eventStep markPassed s
/-- LEASE_EXPIRY (R348) -/
def execLeaseExpiry (s : State) : Host.Outcome State Fault Refusal := eventStep leaseExpires s
/-- MWAIT_TIMEOUT (R123) -/
def execMwaitTimeout (s : State) : Host.Outcome State Fault Refusal := eventStep mwaitTimesOut s
/-- IDLE_COUNT_EXPIRY (R129) -/
def execIdleCountExpiry (s : State) : Host.Outcome State Fault Refusal := eventStep idleExpires s
/-- SECONDARY_FAIRNESS_WITHHOLD (R79) -/
def execSecondaryFairnessWithhold (s : State) : Host.Outcome State Fault Refusal :=
  eventStep (fun a m => m.withholdPrimary a.agent) s
/-- HANDLE_ENTRY_READ (R164) -/
def execHandleEntryRead (s : State) : Host.Outcome State Fault Refusal := eventStep handleRead s
/-- ENGINE_COMMAND_START (R269) -/
def execEngineCommandStart (s : State) : Host.Outcome State Fault Refusal := eventStep commandStarts s
/-- ENGINE_COMMAND_COMPLETE (R161) -/
def execEngineCommandComplete (s : State) : Host.Outcome State Fault Refusal := eventStep commandCompletes s
/-- PUB_SWAP (R182) -/
def execPubSwap (s : State) : Host.Outcome State Fault Refusal := eventStep pubSwaps s
/-- SREAD_COMPLETION (R188) -/
def execSreadCompletion (s : State) : Host.Outcome State Fault Refusal :=
  eventStep (fun a m => sreadEnds a (a.word.setWidth 32) m) s
/-- NVME_COMMAND_TIMEOUT (R415): the aborted command counts as completed with status 0xFFFF -/
def execNvmeCommandTimeout (s : State) : Host.Outcome State Fault Refusal :=
  eventStep (fun a m => sreadEnds a 0xFFFF m) s
/-- REGION_ROLLBACK (R315) -/
def execRegionRollback (s : State) : Host.Outcome State Fault Refusal := eventStep regionRolls s

/-! ### Words that are no instruction of a slot -/

/-- NOP (R62): it issues and does nothing. -/
def execNop (s : State) : Host.Outcome State Fault Refusal := runWord .nop (fun iss m => .ok (iss, m)) s

/-- ILLEGAL_ENCODING (R71): trap 0x01 at issue; TVAL holds the word, its slot, and whether the bundle is illegal as a whole. -/
def execIllegalEncoding (slot : Slot) (w : BitVec 32) (whole : Bool) (s : State) : Host.Outcome State Fault Refusal :=
  runWord (.illegalEncoding slot w whole) (fun _ _ =>
    .error (.trap { cause := 1, tval := BitVec.ofNat 64 (w.toNat + 2 ^ 32 * slot.num + 2 ^ 40 * whole.toNat) })) s

end Sys2Proof.Machine
end

