-- ==== Sys2Proof/Machine/Coherence.lean ====
section
/-! DEFINITION. The moves of the caches, the die directories and the home agents of their own accord (R351 to R356), instruction
prefetch, shootdowns and residency (R275, R276, R359, R360). What a request does stands in Cache.lean. -/

namespace Sys2Proof.Machine

/-! ### The die directory (R348 to R353) -/

/-- A core asks its slice for a sector ahead of an access, or a prefetch of data: a read, one under .si with the flag (R346,
R351). A line of untracked pages has no entry, and asks for none (R363). A read homed at another module may be served as a lease
(kind home): there it is the reader of a fifth module (R355). -/
def dirReads (a : EventArgs) (m : Mach) : Mach :=
  let s := a.part % 4
  let lease := a.flag || (a.kind = .home && remoteCell m (256 * a.item))
  if (m.core a.agent).caches.untracked.any (fun u => u.sector / 4 = a.item) then m
  else m.request (dieOf a.agent) a.item { core := a.agent, part := s, kind := none, flag := lease }

/-- The stores for which requests about a line wait (R351): core and number. -/
def Mach.storesFor (m : Mach) (line : Nat) : List (Nat × Nat) :=
  m.dies.flatMap (fun d => match Sparse.find d.2.dir line with
    | some e => (e.req.toList ++ e.waiting).filterMap (fun r => r.store.map (fun s => (r.core, s)))
    | none => [])

/-- The stores whose request has been served are performed in the same move: their ticket is the tick in which the line's directory
holds every acknowledgement (R280, R351). -/
def Mach.servedStores (m : Mach) (line : Nat) (before : List (Nat × Nat)) : Mach :=
  (before.filter (fun q => !((m.storesFor line).contains q))).foldl (fun m q => storeTicket { agent := q.1, item := q.2 } m) m

/-- A core, or one of its engines where the flag is set, asks its slice to own sectors (R351, R430): for a store of the core, where
`word` gives its number and one more. -/
def dirOwns (a : EventArgs) (m : Mach) : Mach :=
  let store := if a.word = 0 then none else some (a.word.toNat - 1)
  if (m.core a.agent).caches.untracked.any (fun u => u.sector / 4 = a.item) then m
  else
    let before := m.storesFor a.item ++ (store.map (fun s => (a.agent, s))).toList
    (m.request (dieOf a.agent) a.item
      { core := a.agent, part := a.part, kind := some (if a.flag && a.kind = .owned then .through else a.kind), flag := a.flag,
        store := store }).servedStores a.item before

/-- A message arrives, if it is the next of its channel (R352). -/
def arrives (g : Msg) (m : Mach) : Mach :=
  match m.takeMsg g with
  | some n => (n.deliverMsg g).servedStores g.line (m.storesFor g.line)
  | none => m

/-- The notice of a core for a line that is next in its channel: with data, or clean. -/
def Mach.nextNotice (m : Mach) (c line : Nat) (data : Bool) : Option Msg :=
  m.msgs.find? (fun g => match g with
    | .notice k l w => k = c && l = line && data = !w.isEmpty
    | _ => false)

/-- An L1 evicts a line of which no sector is modified, and sends the notice (R351), but for one of an untracked page (R363); under
the flag a notice arrives. -/
def evictsClean (a : EventArgs) (m : Mach) : Mach :=
  let x := m.core a.agent
  if a.flag then (match m.nextNotice a.agent a.item false with
    | some g => arrives g m
    | none => m)
  else if x.looseLines.contains a.item && x.caches.untracked.all (fun u => u.sector / 4 ≠ a.item || !u.dirty) then
    m.evict a.agent a.item
  else if Sparse.get [] x.caches.l1 a.item = [] || x.modifiedSectors a.item ≠ [] then m
  else m.evict a.agent a.item

/-- An L1 evicts a line with modified sectors, and sends the notice with its data (R351), or untracked sectors, which it writes back
whole (R363); under the flag a notice arrives. -/
def evictsData (a : EventArgs) (m : Mach) : Mach :=
  let c := a.agent
  let x := m.core c
  let mine := fun (s : Nat) => decide (s / 4 = a.item)
  if a.flag then (match m.nextNotice c a.item true with
    | some g => arrives g m
    | none => m)
  else if x.caches.untracked.any (fun u => mine u.sector) then
    (m.writeBack c mine).modCore c (fun x =>
      { x with caches.untracked := x.caches.untracked.filter (fun u => !(mine u.sector)) })
  else if x.modifiedSectors a.item = [] then m
  else m.evict c a.item

/-- The L2 of a die evicts a line that is not transient (R353). A retained line leaves only for another of its range, as that one is
taken in (R276). -/
def l2Evicts (a : EventArgs) (m : Mach) : Mach :=
  match m.dirOf a.agent a.item with
  | some e => if e.transient || e.retained.isSome then m else m.leaveL2 a.agent a.item
  | none => m

/-! ### Home agents (R354, R355) -/

/-- An owned write of a die, or of a module under the flag, at the home (R354): every other die and module that holds the line loses
it, its own L1s first. -/
def homeWrites (a : EventArgs) (m : Mach) : Mach :=
  let others := if a.flag then (List.range 64).filter (fun k => bit (m.home a.item).dies k) else m.otherDies a.agent a.item
  let m := if m.homeFree 64 a.item then others.foldl (fun m k => m.dropDie k a.item) m else m
  if !(m.homeFree 64 a.item) then m
  else if a.flag then m.setHome a.item { m.home a.item with dies := 0, owner := none, remote := [a.agent] }
  else
    let m := m.homeOwned a.agent a.item
    match m.dirOf a.agent a.item with
    | some e => m.setDir a.agent a.item { e with permission := true }
    | none => m

/-- A read at the home, by a die, or by a remote module where the flag is set (R346, R354, R355): a modified copy is recalled;
the reader is tracked, or has a lease of `word` ticks: a .si reader (kind home), or a fifth remote module. -/
def homeReads (a : EventArgs) (m : Mach) : Mach :=
  let t := m.vclk + BitVec.ofNat 48 (a.word.toNat % 65536)
  let reader := if a.flag then 64 else a.agent
  if !(m.homeFree 64 a.item) then m
  else if a.kind = .home then m.homeLease reader a.item t
  else if a.flag then
    let m := match (m.home a.item).owner with
      | some o => m.recallOwner o a.item
      | none => m
    let h := { m.home a.item with owner := none }
    if h.remote.contains a.agent then m.setHome a.item h
    else if h.remote.length < 4 then m.setHome a.item { h with remote := h.remote ++ [a.agent] }
    else m.setHome a.item { h with lease := laterTick h.lease (some t) }
  else m.homeMark a.agent a.item

/-- A home evicts a directory entry (R355): every copy is invalidated, and the entry's lease expiry enters the bound of its
agent. -/
def homeEvicts (a : EventArgs) (m : Mach) : Mach :=
  match Sparse.find m.homes a.item with
  | none => m
  | some h =>
    let holds := fun (k : Nat) => bit h.dies k || (m.dirOf k a.item).isSome
    if (List.range 64).any (fun k => m.lineBusy k a.item) || h.waiting ≠ [] then m
    else
      let m := ((List.range 64).filter holds).foldl (fun m k => m.dropDie k a.item) m
      let agent := homeAgent (256 * a.item)
      let bounds := match laterTick (Sparse.find m.bounds agent) h.lease with
        | some t => Sparse.put m.bounds agent t
        | none => m.bounds
      { m with homes := Sparse.erase m.homes a.item, bounds := bounds }

/-! ### Prefetch, shootdowns, keys and residency -/

/-- Sequential prefetch of up to `n` lines from a line's address on (R360): it stops at a page of kind device registers, at a
missing translation, and at the end of a page whose END bit is set. -/
def prefetch (c : Nat) : Nat → Dword → Mach → Mach
  | 0, _, m => m
  | n + 1, va, m =>
    match m.translate c va with
    | .leaf e shift =>
      let last : Bool := (va.toNat + 256) % 2 ^ shift = 0
      let m := if pteKind e = 1 then m else (m.fetchLine c (leafCell e shift va / 256)).2
      if pteKind e = 1 || (last && pteEnd e) then m else prefetch c n (va + 256) m
    | _ => m

/-- Prefetch ahead of a core's line buffer, at most 8 lines (R360). -/
def prefetches (a : EventArgs) (m : Mach) : Mach :=
  let pc := (m.core a.agent).front.pc
  let line := pc &&& ~~~(255 : Dword)
  match m.translate a.agent line with
  | .leaf e shift =>
    if (line.toNat + 256) % 2 ^ shift = 0 && pteEnd e then m else prefetch a.agent (min 8 a.item) (line + 256) m
  | _ => m

/-- A core has an access in flight, held by its region or committed, that used a translation and is not yet performed. -/
def CoreState.unperformed (x : CoreState) : Bool :=
  let held := x.releasing ++ ((x.region.map (·.held)).getD [])
  x.flight.loads.any (fun l => l.data.isNone) || x.flight.stores.any (fun s => s.space = .glob && !s.performed)
    || x.flight.cmds ≠ [] || held.any (fun h => match h with
      | .write w => w.store.space = .glob
      | .take _ _ => false
      | .cmd _ _ => true)

/-- Translations that a walk no longer gives leave the TLBs and the walkers of a die (R359). -/
def Mach.flushTlb (m : Mach) (d : Nat) : Mach :=
  let keeps := fun (w : Walked) => (m.root w.space).bind (tableFrom m.mem (w.region * 2 ^ 21) [4, 3, 2, 1, 0]) = some w.table
  (m.modDie d (fun x => { x with walks := x.walks.filter keeps })).mapCores (fun k x => if dieOf k = d then
    { x with caches.tlb := x.caches.tlb.filter (fun e =>
      m.walk e.space (canonicalVa (e.page * 2 ^ e.shift)) = .leaf e.leaf e.shift) } else x)

/-- The other modules that hold a tree of a space (R357). -/
def Mach.awayOf (m : Mach) (space : BitVec 36) : List Nat :=
  (((Sparse.get ({} : SpaceRec) m.fw.spaces (field space 0 20)).roots).map (·.1)).filter (fun k => k ≠ m.fleet.number.toNat)

/-- F2 sends a shootdown to every die that may hold a translation, of this module and of `away` (R359). -/
def Mach.shootDown (m : Mach) (away : List Nat) : Mach :=
  let dies := (m.cores.map (fun e => dieOf e.1) ++ m.dies.map (·.1)).eraseDups
  dies.foldl (fun m d => m.modDie d (fun x => { x with shootdown := true }))
    { m with fw.awaits := m.fw.awaits ++ away.filter (fun k => !(m.fw.awaits.contains k)) }

/-- A shootdown has not been acknowledged by every die (R359). -/
def Mach.shooting (m : Mach) : Bool := m.dies.any (fun d => d.2.shootdown) || m.fw.awaits ≠ []

/-- A die acknowledges a shootdown once no access that used the dropped translation remains unperformed; or, under the flag, the dies
of module `part` all have (R359). -/
def shootdownAcks (a : EventArgs) (m : Mach) : Mach :=
  if a.flag then { m with fw.awaits := m.fw.awaits.filter (fun k => k ≠ a.part) }
  else
  let d := a.agent
  let busy := (List.range 16).any (fun k => (m.core (16 * d + k)).unperformed)
    || (List.range 4).any (fun k => (m.comp (4 * d + k)).harts.any (fun h => h.2.stores.any (fun s => !s.performed)))
  if !((m.die d).shootdown) || busy then m
  else (m.flushTlb d).modDie d (fun x => { x with shootdown := false })

/-- The key of a line. -/
def keyOfLine (line : Nat) : Nat := 256 * line / 2 ^ 56

/-- F6 retires a key (R356): every cache writes back and invalidates its lines under it, which fires monitors on them (R122); walks no
longer find its leaves. -/
def Mach.retireKey (m : Mach) (k : Nat) : Mach :=
  let m := m.cores.foldl (fun m e => m.writeBack e.1 (fun s => decide (keyOfLine (s / 4) = k)))
    (m.settleWhere (fun line => decide (keyOfLine line = k)))
  let clean := fun (x : CoreState) =>
    let y := { x with
      caches.l1 := x.caches.l1.filter (fun (e : Nat × List Sector) => keyOfLine e.1 ≠ k),
      caches.untracked := x.caches.untracked.filter (fun (u : UntrackedSector) => keyOfLine (u.sector / 4) ≠ k),
      caches.tlb := x.caches.tlb.filter (fun (e : TlbEntry) => (pteKey e.leaf).toNat ≠ k),
      caches.icache := x.caches.icache.filter (fun (e : Nat × BitVec 2048) => keyOfLine e.1 ≠ k),
      caches.lineBuf := x.caches.lineBuf.filter (fun (e : Nat × BitVec 2048) => keyOfLine e.1 ≠ k),
      monitor := x.monitor.map (fun n => if keyOfLine n.line = k then { n with fired := true } else n) }
    match x.region with
    | some r => if r.marks.any (fun n => keyOfLine n.line = k) then askRoll 3 y else y
    | none => y
  { m with
    cores := m.cores.map (fun e => (e.1, clean e.2)),
    clusters := m.clusters.map (fun e => (e.1, { e.2 with icache := e.2.icache.filter (fun l => keyOfLine l.1 ≠ k) })),
    dies := m.dies.map (fun d => (d.1, { d.2 with dir := d.2.dir.filter (fun e => keyOfLine e.1 ≠ k) })),
    homes := m.homes.filter (fun h => keyOfLine h.1 ≠ k),
    fw.retired := (BitVec.ofNat 6 k) :: m.fw.retired.filter (fun r => r.toNat ≠ k) }

/-- Residency register writes reach the slices of a die (R276): all of them, or under the flag the one of the item. An
accumulator is zero when its range is enabled; lines in ways that their range no longer holds are normal from then on. -/
def residencyArrives (a : EventArgs) (m : Mach) : Mach :=
  m.modDie a.agent (fun d =>
    let reached := fun (slice : Nat) => !a.flag || decide (slice = a.item % 16)
    let on := fun (r : Sparse Dword) (n : Nat) => bit (Sparse.get 0 r (8 + n)) 0
    let old := fun (slice : Nat) => Sparse.get [] d.rsvSlice slice
    let slices : Sparse (Sparse Dword) := (List.range 16).map (fun slice => (slice, if reached slice then d.rsv else old slice))
    { d with
      rsvSlice := slices,
      dir := d.dir.map (fun e => (e.1, unreserve slices e.1 e.2)),
      acc := d.acc.filter (fun e => !(reached (e.1 / 4)) || !(on d.rsv (e.1 % 4)) || on (old (e.1 / 4)) (e.1 % 4)) })

/-! ### Events -/

/-- DIR_READ (R351) -/
def execDirRead (s : State) : Host.Outcome State Fault Refusal := eventStep dirReads s
/-- DIR_OWNED_WRITE (R351) -/
def execDirOwnedWrite (s : State) : Host.Outcome State Fault Refusal := eventStep dirOwns s
/-- EVICTION_NOTICE_CLEAN (R351) -/
def execEvictionNoticeClean (s : State) : Host.Outcome State Fault Refusal := eventStep evictsClean s
/-- EVICTION_NOTICE_DATA (R351, R363) -/
def execEvictionNoticeData (s : State) : Host.Outcome State Fault Refusal := eventStep evictsData s
/-- INVALIDATION (R348): at an L1; or, under the flag, at a die that is to drop a line for the write of die `part` (R354) -/
def execInvalidation (s : State) : Host.Outcome State Fault Refusal :=
  eventStep (fun a m => arrives (if a.flag then .drop a.agent a.item a.part else .invalidate a.agent a.item a.part) m) s
/-- RECALL (R348) -/
def execRecall (s : State) : Host.Outcome State Fault Refusal :=
  eventStep (fun a m => arrives (.recall a.agent a.item a.part) m) s
/-- ACKNOWLEDGEMENT (R351): of an L1; or, under the flag, of a die that has dropped a line (R354) -/
def execAcknowledgement (s : State) : Host.Outcome State Fault Refusal :=
  eventStep (fun a m => arrives (if a.flag then .dropped a.agent a.item a.part else .ack a.agent a.item a.part) m) s
/-- L2_EVICTION (R353) -/
def execL2Eviction (s : State) : Host.Outcome State Fault Refusal := eventStep l2Evicts s
/-- HOME_OWNED_WRITE (R354) -/
def execHomeOwnedWrite (s : State) : Host.Outcome State Fault Refusal := eventStep homeWrites s
/-- HOME_READ (R355) -/
def execHomeRead (s : State) : Host.Outcome State Fault Refusal := eventStep homeReads s
/-- HOME_ENTRY_EVICTION (R355) -/
def execHomeEntryEviction (s : State) : Host.Outcome State Fault Refusal := eventStep homeEvicts s
/-- INSTRUCTION_PREFETCH (R360) -/
def execInstructionPrefetch (s : State) : Host.Outcome State Fault Refusal := eventStep prefetches s
/-- SHOOTDOWN_ACK (R359) -/
def execShootdownAck (s : State) : Host.Outcome State Fault Refusal := eventStep shootdownAcks s
/-- KEY_RETIREMENT (R356): KEYID 0 is never retired -/
def execKeyRetirement (s : State) : Host.Outcome State Fault Refusal :=
  eventStep (fun a m => if a.item % 64 = 0 then m else m.retireKey (a.item % 64)) s
/-- RESIDENCY_UPDATE (R276) -/
def execResidencyUpdate (s : State) : Host.Outcome State Fault Refusal := eventStep residencyArrives s

end Sys2Proof.Machine
end

