-- ==== Sys2Proof/Machine/Copy.lean ====
section
/-! DEFINITION. The CA and CB slots at issue: the shape checks of the copies (R168, R177 to R180, R187), shadow pages (R181,
R310), storage reads (R188), pub and cancel (R182, R183). -/

namespace Sys2Proof.Machine

/-! ### Shape checks -/

/-- The place of a B-store view: bytes 0 to 0x3F_FFFF (R178). -/
def storePlace (v : View) (reg : Nat) : Option ShapeFail :=
  if v.cover.1 < 0 then some (placeFail reg 0 v.cover.1)
  else if (0x400000 : Int) ≤ v.cover.2 then some (placeFail reg 0 (max v.cover.1 0x400000)) else none

/-- The limits of the destination of a copy on its own fields. -/
def copyDestLimits (kind : CopyKind) (v : View) (reg : Nat) : Option ShapeFail :=
  match kind with
  | .plain => ownLimits v reg true none []
  | .bstore => ownLimits v reg true (some false) [(0, decide (0x400000 ≤ v.offset)), (7, decide (v.few ≠ 0))]
  | .shadow => ownLimits v reg true (some true) []
  | .bcast => ownLimits v reg true (some false) []
  | .rice => ownLimits v reg true none [(5, decide (v.size ≠ 2))]

/-- The limits of the source of a copy on its own fields. -/
def copySourceLimits (kind : CopyKind) (v : View) (reg mode : Nat) : Option ShapeFail :=
  match kind with
  | .rice => ownLimits v reg false none [(2, decide (v.ext1 ≠ 0)), (3, decide (v.str0 ≠ 1)), (5, decide (v.size ≠ 1)),
      (8, mode / 8 % 2 = 1 && decide (4 < field v.shape 176 4 + 1))]
  | _ => ownLimits v reg false none []

/-- The shape check of a copy (R168, R177 to R180, R187). DESIGN CHOICE (log 114): the checks that R177 states for cp, equal element
sizes, equal counts and intervals that do not meet, bind cp.sh and cp.bcast too. -/
def copyCheck (m : Mach) (c : Nat) (kind : CopyKind) (mode : Nat) (src dst : View) (rs rd : Nat) : Option ShapeFail :=
  firstFail [
    copySourceLimits kind src rs mode,
    copyDestLimits kind dst rd,
    placeOf m c src rs [0, 1, 2, 3],
    match kind with
      | .bstore => storePlace dst rd
      | .bcast => placeOf m c dst rd [0]
      | _ => placeOf m c dst rd [0, 1, 2],
    failIf (decide (kind ≠ .rice) && decide (src.size ≠ dst.size)) rd 5,
    failIf (decide (kind ≠ .rice) && decide (src.count ≠ dst.count)) rd 1,
    failIf (decide (kind = .rice) && decide (dst.count % (8 * 2 ^ (mode % 4)) ≠ 0)) rd 1,
    failIf (decide (kind ≠ .rice) && decide (kind ≠ .bstore) && viewsMeet src dst) rd 0]

/-- The interval a copy writes on the scoreboard of its core (R162, R179). -/
def copyWrites (c : Nat) (kind : CopyKind) (v : View) : List Interval :=
  match kind with
  | .bstore => [{ space := .bstore c, lo := v.cover.1.toNat, hi := v.cover.2.toNat, write := true }]
  | _ => v.interval c true

/-- The full-empty action of a copy's destination is met, in every target scratchpad of a cp.bcast (R163, R179). -/
def copyDestReady (m : Mach) (c : Nat) (kind : CopyKind) (v : View) : Bool :=
  match kind with
  | .bcast => v.few = 0 || (m.bcastTargets c).all (fun j =>
      (v.interval c true).all (fun iv => iv.granules.all (fun g => !(m.isFull (.csp j) g))))
  | _ => fewMet m c v true

/-! ### Shadow pages (R181, R310) -/

/-- Insert a number into a strictly rising list. -/
def insertRising (n : Nat) : List Nat → List Nat
  | [] => [n]
  | k :: r => if n < k then n :: k :: r else if n = k then k :: r else k :: insertRising n r

/-- The pages that a resolved global destination touches, in ascending address; a page without a translation counts as one of
16 KiB until the engine meets it. -/
def Mach.shadowPages (m : Mach) (c : Nat) (v : View) : List (Nat × Nat × Nat) :=
  let rows := (List.range (v.ext1 + 1)).flatMap (fun r =>
    let a := v.addr (r * (v.ext0 + 1))
    let b := v.addr (r * (v.ext0 + 1) + v.ext0)
    if v.str0.natAbs ≤ 16384 then
      let lo := (min a b).toNat
      let hi := (max a b).toNat + v.size - 1
      (List.range (hi / 16384 - lo / 16384 + 1)).map (fun k => lo / 16384 + k)
    else (List.range (v.ext0 + 1)).flatMap (fun e =>
      let a := (v.addr (r * (v.ext0 + 1) + e)).toNat
      [a / 16384, (a + v.size - 1) / 16384]))
  let units := rows.foldl (fun l u => insertRising u l) []
  (units.map (fun u => (m.pageAt c (16384 * u)).getD (2 ^ 62 + 16384 * u, 16384 * u, 1))).eraseDups

/-- The pages of a core's shadow sets, those that its cp.sh commands in flight will create included: the handle and the
page. -/
def Mach.allShadows (m : Mach) (c : Nat) : List (Dword × Nat × Nat × Nat) :=
  let x := m.core c
  ((x.shadows.flatMap (fun s => s.pages.map (fun p => (s.handle, p.live, p.va, p.units))))
  ++ x.flight.cmds.flatMap (fun k => match k.kind with
    | .copy .shadow _ dst h _ => (m.shadowPages c dst).map (fun p => (h, p))
    | _ => [])).eraseDups

/-- The first page that would take a core beyond 256 shadow pages (R181). -/
def Mach.shadowExcess (m : Mach) (c : Nat) (handle : Dword) (dst : View) : Option Nat :=
  let have_ := m.allShadows c
  let used := (have_.map (fun e => e.2.2.2)).sum
  let new := (m.shadowPages c dst).filter (fun p => !(have_.any (fun e => e.1 = handle && e.2.1 = p.1)))
  (new.foldl (fun (acc : Nat × Option Nat) p =>
    (acc.1 + p.2.2, if acc.2.isNone && decide (256 < acc.1 + p.2.2) then some p.2.1 else acc.2)) (used, none)).2

/-- The bytes of a source view as cells of their space. -/
def Mach.sourceBytes (m : Mach) (c : Nat) (v : View) : List (Space × Nat) :=
  (List.range v.count).flatMap (fun t =>
    let a := (v.addr t).toNat
    (List.range v.size).filterMap (fun i =>
      if v.isGlobal then
        match m.engineCell c 3 false (a + i) with
        | .ok e => some (Space.glob, e.1)
        | .error _ => none
      else some (spaceAt c a, a % 2 ^ 28 + i)))

/-- The source of a cp.sh meets a held write or a held command's write interval (R310). -/
def sourceHeld (m : Mach) (c : Nat) (r : Region) (v : View) : Bool :=
  let bytes := m.sourceBytes c v
  r.held.any (fun h => match h with
    | .write w => w.store.bytes.any (fun b => bytes.contains (w.store.space, b.1))
    | .take _ _ => false
    | .cmd k rs => bytes.any (fun b => k.ivals.any (fun u => u.write && u.space = b.1 && u.lo ≤ b.2 && b.2 ≤ u.hi))
        || v.ranges.any (fun q => rs.any (fun e => e.2.2 && meets e.1 e.2.1 q.1 q.2)))

/-- The checks that a cp.sh makes after its handle: 256 pages (R181), and in a region those of R310 and its load set
(R312). DESIGN CHOICE (log 112): a page of a leaf larger than 64 KiB, which the engine will refuse (R180), counts all its 16 KiB
units. -/
def shadowChecks (iss : Issue) (m : Mach) (handle : Dword) (rq : Nat) (src dst : View) : Except Stop Mach :=
  let c := iss.core
  match openRegionOf iss m with
  | none => match m.shadowExcess c handle dst with
    | some va => .error (.trap { cause := 5, taddr := canonicalVa va, tval := 0x100 })
    | none => .ok m
  | some r =>
    let lines := ((m.sourceBytes c src).filterMap (fun b => match b.1 with
      | .glob => some (b.2 / 256)
      | _ => none)).eraseDups
    let marks := if rq = 3 then r.marks
      else addMarks r.marks lines
    let older := (m.core c).shadows.any (fun s => s.handle = handle && s.pages.any (fun p => !p.inRegion))
      || (m.core c).flight.cmds.any (fun k => k.shadows handle && !k.inRegion)
    if sourceHeld m c r src then .error (.roll 1)
    else if (m.shadowExcess c handle dst).isSome || !(marksFit marks) then .error (.roll 4)
    else if older then .error (.roll 7)
    else .ok (m.modCore c (fun x => { x with region := x.region.map (fun r => { r with marks := marks }) }))

/-! ### Words -/

/-- A copy at issue (R176 to R187): its shape, its handle, its fences and full-empty actions, its command. -/
def copyWord (i : Instr) (kind : CopyKind) (rs rd : BitVec 2) (w : BitVec 1) (mode rq : Nat) (h : BitVec 6) : Body :=
  fun iss m =>
    let x := iss.x
    let c := iss.core
    let e := engineOf (slotNum i)
    let src := viewOf (shapeFor x e rs.toNat w)
    let dst := viewOf (shapeFor x e rd.toNat w)
    match copyCheck iss.pre c kind mode src dst rs.toNat rd.toNat with
    | some f => .error (f.stop (slotNum i))
    | none => match resolveViews i (x.g h) [src, dst] iss with
      | .error e => .error e
      | .ok vs =>
        let src := (vs[0]?).getD src
        let dst := (vs[1]?).getD dst
        match (if kind = .shadow then shadowChecks iss m (x.g h) rq src dst else .ok m) with
        | .error e => .error e
        | .ok m =>
          let ready := fewMet iss.pre c src false && copyDestReady iss.pre c kind dst
          let writes := if kind = .shadow then [] else dst.ranges
          match commandWord i (.copy kind src dst (x.g h) mode) (src.interval c false ++ copyWrites c kind dst) src.ranges
              writes (BitVec.ofNat 2 rq) ready iss m with
          | .error e => .error e
          | .ok (iss', m') => .ok (iss', exchange iss e w [rs.toNat, rd.toNat] m')

/-- The block size of a namespace that the launch of a core was granted on a port (R188, R411). -/
def Mach.grantedBlock (m : Mach) (c port nsid : Nat) : Option Nat :=
  match m.launch (m.core c).reg.launch with
  | none => none
  | some l => (l.grants.find? (fun g => g.1 = port && g.2.1 = nsid)).map (fun g => g.2.2)

/-- sread at issue (R188). DESIGN CHOICE (log 114): its storage view names blocks, not bytes, so R168's limits on BASE and the
strides are not asked of it. -/
def sreadWord (i : Instr) (rs rd : BitVec 2) (w : BitVec 1) (port : BitVec 3) (h : BitVec 6) : Body := fun iss m =>
  let x := iss.x
  let c := iss.core
  let e := engineOf (slotNum i)
  let src := viewOf (shapeFor x e rs.toNat w)
  let dst := viewOf (shapeFor x e rd.toNat w)
  let nsid := field src.shape 192 32
  let early := firstFail [
    failIf (decide (src.ext1 ≠ 0)) rs.toNat 2,
    failIf (decide (src.few ≠ 0)) rs.toNat 7,
    ownLimits dst rd.toNat true none [],
    placeOf iss.pre c dst rd.toNat [0, 1, 2]]
  match early with
  | some f => .error (f.stop (slotNum i))
  | none => match iss.pre.grantedBlock c port.toNat nsid with
    | none => .error (.trap { cause := 5, tval := BitVec.ofNat 64 nsid })
    | some block =>
      if dst.count * dst.size ≠ (src.ext0 + 1) * block then
        .error (ShapeFail.stop { reg := rd.toNat, fld := 1 } (slotNum i))
      else match resolveViews i (x.g h) [dst] iss with
        | .error e => .error e
        | .ok vs =>
          let dst := (vs[0]?).getD dst
          match commandWord i (.sread src dst (x.g h) port.toNat block) (dst.interval c true) [] dst.ranges 0
              (fewMet iss.pre c dst true) iss m with
          | .error e => .error e
          | .ok (iss', m') => .ok (iss', exchange iss e w [rs.toNat, rd.toNat] m')

/-- The address ranges of the pages of a handle's shadow set, which a pub is charged for (R182). -/
def Mach.publishedRanges (m : Mach) (c : Nat) (handle : Dword) : List (Nat × Nat) :=
  ((m.allShadows c).filter (fun e => e.1 = handle)).map (fun e =>
    (e.2.2.1 % 2 ^ 57, e.2.2.1 % 2 ^ 57 + 16384 * e.2.2.2 - 1))

/-- A cp.sh has issued: the pubs of its handle that have not swapped publish its pages too, and are charged for them, those held by a
region when they are released (R182). -/
def Mach.afterShadow (m : Mach) (c : Nat) (handle : Dword) : Mach :=
  let ranges := m.publishedRanges c handle
  let again := fun (l : List Held) => l.map (fun h => match h with
    | .cmd k q => if k.kind = .pub handle then .cmd k (ranges.map (fun r => (r.1, r.2, true))) else .cmd k q
    | h => h)
  m.modCore c (fun x =>
    let x := { x with region := x.region.map (fun r => { r with held := again r.held }), releasing := again x.releasing }
    if x.region.isSome then x else x.chargePubs handle ranges)

/-- A cp.sh at issue, of request type `rq` (R180, R182). -/
def shadowCopy (i : Instr) (rs rd : BitVec 2) (w : BitVec 1) (rq : Nat) (h : BitVec 6) : Body := fun iss m =>
  match copyWord i .shadow rs rd w rq rq h iss m with
  | .error e => .error e
  | .ok (iss', m') => .ok (iss', m'.afterShadow iss.core (iss.x.g h))

/-! ### Instructions -/

/-- X.cp: element t to element t (R177). -/
def execXCp (sl : XSlot) (g : BitVec 4) (s1 d : BitVec 2) (w : BitVec 1) (e : BitVec 2) (h : BitVec 6) (y : BitVec 1)
    (s : State) : Host.Outcome State Fault Refusal :=
  let i := Instr.xCp sl g s1 d w e h y
  runWord i (copyWord i .plain s1 d w e.toNat e.toNat h) s

/-- X.cp.bs: into the B-store (R178). -/
def execXCpBs (sl : XSlot) (g : BitVec 4) (s1 d : BitVec 2) (w : BitVec 1) (e : BitVec 2) (h : BitVec 6) (y : BitVec 1)
    (s : State) : Host.Outcome State Fault Refusal :=
  let i := Instr.xCpBs sl g s1 d w e h y
  runWord i (copyWord i .bstore s1 d w e.toNat e.toNat h) s

/-- X.cp.sh: into shadows of a global destination (R180). -/
def execXCpSh (sl : XSlot) (g : BitVec 4) (s1 d : BitVec 2) (w : BitVec 1) (e : BitVec 2) (h : BitVec 6) (s : State) :
    Host.Outcome State Fault Refusal :=
  let i := Instr.xCpSh sl g s1 d w e h
  runWord i (shadowCopy i s1 d w e.toNat h) s

/-- X.cp.bcast: into the scratchpads of the launch's cores of the cluster (R179). -/
def execXCpBcast (sl : XSlot) (g : BitVec 4) (s1 d : BitVec 2) (w : BitVec 1) (e : BitVec 2) (h : BitVec 6) (y : BitVec 1)
    (s : State) : Host.Outcome State Fault Refusal :=
  let i := Instr.xCpBcast sl g s1 d w e h y
  runWord i (copyWord i .bcast s1 d w e.toNat e.toNat h) s

/-- X.cp.dz: decode a coded stream into samples (R185 to R187). -/
def execXCpDz (sl : XSlot) (g : BitVec 4) (s1 d : BitVec 2) (w : BitVec 1) (e : BitVec 5) (h : BitVec 6) (y : BitVec 1)
    (s : State) : Host.Outcome State Fault Refusal :=
  let i := Instr.xCpDz sl g s1 d w e h y
  runWord i (copyWord i .rice s1 d w e.toNat 2 h) s

/-- X.sread: read blocks of a namespace (R188). -/
def execXSread (sl : XSlot) (g : BitVec 4) (s1 d : BitVec 2) (w : BitVec 1) (e : BitVec 3) (h : BitVec 6) (s : State) :
    Host.Outcome State Fault Refusal :=
  let i := Instr.xSread sl g s1 d w e h
  runWord i (sreadWord i s1 d w e h) s

/-- X.pub: publish a handle's shadow set (R182). -/
def execXPub (sl : XSlot) (g : BitVec 4) (h : BitVec 6) (s : State) : Host.Outcome State Fault Refusal :=
  let i := Instr.xPub sl g h
  runWord i (fun iss m =>
    let handle := iss.x.g h
    commandWord i (.pub handle) [] [] (m.publishedRanges iss.core handle) 0 true iss m) s

/-- X.cancel: end a handle's shadow set unpublished (R183). -/
def execXCancel (sl : XSlot) (g : BitVec 4) (h : BitVec 6) (s : State) : Host.Outcome State Fault Refusal :=
  let i := Instr.xCancel sl g h
  runWord i (fun iss m => commandWord i (.cancel (iss.x.g h)) [] [] [] 0 true iss m) s

end Sys2Proof.Machine
end

