-- ==== Sys2Proof/Machine/Ct.lean ====
section
/-! DEFINITION. The CT slot: transfers, counted loops, waiting and synchronisation, fences, the monitor, region control,
predicates, idling and the end (R115 to R130, R286 to R289). -/

namespace Sys2Proof.Machine

/-! ### Transfers (R82, R115 to R117) -/

/-- The address of the bundle plus 32 · disp. -/
def bundleTarget {w : Nat} (iss : Issue) (x : BitVec w) : Dword := iss.origin.addr + x.signExtend 64 * 32

/-- A taken transfer (R82). -/
def transferTo (i : Instr) (target : Dword) (iss : Issue) : Issue :=
  { iss with transfer := some target, ctWord := encode i }

/-- callr, jr and ret: a value with [4:0] set is misaligned (R61). -/
def registerTransfer (i : Instr) (a : BitVec 6) : Body := fun iss m =>
  let t := iss.x.g a
  if field t 0 5 ≠ 0 then .error (slotTrap i 7 t) else .ok (transferTo i t iss, m)

/-- br (R115). -/
def execCtBr (g : BitVec 4) (x : BitVec 22) (s : State) : Host.Outcome State Fault Refusal :=
  runWord (.ctBr g x) (fun iss m => .ok (transferTo (.ctBr g x) (bundleTarget iss x) iss, m)) s

/-- call; the return address goes to sc.ctv (R108, R115). -/
def execCtCall (g : BitVec 4) (x : BitVec 22) (s : State) : Host.Outcome State Fault Refusal :=
  runWord (.ctCall g x) (fun iss m => .ok (transferTo (.ctCall g x) (bundleTarget iss x) iss, m)) s

/-- callr (R116). -/
def execCtCallr (g : BitVec 4) (a : BitVec 6) (s : State) : Host.Outcome State Fault Refusal :=
  runWord (.ctCallr g a) (registerTransfer (.ctCallr g a) a) s

/-- jr (R116). -/
def execCtJr (g : BitVec 4) (a : BitVec 6) (s : State) : Host.Outcome State Fault Refusal :=
  runWord (.ctJr g a) (registerTransfer (.ctJr g a) a) s

/-- ret: the same effect as jr (R116). -/
def execCtRet (g : BitVec 4) (a : BitVec 6) (s : State) : Host.Outcome State Fault Refusal :=
  runWord (.ctRet g a) (registerTransfer (.ctRet g a) a) s

/-- loop: ROFF advances, logical p8 under the new offset takes the condition, and the bundle transfers while the count or
an epilogue stage lasts (R18, R117). -/
def execCtLoop (g : BitVec 4) (c : BitVec 6) (stg : BitVec 4) (x : BitVec 12) (s : State) : Host.Outcome State Fault Refusal :=
  runWord (.ctLoop g c stg x) (fun iss m =>
    let cx := iss.x
    let k := decide (0 < (cx.g c).toInt)
    let roff := cx.regs.roff + 1
    let p := fun (n : Nat) => pPhys roff (BitVec.ofNat 4 n)
    let d := (List.range (min 7 stg.toNat)).any (fun j => cx.regs.pAt (p (9 + j)))
    let m := m.modCore iss.core (fun y =>
      let y := pushResult y iss.stream 1 .A (some .roff) (roff.setWidth 2048)
      pushResult y iss.stream 1 .A (some (.p (p 8))) (if k then 1 else 0))
    .ok (if k || d then transferTo (.ctLoop g c stg x) (bundleTarget iss x) iss else iss, m)) s

/-! ### Waits and barriers (R119, R120) -/

/-- A counter is at or below its limit; 15 means any. -/
def withinLimit (limit : BitVec 4) (n : BitVec 6) : Bool := limit = 15 || n.toNat ≤ limit.toNat

/-- wait (R119). -/
def execCtWait (g l st c mx : BitVec 4) (s : State) : Host.Outcome State Fault Refusal :=
  runWord (.ctWait g l st c mx) (fun iss m =>
    let n := iss.x.cnt
    if withinLimit l n.ld && withinLimit st n.st && withinLimit c n.cp && withinLimit mx n.mx then .ok (iss, m)
    else .error (.hold .plain)) s

/-- What the barrier words share: membership, and the hold on the arrival flag (R120). -/
def barrierWord (i : Instr) (l : BitVec 3) (go : Issue → Mach → Mach) : Body := fun iss m =>
  let x := iss.x
  if !(bit x.ctl.dmem (l.toNat - 1)) then .error (slotTrap i 5)
  else if bit x.arrive (l.toNat - 1) then .error (.hold .plain)
  else .ok (iss, go iss m)

/-- bar.arrive (R120). -/
def execCtBarArrive (g : BitVec 4) (l : BitVec 3) (s : State) : Host.Outcome State Fault Refusal :=
  runWord (.ctBarArrive g l) (barrierWord (.ctBarArrive g l) l (fun iss m => m.arrive iss.core l.toNat)) s

/-- bar.wait (R120). -/
def execCtBarWait (g : BitVec 4) (l : BitVec 3) (s : State) : Host.Outcome State Fault Refusal :=
  runWord (.ctBarWait g l) (barrierWord (.ctBarWait g l) l (fun _ m => m)) s

/-- bar.sync: arrives as bar.arrive does; its wait falls on the next bundle of the stream (R120, R247). -/
def execCtBarSync (g : BitVec 4) (l : BitVec 3) (s : State) : Host.Outcome State Fault Refusal :=
  runWord (.ctBarSync g l) (barrierWord (.ctBarSync g l) l (fun iss m =>
    (m.modCore iss.core (fun x => x.modStream iss.stream (fun t => { t with barSync := l.toNat }))).arrive iss.core l.toNat)) s

/-! ### Fences (R285 to R289) -/

/-- A fence that holds its bundle until the epochs older than its own are empty and passed; its own opened as it first stood at
issue (`standHead`), and while a zone has no room for one it waits (R285). -/
def holdFence : Body := fun iss m =>
  match (iss.x.streamState iss.stream).fence with
  | some marks => if iss.x.fenceMet iss.pre.vclk marks then .ok (iss, m) else .error (.hold .plain)
  | none => .error (.hold .plain)

/-- fence.rel (R287). -/
def execCtFenceRel (g : BitVec 4) (z : BitVec 8) (s : State) : Host.Outcome State Fault Refusal :=
  runWord (.ctFenceRel g z) holdFence s

/-- fence.full: as .rel on all eight zones (R287). -/
def execCtFenceFull (g : BitVec 4) (s : State) : Host.Outcome State Fault Refusal :=
  runWord (.ctFenceFull g) holdFence s

/-- fence.acq issues without a hold; later accesses in its zones wait for the earlier loads of the stream (R288). -/
def execCtFenceAcq (g : BitVec 4) (z : BitVec 8) (s : State) : Host.Outcome State Fault Refusal :=
  runWord (.ctFenceAcq g z) (fun iss m =>
    let hold := acquireHold iss.x iss.stream z
    .ok (iss, (m.fenceWriteBack iss.core z).modCore iss.core (fun y => y.modStream iss.stream
      (fun t => { t with acq := t.acq ++ [hold] })))) s

/-- fence.vis issues without a hold, once its epochs have opened; later bundles of the stream that write wait as for .rel (R285,
R289). -/
def execCtFenceVis (g : BitVec 4) (z : BitVec 8) (s : State) : Host.Outcome State Fault Refusal :=
  runWord (.ctFenceVis g z) (fun iss m =>
    match (iss.x.streamState iss.stream).fence with
    | some marks => .ok (iss, m.modCore iss.core (fun y => y.modStream iss.stream (fun t => { t with vis := t.vis ++ [marks] })))
    | none => .error (.hold .plain)) s

/-! ### The monitor (R122, R123) -/

/-- The register of the bundle's sc.ctv, where its guard reads true (R108). -/
def ctvDest (iss : Issue) : Option Dest :=
  (iss.words.findSome? (fun w => match w.2 with
    | .scCtv _ d => if w.1 = iss.stream && guarded iss.x w.2 then some d else none
    | _ => none)).bind iss.x.destG

/-- arm: an owned load of a doubleword, performed as the monitor is armed on its line (R122). -/
def execCtArm (g : BitVec 4) (a : BitVec 6) (e : BitVec 16) (s : State) : Host.Outcome State Fault Refusal :=
  runWord (.ctArm g a e) (fun iss m =>
    let i : Instr := .ctArm g a e
    match checkElems i iss false 0 false [(0, iss.x.g a + e.signExtend 64, 8, false)] with
    | .error t => .error t
    | .ok l =>
      let id := (m.core iss.core).flight.nextOp
      let r : OpRef := { id := id, issue := iss.x.flight.issue, slot := 1, stream := iss.stream, load := true,
                         cells := l.flatMap (fun e => e.1.cells) }
      if !(iss.pre.canPerform iss.core r) then .error (.hold .plain)
      else match globalLoad i 0 l (ctvDest iss) none none none iss m with
      | .error t => .error t
      | .ok (iss', m') =>
        let line := ((l.head?.map (fun e => e.1.addr)).getD 0) / 256
        let m' := match (m'.core iss.core).flight.loads.find? (fun k => k.id = id) with
          | some k => (m'.performBefore iss.core r).performLoad iss.core k
          | none => m'
        .ok (iss', m'.modCore iss.core (fun y => { y with monitor := some { line := line } }))) s

/-- The end of an mwait disarms the monitor (R123). -/
def disarm (iss : Issue) (m : Mach) : Mach := m.modCore iss.core (fun y => { y with monitor := none })

/-- mwait: ends at once with no monitor armed, or one that has fired; otherwise at its deadline; 2^40 ticks or more are no limit
(R10, R123). -/
def execCtMwait (g : BitVec 4) (a : BitVec 6) (s : State) : Host.Outcome State Fault Refusal :=
  runWord (.ctMwait g a) (fun iss m =>
    let x := iss.x
    let now := iss.pre.vclk
    let armed := match x.monitor with
      | some k => !k.fired
      | none => false
    if !armed then .ok (iss, disarm iss m)
    else
      let late := fun (d : Option Tick) => match d with
        | some t => tickGe now t
        | none => false
      match (x.streamState iss.stream).mwait with
      | some d => if late d then .ok (iss, disarm iss m) else .error (.hold (.mwait d))
      | none =>
        let n := x.g a
        let d := if 2 ^ 40 ≤ n.toNat then none else some (now + n.setWidth 48)
        if late d then .ok (iss, disarm iss m) else .error (.hold (.mwait d))) s

/-! ### Regions (R124, R125, R316) -/

/-- A region-ending word that meets no region appends a region-protocol event (R125). -/
def regionEvent (i : Instr) (iss : Issue) : Issue := iss.event i 0x32 1 0 ((encode i).getD 0)

/-- dawn: the checkpoint is taken and the region opens; inside a region it rolls back with NEST (R124). -/
def execCtDawn (g : BitVec 4) (x : BitVec 22) (s : State) : Host.Outcome State Fault Refusal :=
  runWord (.ctDawn g x) (fun iss m =>
    if iss.x.region.isSome then .error (.roll 8) else .ok (iss, m.openRegion iss.core (bundleTarget iss x))) s

/-- dusk: held until the region's counted loads have delivered and its cp.sh have read their sources, then the commit
point (R316). -/
def execCtDusk (g : BitVec 4) (s : State) : Host.Outcome State Fault Refusal :=
  runWord (.ctDusk g) (fun iss m =>
    let x := iss.x
    if x.region.isNone then .ok (regionEvent (.ctDusk g) iss, m)
    else if x.regionLoads || x.flight.cmds.any (fun k => k.inRegion) then .error (.hold .plain)
    else .ok ({ iss with dusk := true }, m)) s

/-- check: a false predicate rolls the region back with CHECK (R125). -/
def execCtCheck (g p : BitVec 4) (s : State) : Host.Outcome State Fault Refusal :=
  runWord (.ctCheck g p) (fun iss m =>
    if iss.x.p p then .ok (iss, m)
    else if iss.x.region.isSome then .error (.roll 2)
    else .ok (regionEvent (.ctCheck g p) iss, m)) s

/-- abort (R125). -/
def execCtAbort (g : BitVec 4) (s : State) : Host.Outcome State Fault Refusal :=
  runWord (.ctAbort g) (fun iss m =>
    if iss.x.region.isSome then .error (.roll 9) else .ok (regionEvent (.ctAbort g) iss, m)) s

/-! ### Predicates, rotation, idling and the end (R127 to R130) -/

/-- A predicate of the core's predicates, in class A. -/
def predicateWord (i : Instr) (d : BitVec 4) (f : CoreState → Bool) : Body := fun iss m =>
  .ok (iss, m.modCore iss.core (predicateResult i d (f iss.x) iss))

/-- pand (R127). -/
def execCtPand (g d a b : BitVec 4) (s : State) : Host.Outcome State Fault Refusal :=
  runWord (.ctPand g d a b) (predicateWord (.ctPand g d a b) d (fun x => x.p a && x.p b)) s

/-- por (R127). -/
def execCtPor (g d a b : BitVec 4) (s : State) : Host.Outcome State Fault Refusal :=
  runWord (.ctPor g d a b) (predicateWord (.ctPor g d a b) d (fun x => x.p a || x.p b)) s

/-- pxor (R127). -/
def execCtPxor (g d a b : BitVec 4) (s : State) : Host.Outcome State Fault Refusal :=
  runWord (.ctPxor g d a b) (predicateWord (.ctPxor g d a b) d (fun x => x.p a != x.p b)) s

/-- pandn (R127). -/
def execCtPandn (g d a b : BitVec 4) (s : State) : Host.Outcome State Fault Refusal :=
  runWord (.ctPandn g d a b) (predicateWord (.ctPandn g d a b) d (fun x => x.p a && !(x.p b))) s

/-- pnot (R127). -/
def execCtPnot (g d a : BitVec 4) (s : State) : Host.Outcome State Fault Refusal :=
  runWord (.ctPnot g d a) (predicateWord (.ctPnot g d a) d (fun x => !(x.p a))) s

/-- pset (R127). -/
def execCtPset (g d : BitVec 4) (s : State) : Host.Outcome State Fault Refusal :=
  runWord (.ctPset g d) (predicateWord (.ctPset g d) d (fun _ => true)) s

/-- pclr (R127). -/
def execCtPclr (g d : BitVec 4) (s : State) : Host.Outcome State Fault Refusal :=
  runWord (.ctPclr g d) (predicateWord (.ctPclr g d) d (fun _ => false)) s

/-- roff: ROFF in class A, no predicate changed (R128). -/
def execCtRoff (g p : BitVec 4) (s : State) : Host.Outcome State Fault Refusal :=
  runWord (.ctRoff g p) (fun iss m =>
    .ok (iss, m.modCore iss.core (fun y => pushResult y iss.stream 1 .A (some .roff) (p.setWidth 2048)))) s

/-- idle: the stream issues nothing for that many cycles, each a step (R129). -/
def execCtIdle (g : BitVec 4) (x : BitVec 22) (s : State) : Host.Outcome State Fault Refusal :=
  runWord (.ctIdle g x) (fun iss m =>
    .ok (iss, m.modCore iss.core (fun y => y.modStream iss.stream (fun t => { t with idle := x.toNat })))) s

/-- end: in a secondary bundle the stream-protocol trap; in the primary stream it holds until the secondary queue is empty,
the counters are zero and the waits of a ct.fence.full are met (R130). -/
def execCtEnd (g : BitVec 4) (s : State) : Host.Outcome State Fault Refusal :=
  runWord (.ctEnd g) (fun iss m =>
    let x := iss.x
    if iss.stream = .secondary then .error (slotTrap (.ctEnd g) 0x0C)
    else
      let fence := match x.front.sp.fence with
        | some marks => x.fenceMet iss.pre.vclk marks
        | none => false
      let still := x.cnt.ld = 0 && x.cnt.st = 0 && x.cnt.cp = 0 && x.cnt.mx = 0
      if x.front.secondary = [] && still && fence then .ok ({ iss with ends := true }, m) else .error (.hold .ending)) s

end Sys2Proof.Machine
end

