-- ==== Sys2Proof/Machine/Context.lean ====
section
/-! DEFINITION. Contexts: the save area of a core, stopping and saving a launch, restoring it, and the ends of launches
(R30, R225, R226, R249, R256, R259, R387 to R391). -/

namespace Sys2Proof.Machine

/-! ### Fields of the save area (R389, R390) -/

/-- A field of the save area: its offset, its size in bytes, its value, and how it is taken back. -/
structure CtxField where
  off : Nat
  size : Nat
  get : CoreState → Nat
  put : Nat → CoreState → CoreState

/-- The registers (offsets 0x1000 to 0x4FFF). -/
def registerFields : List CtxField :=
  ((List.range 63).map (fun k =>
    let n := k + 1
    { off := 0x1000 + 8 * n, size := 8, get := fun x => (x.regs.gAt n).toNat,
      put := fun v x => { x with regs.g := Sparse.set 0 x.regs.g n (BitVec.ofNat 64 v) } }))
  ++ [{ off := 0x1200, size := 2, get := fun x => x.regs.p.toNat / 2 * 2 + 1,
        put := fun v x => { x with regs.p := setBit (BitVec.ofNat 16 v) 0 false } }]
  ++ ((List.range 7).map (fun k =>
    let n := k + 1
    { off := 0x1208 + 8 * n, size := 8, get := fun x => (x.regs.qAt n).toNat,
      put := fun v x => { x with regs.q := Sparse.set 0 x.regs.q n (BitVec.ofNat 64 v) } }))
  ++ [{ off := 0x1208, size := 8, get := fun _ => 2 ^ 64 - 1, put := fun _ x => x }]
  ++ ((List.range 32).flatMap (fun n =>
    [{ off := 0x1248 + n, size := 1, get := fun x => (x.regs.vAt n).tag.toNat,
       put := fun v x => { x with regs.v := Sparse.set {} x.regs.v n { x.regs.vAt n with tag := BitVec.ofNat 5 v } } },
     { off := 0x2000 + 256 * n, size := 256, get := fun x => (x.regs.vAt n).data.toNat,
       put := fun v x => { x with regs.v := Sparse.set {} x.regs.v n { x.regs.vAt n with data := BitVec.ofNat 2048 v } } }]))
  ++ ((List.range 4).map (fun n =>
    { off := 0x1268 + n, size := 1, get := fun x => (x.tile n).tag.toNat,
      put := fun v x => { x with tiles := Sparse.set {} x.tiles n { x.tile n with tag := BitVec.ofNat 5 v } } }))
  ++ [{ off := 0x126C, size := 1, get := fun x => x.regs.roff.toNat,
        put := fun v x => { x with regs.roff := BitVec.ofNat 4 v } }]
  ++ ((List.range 16).flatMap (fun n =>
    let pair := fun (x : CoreState) => Sparse.get ({} : ShapePair) x.regs.shapes n
    [{ off := 0x4000 + 64 * n, size := 32, get := fun x => (pair x).active.toNat,
       put := fun v x => { x with regs.shapes := Sparse.set {} x.regs.shapes n { pair x with active := BitVec.ofNat 256 v } } },
     { off := 0x4020 + 64 * n, size := 32, get := fun x => (pair x).shadow.toNat,
       put := fun v x => { x with regs.shapes := Sparse.set {} x.regs.shapes n { pair x with shadow := BitVec.ofNat 256 v } } }]))

/-- The value of a control field and how it is taken back. -/
def ctlField (off : Nat) (get : Ctl → Nat) (put : Nat → Ctl → Ctl) : CtxField :=
  { off := off, size := 8, get := fun x => get x.ctl, put := fun v x => { x with ctl := put v x.ctl } }

/-- A trap register, saved when monitor mode is (R390). -/
def trapField (off : Nat) (get : TrapRegs → Dword) (put : Dword → TrapRegs → TrapRegs) : CtxField :=
  { off := off, size := 8, get := fun x => if x.trap.monitor then (get x.trap).toNat else 0,
    put := fun v x => { x with trap := put (BitVec.ofNat 64 v) x.trap } }

/-- The transfers of the primary stream, or those kept while service code runs, which resumes at the service entry (R388). -/
def savedTransfers (x : CoreState) : List Transfer := if x.trap.monitor then x.trap.kept else x.front.transfers

/-- The epochs of a zone merged into one (R390). -/
def mergedEpoch (z : Zone) : Epoch :=
  z.epochs.foldl (fun a e => { a with count := a.count + e.count, ticket := laterTick a.ticket e.ticket }) { id := 0 }

/-- The header (R390), less what the save itself gives it. -/
def headerFields (now : Tick) : List CtxField :=
  [{ off := 0x018, size := 8, get := fun x => (if x.trap.monitor then x.trap.resume else x.front.pc).toNat,
     put := fun v x => { x with front.pc := BitVec.ofNat 64 v } }]
  ++ ((List.range 3).map (fun n =>
    { off := 0x020 + 16 * n, size := 16,
      get := fun x => match (savedTransfers x)[n]? with
        | some t => t.target.toNat + 2 ^ 64 * (t.left % 8 + 256)
        | none => 0,
      put := fun v x => if v / 2 ^ 72 % 2 = 1 then
          { x with front.transfers := x.front.transfers ++ [{ target := BitVec.ofNat 64 v, left := v / 2 ^ 64 % 8 }] }
        else x }))
  ++ [{ off := 0x054, size := 2, get := fun x => x.front.paused.toNat,
        put := fun v x => { x with front.paused := v % 2 = 1 } },
      { off := 0x056, size := 1, get := fun x => x.front.sp.barSync,
        put := fun v x => { x with front.sp.barSync := v } },
      { off := 0x057, size := 1, get := fun x => x.front.ss.barSync,
        put := fun v x => { x with front.ss.barSync := v } },
      ctlField 0x060 (·.dmem.toNat) (fun v k => { k with dmem := BitVec.ofNat 32 v }),
      ctlField 0x068 (·.lease.toNat) (fun v k => { k with lease := BitVec.ofNat 16 v }),
      ctlField 0x070 (·.seed.toNat) (fun v k => { k with seed := BitVec.ofNat 32 v }),
      ctlField 0x078 (·.frm.toNat) (fun v k => { k with frm := BitVec.ofNat 2 v }),
      ctlField 0x080 (·.keyid.toNat) (fun v k => { k with keyid := BitVec.ofNat 6 v }),
      ctlField 0x088 (·.space.toNat) (fun v k => { k with space := BitVec.ofNat 36 v }),
      ctlField 0x090 (fun k => 2 * k.reason.toNat + 65536 * k.rollTick.toNat)
        (fun v k => { k with reason := BitVec.ofNat 4 (v / 2), rollTick := BitVec.ofNat 48 (v / 65536) }),
      ctlField 0x098 (·.regcnt.toNat) (fun v k => { k with regcnt := BitVec.ofNat 64 v }),
      ctlField 0x0A0 (·.lattab.toNat) (fun v k => { k with lattab := BitVec.ofNat 2 v }),
      ctlField 0x0A8 (·.cover.toNat) (fun v k => { k with cover := BitVec.ofNat 2 v }),
      trapField 0x0B0 (·.tcause) (fun v t => { t with tcause := v }),
      trapField 0x0B8 (·.taddr) (fun v t => { t with taddr := v }),
      trapField 0x0C0 (·.tprov) (fun v t => { t with tprov := v }),
      trapField 0x0C8 (·.tval) (fun v t => { t with tval := v }),
      trapField 0x0D0 (·.epc) (fun v t => { t with epc := v })]
  ++ ((List.range 8).map (fun n =>
    { off := 0x118 + 32 * n, size := 32,
      get := fun x =>
        let z := (x.zones[n]?).getD {}
        let e := mergedEpoch z
        z.base.toNat + 2 ^ 64 * z.limit.toNat + 2 ^ 128 * (e.count % 65536) + 2 ^ 144 * (e.ticket.getD now).toNat,
      put := fun v x =>
        let t : Tick := BitVec.ofNat 48 (v / 2 ^ 144)
        let e : Epoch := { id := 0, count := v / 2 ^ 128 % 65536, ticket := if tickGe now t then none else some t }
        x.modZone n (fun _ => { base := BitVec.ofNat 64 v, limit := BitVec.ofNat 64 (v / 2 ^ 64), epochs := [e] }) }))

/-! ### Local memories in the save area (R265, R389) -/

/-- The index of a byte of cluster memory in its share, and back (R265). -/
def shareIndex (x : Nat) : Nat := x % 4096 + 4096 * (x / 16384)
def shareOffset (k i : Nat) : Nat := i % 4096 + 4096 * k + 16384 * (i / 4096)

/-- Full-empty bits as bytes, granule g at bit g, and back. -/
def fullBytes (l : List Nat) : List (Nat × BitVec 8) :=
  ((l.map (· / 8)).eraseDups).map (fun b =>
    (b, BitVec.ofNat 8 ((List.range 8).map (fun i => if l.contains (8 * b + i) then 2 ^ i else 0)).sum))

def bytesFull (l : List (Nat × BitVec 8)) : List Nat :=
  l.flatMap (fun e => ((List.range 8).filter (fun i => bit e.2 i)).map (fun i => 8 * e.1 + i))

/-- The cells of a tile as bytes, and back. -/
def tileBytes (t : Tile) : List (Nat × BitVec 8) :=
  t.cells.flatMap (fun e => (toBytes 4 e.2.toNat).mapIdx (fun i b => (4 * e.1 + i, b)))

def bytesTile (l : List (Nat × BitVec 8)) : Sparse (BitVec 32) :=
  l.foldl (fun t e => Sparse.set 0 t (e.1 / 4) (setField (Sparse.get 0 t (e.1 / 4)) (8 * (e.1 % 4)) 8 e.2.toNat)) []

/-- The place of a byte of the lane slices in the save area, slice by slice, and back: State holds them row by row, the 256 bytes of
row r at 256 · r (R150, log 48). -/
def sliceIndex (i : Nat) : Nat := 0x2000 * (i / 4 % 64) + 4 * (i / 256) + i % 4
def sliceOffset (k : Nat) : Nat := 256 * (k % 0x2000 / 4) + 4 * (k / 0x2000) + k % 4

/-- The share of a core's cluster memory, in share order. -/
def Mach.share (m : Mach) (c : Nat) : List (Nat × BitVec 8) :=
  ((m.cluster (clusterOf c)).clm.bytes.filter (fun e => decide (e.1 / 4096 % 4 = inCluster c))).map
    (fun e => (shareIndex e.1, e.2))

/-- The full granules of a core's share, in share order. -/
def Mach.shareFull (m : Mach) (c : Nat) : List Nat :=
  ((m.cluster (clusterOf c)).clm.full.filter (fun e => decide (e.1 / 256 % 4 = inCluster c))).map
    (fun e => shareIndex (16 * e.1) / 16)

/-- Local memory as bytes of the save area, by offset. -/
def Mach.localBytes (m : Mach) (c : Nat) : List (Nat × BitVec 8) :=
  let x := m.core c
  let at_ := fun (off : Nat) (l : List (Nat × BitVec 8)) => l.map (fun (e : Nat × BitVec 8) => (off + e.1, e.2))
  ((List.range 4).flatMap (fun n => at_ (0x8000 + 0x10000 * n) (tileBytes (x.tile n))))
  ++ at_ 0x48000 (x.loc.lanes.map (fun (e : Nat × BitVec 8) => (sliceIndex e.1, e.2))) ++ at_ 0xC8000 x.loc.const
  ++ at_ 0xD8000 (fullBytes (x.loc.csp.full.map (·.1))) ++ at_ 0xDE000 (fullBytes (m.shareFull c))
  ++ at_ 0xE0000 x.loc.csp.bytes ++ at_ 0x3E0000 (m.share c)
  ++ (if x.loc.bdirty then at_ 0x4E0000 x.loc.bstore else [])

/-- An emit queue as bytes of the save area. -/
def queueBytes (off : Nat) (q : List Entry) : List (Nat × BitVec 8) :=
  (q.mapIdx (fun i e => (toBytes 40 (e.bundle.toNat + 2 ^ 256 * e.prov.toNat)).mapIdx (fun k b => (off + 64 * i + k, b)))).flatten

/-- The bytes of some fields. -/
def fieldBytes (l : List CtxField) (x : CoreState) : List (Nat × BitVec 8) :=
  l.flatMap (fun f => (toBytes f.size (f.get x)).mapIdx (fun i b => (f.off + i, b)))

/-- A number at an offset. -/
def numberBytes (off size v : Nat) : List (Nat × BitVec 8) := (toBytes size v).mapIdx (fun i b => (off + i, b))

/-- The record of an error known but not raised, as a trap of the drain (R388). -/
def drainRecord (x : CoreState) (c : Nat) (now : Tick) (e : KnownError) : BitVec 512 :=
  trapRecord x c now 9 e.taddr 0 e.tval 0 (trapFlags 0 false false (decide (e.stream = .secondary)) true)

/-- The save area of a core context (R389, R390): the header, and the rest. `rolled` tells that a region was rolled back. -/
def Mach.contextBytes (m : Mach) (c : Nat) (rolled : Bool) : List (Nat × BitVec 8) × List (Nat × BitVec 8) :=
  let x := m.core c
  let pending := x.flight.errors.head?
  let flags := x.loc.bdirty.toNat + 2 * pending.isSome.toNat + 4 * x.front.fed.toNat + 8 * rolled.toNat
    + 16 * x.trap.monitor.toNat
  (numberBytes 0 4 0x01585443 ++ numberBytes 4 4 flags ++ numberBytes 8 4 c ++ numberBytes 0xC 4 x.reg.launch.toNat
    ++ numberBytes 0x10 8 m.vclk.toNat ++ numberBytes 0x50 2 x.front.primary.length
    ++ numberBytes 0x52 2 x.front.secondary.length ++ fieldBytes (headerFields m.vclk) x
    ++ (match pending with
        | some e => numberBytes 0xD8 64 (drainRecord x c m.vclk e).toNat
        | none => []),
   fieldBytes registerFields x ++ queueBytes 0x5000 x.front.primary ++ queueBytes 0x6000 x.front.secondary
    ++ m.localBytes c)

/-- Replace the bytes of a range of memory. -/
def replaceRange (mem : Mem) (lo n : Nat) (l : List (Nat × BitVec 8)) : Mem :=
  Mem.writeAll (mem.filter (fun e => decide (e.1 < lo) || decide (lo + n ≤ e.1))) l

/-- The bytes of a range of memory, by offset from its start. -/
def rangeBytes (mem : Mem) (lo n : Nat) : List (Nat × BitVec 8) :=
  (mem.filter (fun e => decide (lo ≤ e.1) && decide (e.1 < lo + n))).map (fun e => (e.1 - lo, e.2))

/-- Write a context to its save area: the header under KEYID 0, the rest under the context's key (R389). -/
def Mach.writeContext (m : Mach) (c : Nat) (rolled : Bool) : Mach :=
  let x := m.core c
  let b := m.contextBytes c rolled
  let key := x.ctl.keyid.toNat * 2 ^ 56
  let at_ := fun (lo : Nat) (l : List (Nat × BitVec 8)) => l.map (fun (e : Nat × BitVec 8) => (lo + e.1, e.2))
  let len := if x.loc.bdirty then 0x8E0000 else 0x4E0000
  let mem := replaceRange m.mem x.reg.saveArea 0x1000 (at_ x.reg.saveArea b.1)
  { m with mem := replaceRange mem (key + x.reg.saveArea + 0x1000) (len - 0x1000) (at_ (key + x.reg.saveArea) b.2) }

/-- Take fields back from the bytes at an address. -/
def readFields (mem : Mem) (lo : Nat) (l : List CtxField) (x : CoreState) : CoreState :=
  l.foldl (fun x f => f.put (Mem.load mem (lo + f.off) f.size) x) x

/-- Take an emit queue back. -/
def readQueue (mem : Mem) (lo n : Nat) : List Entry :=
  (List.range n).map (fun i => { bundle := BitVec.ofNat 256 (Mem.load mem (lo + 64 * i) 32),
                                 prov := BitVec.ofNat 64 (Mem.load mem (lo + 64 * i + 32) 8) })

/-- Put a share of cluster memory back. -/
def Mach.setShare (m : Mach) (c : Nat) (bytes : List (Nat × BitVec 8)) (full : List Nat) : Mach :=
  let k := inCluster c
  m.modCluster (clusterOf c) (fun q => { q with
    clm.bytes := Mem.writeAll (q.clm.bytes.filter (fun (e : Nat × BitVec 8) => e.1 / 4096 % 4 ≠ k))
      (bytes.map (fun (e : Nat × BitVec 8) => (shareOffset k e.1, e.2))),
    clm.full := full.foldl (fun f g => Sparse.set false f (shareOffset k (16 * g) / 16) true)
      (q.clm.full.filter (fun (e : Nat × Bool) => e.1 / 256 % 4 ≠ k)) })

/-! ### Saving (R387, R388) -/

/-- What keeps a stopped core from being saved: operations in flight, though not stores that only wait for their known tickets;
committed effects not yet released, an open region. -/
def CoreState.drained (x : CoreState) : Bool :=
  x.flight.loads = [] && x.flight.stores.all (fun s => s.ticket.isSome) && x.flight.fars = [] && x.flight.cmds = []
    && x.flight.owed = [] && x.releasing = [] && x.region.isNone

/-- A core stops at a bundle boundary for pre-emption: an open region is to roll back with PREEMPT, waits end, the monitor
fires, and the record of an outstanding replayable trap is freed (R387, R388). -/
def CoreState.stop (x : CoreState) : CoreState :=
  let idle := fun (t : StreamState) => { t with fence := none, mwait := none, idle := 0, heldCycles := 0 }
  let kept := x.queues.trapq.filter (fun r => !r.replay)
  { x with
    reg.status := .frozen,
    region := x.region.map (fun r => { r with roll := some (r.roll.getD 6) }),
    monitor := x.monitor.map (fun k => { k with fired := true }),
    front.sp := idle x.front.sp,
    front.ss := idle x.front.ss,
    replay := [],
    flight.handles := [],
    queues.trapHead := x.queues.trapHead + (x.queues.trapq.length - kept.length),
    queues.trapq := kept }

/-- The stores of a slot that stops are performed and have their tickets. DESIGN CHOICE (log 96): the tick now, or the first after
the leases on their lines. -/
def Mach.settleSlot (m : Mach) (h : Nat) : Mach :=
  let m := m.performHartWhere h (fun _ => true)
  ((m.hart h).stores.filter (fun s => s.ticket.isNone)).foldl (fun m s =>
    let t := m.leastTicket (s.bytes.map (·.1))
    (m.modHart h (fun x => { x with stores := x.stores.map (fun o => if o.id = s.id then { o with ticket := some t } else o) })).ticketKnown
      (slotAgent h) s.id (some t)) m

/-- A generator slot is saved and its place freed (R225, R226). F1 raises MSIP in it, and at an instruction boundary it stops; it takes
the interrupt, if it may: mepc then names where it goes on, and MSIP stands in the saved context until the slot resumes (R203,
R334). -/
def Mach.saveSlot (m : Mach) (g : LaunchGen) (n : BitVec 32) : Mach × LaunchGen :=
  match g.hart with
  | some h =>
    if (m.hart h).launch = n && (m.hart h).status ≠ .stopped then
      let m := m.settleSlot h
      let x := m.hart h
      let takes := x.msie && (x.user || x.mie)
      let m := (if takes then m.rvInterrupt h (decide (x.status = .wfi)) else m).modHart h (fun x => { x with msip := true })
      let x := m.hart h
      (m.modHart h (fun _ => { nextOp := x.nextOp, reg := { x.reg with status := .saved } }),
        { g with saved := some { x with waits := none, resv := none }, interrupted := takes })
    else (m, g)
  | none => (m, g)

def saveSlots (n : BitVec 32) : List LaunchGen → Mach → Mach × List LaunchGen
  | [], m => (m, [])
  | g :: r, m =>
    let a := m.saveSlot g n
    let b := saveSlots n r a.1
    (b.1, a.2 :: b.2)

/-- Pre-emption begins (R226, R387): the slots stop and are saved, the cores stop. -/
def Mach.stopLaunch (m : Mach) (n : BitVec 32) : Mach :=
  match m.launch n with
  | none => m
  | some l =>
    if l.status ≠ .running then m
    else
      let r := saveSlots n l.gens m
      let rolled := (l.cores.map (·.core)).filter (fun c =>
        let x := m.core c
        x.reg.launch = n && (x.running || x.reg.status = .frozen) && x.region.isSome)
      let m := r.1.modLaunch n (fun l => { l with status := .stopping, gens := r.2, rolled := rolled })
      m.mapCores (fun _ x => if x.reg.launch = n && (x.running || x.reg.status = .frozen) then x.stop else x)

/-- The zones that a standing ct.fence.vis of a stream names. -/
def visMask (s : StreamState) : BitVec 8 := s.vis.flatten.foldl (fun v e => setBit v e.1 true) 0

/-- Save one core (R387): the drain point, untracked lines written back and dropped, the area written. `rolled` tells that a region
was rolled back for it. -/
def Mach.saveCore (m : Mach) (c : Nat) (rolled : Bool) : Mach × SavedCore :=
  let m := ((m.performTimed c (fun _ => true)).drain c).writeBack c (fun _ => true)
  let m := m.modCore c (fun x => { x with caches.untracked := [] })
  let x := m.core c
  let m := m.writeContext c rolled
  (m.modCore c (fun x => { x with reg.status := .saved }),
   { core := c, arrive := x.arrive, groups := (List.range 4).map (fun i => (x.tile i).groups),
     visPrimary := visMask x.front.sp, visSecondary := visMask x.front.ss, remotes := x.flight.remotes,
     queues := x.queues, nextOp := x.flight.nextOp, shadows := x.shadows, stream := x.trap.stream,
     tickets := x.zones.map (fun z => (mergedEpoch z).ticket) })

def saveCores (rolled : List Nat) : List Nat → Mach → Mach × List SavedCore
  | [], m => (m, [])
  | c :: r, m =>
    let a := m.saveCore c (rolled.contains c)
    let b := saveCores rolled r a.1
    (b.1, a.2 :: b.2)

/-- The dies whose scratchpad a launch claims. -/
def Launch.dies (l : Launch) : List Nat := (List.range 64).filter (fun d => bit l.claims d)

/-- F2 maps second-tier memory only as kind memory, and never as read-duplicate (R417). -/
def leafPlaced (e : BitVec 64) : Bool := !(pteLeaf e) || !(secondTier (ptePa e)) || (decide (pteKind e = 0) && !(pteRdup e))

/-- Write table entries, each at its cell. -/
def Mach.writeTables (m : Mach) (l : List (Nat × BitVec 64)) : Mach :=
  m.performGlobal ((l.filter (fun e => leafPlaced e.2)).flatMap (fun e => numberBytes e.1 8 e.2.toNat))

/-- A leaf maps a window onto a die scratchpad that one of some windows names. -/
def mapsWindow (windows : List (Nat × Nat)) (leaf : BitVec 64) : Bool :=
  let cell := ptePa leaf + (pteKey leaf).toNat * 2 ^ 56
  pteLeaf leaf && windows.any (fun w => decide (w.2 ≤ cell) && decide (cell < w.2 + 0x2000000))

/-- The windows onto a die scratchpad show its bytes, and no others (R266). -/
def Mach.showDie (m : Mach) (d : Nat) : Mach :=
  let stale := (m.fw.windows.filter (fun w => w.1 = d)).flatMap (fun w => (rangeBytes m.mem w.2 0x2000000).map (fun e => (e.1, (0 : BitVec 8))))
  m.mirrorOut d (stale ++ (m.die d).dsm.bytes)

/-- The windows onto the die scratchpads of a launch stand, under their leaves (R266). -/
def Mach.openWindows (m : Mach) (l : Launch) : Mach :=
  { m with fw.windows := m.fw.windows.filter (fun (w : Nat × Nat) => !(l.dies.contains w.1)) ++ l.windows }.writeTables l.leaves

/-- The die scratchpads of a launch are freed, and the windows onto them have no translation (R266). -/
def Mach.freeDies (m : Mach) (n : BitVec 32) : Mach :=
  let held := (m.dies.filter (fun e => e.2.claim = some n)).map (·.1)
  let m := { m with dies := m.dies.map (fun (e : Nat × Die) => (e.1, if e.2.claim = some n then { e.2 with claim := none } else e.2)) }
  match m.launch n with
  | none => m
  | some l =>
    if held = [] then m
    else
      let gone := l.leaves.filter (fun e => mapsWindow l.windows e.2)
      let m : Mach := { m with fw.windows := m.fw.windows.filter (fun (w : Nat × Nat) => !(held.contains w.1)) }
      let m := m.writeTables (gone.map (fun e => (e.1, 0)))
      (m.dies.map (·.1)).foldl (fun m d => m.flushTlb d) m

/-- Pre-emption ends when every core that was stopped has drained (R387): contexts and die scratchpads are saved and the
resources are free. A core that met a fatal fault is not saved (R388). -/
def Mach.finishStop (m : Mach) (n : BitVec 32) : Mach :=
  match m.launch n with
  | none => m
  | some l =>
    if l.status ≠ .stopping then m
    else
      let mine := (l.cores.map (·.core)).filter (fun c => (m.core c).reg.launch = n)
      let m := mine.foldl (fun m c => if (m.core c).releasing = [] then m else m.release c) m
      let frozen := mine.filter (fun c => (m.core c).reg.status = .frozen)
      let failed := mine.any (fun c => (m.core c).reg.status = .faulted || (m.core c).reg.status = .exhausted)
      if failed || !(frozen.all (fun c => (m.core c).drained)) then m
      else
        let dsm := l.dies.map (fun d => (d, (m.die d).dsm))
        let r := saveCores l.rolled frozen m
        (r.1.freeDies n).modLaunch n (fun l => { l with status := .saved, saved := r.2, savedDsm := dsm, rolled := [], tick := none })

/-! ### Restoring (R226, R387, R388, R390) -/

/-- The error that a saved header holds as a pending trap. -/
def readPending (mem : Mem) (lo : Nat) : List KnownError :=
  if Mem.load mem (lo + 4) 1 / 2 % 2 = 1 then
    [{ stream := if Mem.load mem (lo + 0xD8 + 50) 2 / 16384 % 2 = 1 then .secondary else .primary,
       taddr := BitVec.ofNat 64 (Mem.load mem (lo + 0xD8 + 8) 8),
       tval := BitVec.ofNat 64 (Mem.load mem (lo + 0xD8 + 24) 8), draining := true }]
  else []

/-- A ct.fence.vis that stood at the save stands again, on the epoch its zones resume with. -/
def CoreState.standVis (x : CoreState) (st : Stream) (mask : BitVec 8) : CoreState :=
  if mask = 0 then x
  else
    let y := x.openEpochs mask
    y.modStream st (fun t => { t with vis := [y.epochMarks mask] })

/-- The range table of a space (R412). -/
def Mach.rangeTable (m : Mach) (space : BitVec 36) : Nat :=
  (Sparse.get ({} : SpaceRec) m.fw.spaces (field space 0 20)).rangeTable

/-- The registry entry of core `c` under a launch (R391, R412). -/
def Mach.registryFor (m : Mach) (l : Launch) (c : Nat) (st : Status) (save : Nat) : Registry :=
  { status := st, launch := l.number, saveArea := save, trapRing := l.trapBase + 0x800 * c,
    statRing := l.statBase + 0x2000 * c, statVa := l.statVa + BitVec.ofNat 64 (0x2000 * c), rangeTable := m.rangeTable l.space }

/-- A zone whose saved ticket has passed (R10). -/
def Zone.forget (z : Zone) : Zone := { z with epochs := z.epochs.map (fun e => { e with ticket := none }) }

/-- Restore one core from its save area, the rest of it under the key that the header holds (R389). In monitor mode it re-enters at the service entry (R388). The B-store is not dirty after a
restore (R178). Accesses that await a confirmation count in the one epoch of each zone (R390). The monitor bank is the core's, and
part of no context (R377). -/
def Mach.restoreCore (m : Mach) (l : Launch) (s : SavedCore) : Mach :=
  let c := s.core
  let old := m.core c
  let lo := old.reg.saveArea
  let lo := if old.reg.launch = l.number then lo else l.saveBase + 0x8E0000 * c
  let key := Mem.load m.mem (lo + 0x080) 8 % 64 * 2 ^ 56
  let area := fun (off n : Nat) => rangeBytes m.mem (key + lo + off) n
  let flags := Mem.load m.mem (lo + 4) 4
  let mem := fun (l : List (Nat × BitVec 8)) => Mem.writeAll [] l
  let remotes := s.remotes.map (fun r => (r.1, r.2.map (fun z => (z.1, 0))))
  let x : CoreState := {
    mon := old.mon,
    caches := old.caches,
    arrive := s.arrive,
    shadows := s.shadows,
    queues := s.queues,
    reg := m.registryFor l c .idle lo,
    twilight := l.restricted,
    flight := { errors := readPending m.mem lo, remotes := remotes, nextOp := max s.nextOp old.flight.nextOp } }
  let x := readFields m.mem lo (headerFields m.vclk) x
  let x := { x with zones := x.zones.mapIdx (fun i z => if s.tickets[i]? = some none then z.forget else z) }
  let x := readFields m.mem (key + lo) registerFields x
  let tiles := (List.range 4).foldl (fun (t : Sparse Tile) i =>
    Sparse.set {} t i { tag := (x.tile i).tag, groups := (s.groups[i]?).getD 0,
                        cells := bytesTile (area (0x8000 + 0x10000 * i) 0x10000) }) x.tiles
  let x := { x with
    tiles := tiles,
    loc := {
      csp := { bytes := mem (area 0xE0000 0x300000),
               full := (bytesFull (area 0xD8000 0x6000)).foldl (fun f g => Sparse.set false f g true) [] },
      const := mem (area 0xC8000 0x10000),
      lanes := mem ((area 0x48000 0x80000).map (fun (e : Nat × BitVec 8) => (sliceOffset e.1, e.2))),
      bstore := if flags % 2 = 1 then mem (area 0x4E0000 0x400000) else old.loc.bstore,
      bdirty := false },
    front.primary := readQueue m.mem (key + lo + 0x5000) (Mem.load m.mem (lo + 0x50) 2),
    front.secondary := readQueue m.mem (key + lo + 0x6000) (Mem.load m.mem (lo + 0x52) 2),
    front.fed := flags / 4 % 2 = 1 }
  let x := if flags / 16 % 2 = 1 then
      { x with
        trap.monitor := true,
        trap.kept := x.front.transfers,
        trap.resume := x.front.pc,
        trap.stream := s.stream,
        front.transfers := [],
        front.pc := (m.die (dieOf c)).service }
    else x
  let x := (x.standVis .primary s.visPrimary).standVis .secondary s.visSecondary
  (m.setCore c x).setShare c (area 0x3E0000 0x100000) (bytesFull (area 0xDE000 0x2000))

/-- A core of a resumed launch that had ended before is held again (R254, R255). -/
def Mach.holdEnded (m : Mach) (l : Launch) (c : Nat) : Mach :=
  let x := m.core c
  if x.reg.launch = l.number then m
  else m.setCore c { mon := x.mon, caches := x.caches, reg := m.registryFor l c .ended (l.saveBase + 0x8E0000 * c),
                     loc := { x.loc with bdirty := false }, flight := { nextOp := x.flight.nextOp } }

/-- A slot of a composer is free: it serves no launch, and the stores of the generator that it ran are seen by all (R261). -/
def Mach.slotFree (m : Mach) (h : Nat) : Bool :=
  (m.hart h).status = .free && (m.hart h).launch = 0 && (m.hart h).fenced m.vclk

/-- The lowest free slot of a composer (R410). -/
def Mach.freeSlot (m : Mach) (k : Nat) : Option Nat := ((List.range 8).map (fun i => 8 * k + i)).find? m.slotFree

/-- A saved slot as it goes on in a place: where an interrupt stopped it, it returns to mepc; and MSIP is clear (R226, R334). -/
def Hart.resumed (h : Hart) (now : Tick) (interrupted : Bool) (place : Hart) : Hart :=
  let h := if interrupted then h.mret else h
  { h with
    msip := false,
    status := .free,
    reg.status := .idle,
    nextOp := max h.nextOp place.nextOp,
    stores := h.stores.filter (fun s => match s.ticket with
      | some t => !(tickGe now t)
      | none => true) }

/-- Restore one slot, in its own place if that is free, else in the lowest free one. -/
def Mach.restoreSlot (m : Mach) (g : LaunchGen) : Mach × LaunchGen :=
  match g.saved, g.hart with
  | some h, some old =>
    let place := if m.slotFree old then some old else m.freeSlot g.comp
    match place with
    | some n =>
      let bound := (List.range 4).filter (fun k => bit h.mbind (2 * k + 1))
      let m := m.modHart n (fun o => h.resumed m.vclk g.interrupted o)
      (bound.foldl (fun m k => m.modCore (4 * (n / 8) + k) (fun x => { x with front.bound := true })) m,
       { g with hart := some n, saved := none, interrupted := false })
    | none => (m, g)
  | _, _ => (m, g)

def restoreSlots : List LaunchGen → Mach → Mach × List LaunchGen
  | [], m => (m, [])
  | g :: r, m =>
    let a := m.restoreSlot g
    let b := restoreSlots r a.1
    (b.1, a.2 :: b.2)

/-- Restore a launch (R226, R249, R256): die scratchpads and the windows onto them, then the cores with their queues, then the
slots; it holds every core it names, and waits for its new common tick. -/
def Mach.restoreLaunch (m : Mach) (l : Launch) (t : Tick) : Mach :=
  let m := l.cores.foldl (fun m e => m.performTimed e.core (fun _ => true)) (m.openWindows l)
  let m := l.savedDsm.foldl (fun m d => (m.modDie d.1 (fun x => { x with dsm := d.2, claim := some l.number })).showDie d.1) m
  let m := l.saved.foldl (fun m s => m.restoreCore l s) m
  let m := l.cores.foldl (fun m e => m.holdEnded l e.core) m
  let r := restoreSlots l.gens m
  r.1.modLaunch l.number (fun l => { l with status := .claimed, tick := some t, saved := [], savedDsm := [], gens := r.2 })

/-! ### The end of a launch (R259) -/

/-- Every core and generator of a launch stops and its resources are freed. A core with a fatal record stays as it is until F3
reaps it (R381). -/
def Mach.endLaunch (m : Mach) (n : BitVec 32) : Mach :=
  let m := (saveSlots n (((m.launch n).map (·.gens)).getD []) m).1
  let m := m.cores.foldl (fun m e => if e.2.reg.launch = n && e.2.releasing ≠ [] then m.release e.1 else m) m
  let stop := fun (x : CoreState) =>
    if x.reg.launch = n then
      { x with
        reg.status := if x.reg.status = .faulted || x.reg.status = .exhausted then x.reg.status else .idle,
        front.primary := [],
        front.secondary := [],
        front.transfers := [],
        front.bound := false,
        region := none,
        releasing := [],
        loc.bdirty := false,
        replay := [] }
    else x
  let slot := fun (h : Hart) => if h.launch = n then ({ fault := h.fault, nextOp := h.nextOp, reg := { h.reg with status := .idle } } : Hart) else h
  let comp := fun (k : Composer) =>
    { k with
      harts := k.harts.map (fun (h : Nat × Hart) => (h.1, slot h.2)),
      watch := k.watch.filter (fun (w : Lapse) => w.launch ≠ n) }
  let m := { m with comps := m.comps.map (fun (e : Nat × Composer) => (e.1, comp e.2)) }
  ((m.mapCores (fun _ x => stop x)).freeDies n).modLaunch n (fun l => { l with status := .ended, saved := [], savedDsm := [] })

end Sys2Proof.Machine
end

