-- ==== Sys2Proof/Machine/Firmware.lean ====
section
/-! DEFINITION. What the firmware events share: host rings and their entries (R403 to R406), completion entries (R404), table
writes of F2 (R359), dependences (R258), how a launch ends by a fault (R259), and the default service code (R431). -/

namespace Sys2Proof.Machine

/-! ### Service code (R376, R431) -/

/-- A bundle of some words, every other slot a NOP. -/
def bundleOf (l : List Instr) : Bundle :=
  Bundle.ofWords (fun s => ((l.find? (fun i => slotOf i = some s)).bind encode).getD 0)

/-- The default service code (R431), wherever it lies: it takes TCAUSE into the monitor bank and transfers to the bundle of that
cause in the table at its end, an sc.eret for sc.svc and sc.brk and an sc.trap of the cause for every other one. -/
def defaultService : List Bundle :=
  [bundleOf [.scMfc 0 48 0x040], bundleOf [.scCtv 0 49, .ctCall 0 4], bundleOf [.scShli 0 48 48 5], bundleOf [.scAddi 0 49 49 128],
    bundleOf [.scAdd 0 49 49 48], bundleOf [.ctJr 0 49], 0, 0, 0]
  ++ (List.range 13).map (fun c => if c = 10 ∨ c = 11 then bundleOf [.scEret 0] else bundleOf [.scTrap 0 (BitVec.ofNat 12 c)])

/-- What a steward installs when it starts: the default service code at the cell of the item, or under the flag what its signed
image provides (R431). -/
def EventArgs.serviceCells (a : EventArgs) : List (Nat × BitVec 8) :=
  if a.flag then a.cells else defaultService.zipIdx.flatMap (fun e => numberBytes (a.item + 32 * e.2) 32 e.1.toNat)

/-! ### Rings (R403, R404) -/

def Mach.ring (m : Mach) (n : Nat) : Ring := Sparse.get {} m.fw.rings n

def Mach.modRing (m : Mach) (n : Nat) (f : Ring → Ring) : Mach :=
  { m with fw.rings := Sparse.put m.fw.rings n (f (m.ring n)) }

/-- The k of RING_n; 0 while the ring is disabled. -/
def Ring.k (r : Ring) : Nat := field r.value 0 4

/-- The cell of the ring's first entry, under KEYID 0 (log 22). -/
def Ring.base (r : Ring) : Nat := field r.value 12 52 * 4096

/-- The lifecycle states in which the module offers a service (R420). -/
def Mach.inLife (m : Mach) : Bool := m.fleet.lifecycle = .provisioned || m.fleet.lifecycle = .deployed

/-- The module accepts work from the host: no image of it has failed verification, its lifecycle state offers a service, and no wipe
runs (R419 to R421). -/
def Mach.hostOpen (m : Mach) : Bool := m.fw.failed = [] && m.inLife && !m.fleet.wiping

/-- MSTAT (R403): full service, Twilight service, ORDMODE. -/
def Mach.mstat (m : Mach) : BitVec 64 :=
  BitVec.ofNat 64 (m.fleet.fullService.toNat + 2 * m.fleet.twilight.toNat + 4 * m.fleet.tempered.toNat)

/-- What a read of BAR0 at an offset returns (R403): MSTAT and RING_n; DBELL_n is write only, and an offset that is not listed reads
zero. -/
def Mach.readBar0 (m : Mach) (off : Nat) : BitVec 64 :=
  if off = 0x1000 then m.mstat
  else if 0x1100 ≤ off ∧ off < 0x1200 ∧ off % 16 = 0 then (m.ring ((off - 0x1100) / 16)).value
  else 0

/-- Write a completion entry (R404). A ring that is disabled holds no entries. -/
def Mach.complete (m : Mach) (n : Nat) (seq : BitVec 16) (status sub : Nat) (launch : BitVec 32) (detail : Nat) : Mach :=
  let r := m.ring n
  if r.k = 0 then m
  else
    let size := 2 ^ r.k
    let phase := Config.firstPhase != decide (r.comp / size % 2 = 1)
    let bits := seq.toNat + 2 ^ 16 * status + 2 ^ 24 * sub + 2 ^ 32 * launch.toNat + 2 ^ 64 * (detail % 2 ^ 64)
      + 2 ^ 128 * m.vclk.toNat + 2 ^ 248 * phase.toNat
    (m.performGlobal (numberBytes (r.base + 64 * size + 32 * (r.comp % size)) 32 bits)).modRing n
      (fun r => { r with comp := r.comp + 1 })

/-- The cell of the entry at the head of a ring, if the host has announced one and F0 accepts it. -/
def Mach.headEntry (m : Mach) (n : Nat) : Option Nat :=
  let r := m.ring n
  if m.hostOpen && decide (r.k ≠ 0) && decide (r.head < r.tail) then some (r.base + 64 * (r.head % 2 ^ r.k)) else none

/-- The sequence that F0 expects of the head entry (R404, R406). -/
def Ring.seq (r : Ring) : BitVec 16 := BitVec.ofNat 16 r.head

/-- The head entry carries the sequence that F0 expects (R406). -/
def Mach.inSequence (m : Mach) (n a : Nat) : Bool := decide (Mem.load m.mem (a + 2) 2 = (m.ring n).seq.toNat)

/-- F0 completes the head entry and moves on. -/
def Mach.answer (m : Mach) (n status sub : Nat) (launch : BitVec 32) (detail : Nat) : Mach :=
  (m.complete n (m.ring n).seq status sub launch detail).modRing n (fun r => { r with head := r.head + 1 })

/-- Entries of an unknown kind at the head are completed with status 0x0A. -/
def skipUnknown (n : Nat) : Nat → Mach → Mach
  | 0, m => m
  | fuel + 1, m => match m.headEntry n with
    | none => m
    | some a =>
      let kind := Mem.load m.mem a 1
      if m.inSequence n a && (decide (kind = 0) || decide (6 < kind)) then
        skipUnknown n fuel (m.answer n 0x0A 0 0 0)
      else m

/-- The first bad byte of a list of checks, in the order of the offsets. -/
def firstBad (l : List (Nat × Bool)) : Option Nat := (l.find? (fun e => e.2)).map (·.1)

/-- Reserved bytes, which are zero. -/
def zeroBytes (mem : Mem) (a off n : Nat) : List (Nat × Bool) :=
  (List.range n).map (fun i => (off + i, decide (Mem.load mem (a + off + i) 1 ≠ 0)))

/-- F0 takes the head entry of a ring when it is of a kind: the first bad byte makes it malformed, reserved bytes and those that
`checks` finds in bytes 4 to 7 of the entry at a cell; else `f` answers it, given its cell. Entries of unknown kinds behind it
follow. -/
def Mach.takeEntry (m : Mach) (n kind : Nat) (f : Nat → Mach) (checks : Nat → List (Nat × Bool) := fun _ => []) : Mach :=
  match m.headEntry n with
  | none => m
  | some a =>
    if !(m.inSequence n a) || decide (Mem.load m.mem a 1 ≠ kind) then m
    else
      let bodiless := decide (kind = 2) || decide (kind = 5) || decide (kind = 6)
      let m := match firstBad (zeroBytes m.mem a 1 1 ++ checks a ++ (if bodiless then zeroBytes m.mem a 8 8 else [])) with
        | some o => m.answer n 2 0 0 o
        | none => f a
      skipUnknown n ((m.ring n).tail - (m.ring n).head) m

/-! ### Tables of F2 (R357 to R359) -/

/-- What F2 holds of a space. -/
def Mach.spaceRec (m : Mach) (space : BitVec 36) : SpaceRec := Sparse.get {} m.fw.spaces (field space 0 20)

def Mach.modSpace (m : Mach) (space : BitVec 36) (f : SpaceRec → SpaceRec) : Mach :=
  { m with fw.spaces := Sparse.put m.fw.spaces (field space 0 20) (f (m.spaceRec space)) }

/-- The space is known under another generation, so its identifier has been torn down (R365). -/
def Mach.staleSpace (m : Mach) (space : BitVec 36) : Bool :=
  match Sparse.find m.fw.spaces (field space 0 20) with
  | some r => decide (r.generation.toNat ≠ field space 20 16)
  | none => false

/-- The trees of a space in other modules, by their root tables, each in the memory of its module (R357). -/
def Mach.addRoots (m : Mach) (space : BitVec 36) (roots : List Nat) : Mach :=
  m.modSpace space (fun r => { r with roots := roots.foldl (fun l t =>
    if (Sparse.find l (cellModule t)).isSome then l else Sparse.put l (cellModule t) t) r.roots })

/-- A space gets its root table in this module when it has none. -/
def Mach.ensureSpace (m : Mach) (space : BitVec 36) (root : Nat) : Mach :=
  match m.root space with
  | some _ => m
  | none => m.modSpace space (fun r => { r with
      roots := Sparse.put r.roots m.fleet.number.toNat root,
      generation := BitVec.ofNat 16 (field space 20 16) })

/-- The cells of bytes at a virtual address of a space, as far as it maps them. -/
def Mach.virtualCells (m : Mach) (space : BitVec 36) (va : Nat) (bytes : List (BitVec 8)) : List (Nat × BitVec 8) :=
  (bytes.mapIdx (fun i b => (i, b))).filterMap (fun e =>
    let at_ := canonicalVa (va + e.1)
    match m.walk space at_ with
    | .leaf l shift => some (leafCell l shift at_, e.2)
    | _ => none)

/-! ### Launches -/

/-- A launch that has been admitted and has not ended. -/
def Launch.alive (l : Launch) : Bool := l.status ≠ .ended

/-- A launch that runs on the module, or is stopping (R294, R412). -/
def Launch.runs (l : Launch) : Bool := l.status = .running || l.status = .stopping || l.status = .completing

/-- F1 writes a completion entry of a launch. -/
def Mach.report (m : Mach) (l : Launch) (status detail : Nat) : Mach := m.complete l.ring l.seq status 0 l.number detail

/-- The value of a completion word (R258). -/
def Mach.word (m : Mach) (a : Nat) : Nat := Mem.load m.mem a 8

/-- The dependences of a launch are met (R258). -/
def Mach.depsMet (m : Mach) (l : Launch) : Bool := l.deps.all (fun d => decide (d.1 = 0) || decide (d.2 ≤ m.word d.1))

/-- The place in the order of eligibility that comes next. -/
def nextOrder (l : List Launch) : Nat := (l.map (fun k => (k.eligible.map (· + 1)).getD 0)).foldl max 0

/-- F1 evaluates dependences (R258): launches become eligible in the order of their admission. -/
def Mach.evaluate (m : Mach) : Mach :=
  (m.fw.launches.filter (fun l => l.status = .waiting && l.eligible.isNone && m.depsMet l)).foldl (fun m l =>
    m.modLaunch l.number (fun k => { k with eligible := some (nextOrder m.fw.launches) })) m

/-- A launch that ended by a fault cancels those that its own increment would have released (R259). -/
def Mach.cancelDependents (m : Mach) (l : Launch) : Mach :=
  let v := m.word l.completion
  let hit := m.fw.launches.filter (fun k => k.status = .waiting && k.deps.any (fun d =>
    decide (d.1 = l.completion) && decide (d.1 ≠ 0) && decide (v < d.2) && decide (d.2 ≤ v + 1)))
  hit.foldl (fun m k => (m.report k 6 0).modLaunch k.number (fun k => { k with status := .ended })) m

/-- F3 ends a launch for a fault and F1 reports it (R259). -/
def Mach.faultEnd (m : Mach) (l : Launch) (detail : Nat) : Mach :=
  ((m.endLaunch l.number).report l 5 detail).cancelDependents l

end Sys2Proof.Machine
end

