-- ==== Sys2Proof/Machine/Gang.lean ====
section
/-! DEFINITION. F1: claims, release, pre-emption, resume, completion, and the ends of launches (R226, R246, R250 to R261, R387).
An event whose condition does not hold leaves the state as it is (log 18). -/

namespace Sys2Proof.Machine

/-! ### Resources (R254, R257) -/

/-- The resources of a core are free, when the launches of `gone` have stopped: nothing of it runs or is in flight, no fatal
record waits for F3, and no other launch holds it. -/
def Mach.coreFree (m : Mach) (gone : List (BitVec 32)) (c : Nat) : Bool :=
  let x := m.core c
  let held : Bool := match m.launch x.reg.launch with
    | some l => match l.status with
      | .ended | .saved | .waiting => false
      | .claimed | .running | .stopping | .completing => true
    | none => false
  let still : Bool := match x.reg.status with
    | .idle | .saved | .ended => true
    | .running | .frozen | .faulted | .exhausted => false
  (held && gone.contains x.reg.launch) || (!held && still && x.drained)

/-- The slots of a composer that are free, when the launches of `gone` have stopped. -/
def Mach.freeSlots (m : Mach) (gone : List (BitVec 32)) (k : Nat) : Nat :=
  ((List.range 8).filter (fun i =>
    m.slotFree (8 * k + i) || (decide ((m.hart (8 * k + i)).launch ≠ 0) && gone.contains (m.hart (8 * k + i)).launch))).length

/-- The scratchpad of a die is free, when the launches of `gone` have stopped. -/
def Mach.dieFree (m : Mach) (gone : List (BitVec 32)) (d : Nat) : Bool :=
  match (m.die d).claim with
  | some n => gone.contains n
  | none => true

/-- The generators for which a launch needs a slot now: all, or those saved with it. -/
def Launch.needed (l : Launch) : List LaunchGen := if l.status = .saved then l.gens.filter (fun g => g.saved.isSome) else l.gens

def Launch.gensOn (l : Launch) (k : Nat) : Nat := (l.needed.filter (fun g => g.comp = k)).length

/-- Everything that a launch needs is free, when the launches of `gone` have stopped; its dies have power and have passed stage one of
bring-up (R422, R428). -/
def Mach.available (m : Mach) (l : Launch) (gone : List (BitVec 32)) : Bool :=
  !m.fleet.hot && l.cores.all (fun e => (m.die (dieOf e.core)).stage ≠ 0)
    && l.cores.all (fun e => m.coreFree gone e.core) && l.dies.all (m.dieFree gone)
    && l.needed.all (fun g => decide (l.gensOn g.comp ≤ m.freeSlots gone g.comp))

/-- Two launches need common resources: a core, a die scratchpad, or more slots of one composer than it has. -/
def Launch.overlaps (a b : Launch) : Bool :=
  a.cores.any (fun e => b.cores.any (fun f => e.core = f.core)) || a.dies.any b.dies.contains
    || a.needed.any (fun g => decide (0 < b.gensOn g.comp) && decide (8 < a.gensOn g.comp + b.gensOn g.comp))

/-- A launch holds a resource that another needs. -/
def Launch.touches (a b : Launch) : Bool :=
  a.cores.any (fun e => b.cores.any (fun f => e.core = f.core)) || a.dies.any b.dies.contains
    || a.gens.any (fun g => b.needed.any (fun h => g.comp = h.comp))

/-- A launch may be considered: no eligible launch that comes before it needs its resources (R257). -/
def Mach.inTurn (m : Mach) (l : Launch) : Bool :=
  match l.eligible with
  | none => false
  | some e => m.fw.launches.all (fun k => match k.eligible with
      | some f =>
        let waits := k.status = .waiting || k.status = .saved
        let before := decide (l.priority < k.priority) || (decide (l.priority = k.priority) && decide (f < e))
        decide (k.number = l.number) || !waits || !before || !(k.overlaps l)
      | none => true)

/-- Lowest priority first; within one priority the launch that started latest (R257). -/
def stopsBefore (a b : Launch) : Bool :=
  decide (a.priority < b.priority) || (decide (a.priority = b.priority) && decide (b.started < a.started))

def insertVictim (l : Launch) : List Launch → List Launch
  | [] => [l]
  | k :: r => if stopsBefore l k then l :: k :: r else k :: insertVictim l r

/-- The running launches of strictly lower priority that hold what a launch needs, in the order of R257, as many as the claim
needs. -/
def Mach.victims (m : Mach) (l : Launch) (gone : List (BitVec 32)) : List (BitVec 32) :=
  let low := (m.fw.launches.filter (fun k => k.status = .running && decide (k.priority < l.priority) && k.touches l)).foldl
    (fun acc k => insertVictim k acc) []
  let taken := low.foldl (fun acc k => if m.available l (gone ++ acc) then acc else acc ++ [k.number]) []
  taken.foldl (fun acc n =>
    let less := acc.filter (fun k => k ≠ n)
    if m.available l (gone ++ less) then less else acc) taken

/-- The launches that are stopping already. -/
def Mach.goingLaunches (m : Mach) : List (BitVec 32) := (m.fw.launches.filter (fun k => k.status = .stopping)).map (·.number)

/-- The launches that a claim pre-empts: none where that cannot free what it needs (R257). -/
def Mach.stopsFor (m : Mach) (l : Launch) : List (BitVec 32) :=
  let v := m.victims l m.goingLaunches
  if m.available l (m.goingLaunches ++ v) then v else []

/-- An eligible launch that cannot claim its resources pre-empts, when that can free them (R257). -/
def Mach.contend (m : Mach) (l : Launch) : Mach := (m.stopsFor l).foldl (fun m n => m.stopLaunch n) m

/-- Pre-emption of a launch is due: a launch of higher priority in its turn needs it (R257). -/
def Mach.mayStop (m : Mach) (n : BitVec 32) : Bool :=
  m.fw.launches.any (fun k => (k.status = .waiting || k.status = .saved) && m.inTurn k && !(m.available k []) && (m.stopsFor k).contains n)

/-- A release tick may be chosen: now or later, and at most 2^40 ticks ahead (R10, R255). -/
def Mach.tickChosen (m : Mach) (t : Tick) : Bool := decide ((t - m.vclk).toNat ≤ 2 ^ 40)

/-! ### The claim (R205, R232, R239, R250, R254) -/

/-- The cells of an image. -/
def Image.cells (i : Image) : List (Nat × BitVec 8) := i.bytes.mapIdx (fun k b => (i.addr + k, b))

/-- Images of one local space written into the part of it that a launch may write (`own`, by byte offset): its granules are full
where an image has a byte, and empty elsewhere (R232). -/
def imageStore (s : Store) (own : Nat → Bool) (l : List Image) : Store :=
  let cells := (l.flatMap Image.cells).filter (fun e => own e.1)
  { bytes := Mem.writeAll s.bytes cells,
    full := cells.foldl (fun f e => Sparse.set false f (e.1 / 16) true) (s.full.filter (fun g => !(own (16 * g.1)))) }

/-- The images of a space: 1 core scratchpad, 2 cluster memory, 3 die scratchpad, 4 constant store. -/
def Launch.imagesOf (l : Launch) (space : Nat) : List Image := l.images.filter (fun i => i.space = space)

/-- A core as it stands at release (R250), less its running. -/
def Mach.startCore (m : Mach) (l : Launch) (e : LaunchCore) : CoreState :=
  let c := e.core
  let old := m.core c
  let k := inCluster c
  let bound := l.gens.any (fun g => g.comp = clusterOf c && bit g.binds (2 * k + 1))
  { mon := old.mon,
    caches := old.caches,
    regs := { g := Sparse.ofFn 0 64 (fun n => if n = 2 then e.g2 else if n = 3 then l.handles
                else if 8 ≤ n ∧ n ≤ 15 then (e.args[n - 8]?).getD 0 else 0) },
    ctl := { dmem := e.dmem, lattab := l.lattab, cover := l.cover, lease := l.lease, seed := l.seed, frm := l.frm,
             keyid := l.keyid, space := l.space },
    front := { pc := if e.fed then 0 else e.start &&& ~~~(31 : Dword), fed := e.fed, bound := bound },
    arrive := e.flags,
    flight := { nextOp := old.flight.nextOp },
    loc := { old.loc with
      bdirty := false,
      csp := imageStore old.loc.csp (fun _ => true) (l.imagesOf 1),
      const := Mem.writeAll old.loc.const ((l.imagesOf 4).flatMap Image.cells) },
    reg := m.registryFor l c .idle (l.saveBase + 0x8E0000 * c),
    twilight := l.restricted }

/-- A generator in slot `h`, as R205 starts it, less its running; `op` numbers its next store. DESIGN CHOICE (log 112): MSIE is set,
so that the MSIP of F1 stops it (R226); and a save area lies at 4 KiB for each slot. -/
def Mach.startSlot (m : Mach) (l : Launch) (g : LaunchGen) (h op : Nat) : Hart :=
  { nextOp := op,
    msie := true,
    reg := { launch := l.number, saveArea := l.slotBase + 4096 * h, rangeTable := m.rangeTable l.space },
    x := Sparse.set 0 (Sparse.set 0 [] 2 g.sp) 10 g.arg,
    pc := l.gentry,
    user := true,
    mgspace := BitVec.ofNat 42 (l.space.toNat + 2 ^ 36 * l.keyid.toNat),
    mgrant := g.grants,
    mbind := g.binds,
    mgbase := l.gentry,
    launch := l.number }

/-- Each generator takes the lowest free slot of its composer (R410). -/
def claimSlots (l : Launch) : List LaunchGen → Mach → Mach × List LaunchGen
  | [], m => (m, [])
  | g :: r, m =>
    match m.freeSlot g.comp with
    | some h =>
      let m := m.modHart h (fun x => m.startSlot l g h x.nextOp)
      let b := claimSlots l r m
      (b.1, { g with hart := some h } :: b.2)
    | none =>
      let b := claimSlots l r m
      (b.1, g :: b.2)

/-- The initial flags, counted as arrivals of the first phase (R246). -/
def Launch.initialArrivals (l : Launch) : Sparse Nat :=
  l.cores.foldl (fun a e => (List.range 5).foldl (fun a i =>
    if bit e.flags i then
      let key := domainKey (i + 1) (domainUnit { ctl := { dmem := e.dmem } } e.core (i + 1))
      Sparse.set 0 a key (Sparse.get 0 a key + 1)
    else a) a) []

/-- The level-5 members of the other modules of a job, by domain: the operands of a claim whose first number is the key of a level-5
domain (R243). Windows onto die scratchpads are named by the die. -/
def EventArgs.others (a : EventArgs) : Sparse Nat :=
  (a.ranges.filter (fun r => decide (5120 ≤ r.1))).foldl (fun s r => Sparse.set 0 s r.1 r.2) []

/-- Every launch of the job is admitted and holds its claim: the level-5 member counts are fixed (R243), and the tick of release is
chosen (R255). -/
def Launch.setTick (l : Launch) (a : EventArgs) : Launch :=
  { l with
    tick := some a.tick,
    others := if l.modules = 1 then [] else a.others,
    members := if l.modules = 1 then l.members
      else a.others.foldl (fun s o => Sparse.set 0 s o.1 (Sparse.get 0 s o.1 + o.2)) l.members }

/-- A leaf maps statistics rings of a launch read-only, as kind memory (R382). -/
def mapsRing (l : Launch) (leaf : BitVec 64) : Bool :=
  let cell := ptePa leaf + (pteKey leaf).toNat * 2 ^ 56
  decide (pteKind leaf = 0) && !(pteWritable leaf) && decide (l.statBase < cell + 2 ^ 30) && decide (cell < l.statBase + 0x2000 * 1024)

/-- Leaves of a property map a range of a space onto the cells from one on. -/
def Mach.mapsTo (m : Mach) (space : BitVec 36) (ok : BitVec 64 → Bool) : Nat → Nat → Nat → Nat → Bool
  | 0, _, _, left => decide (left = 0)
  | fuel + 1, va, cell, left =>
    decide (left = 0) || (match m.walk space (canonicalVa va) with
      | .leaf e shift =>
        let part := 2 ^ shift - va % 2 ^ shift
        ok e && decide (leafCell e shift (canonicalVa va) = cell) && m.mapsTo space ok fuel (va + part) (cell + part) (left - part)
      | _ => false)

/-- The space of a launch maps the statistics ring of each of its cores read-only, as kind memory, at the address that sc.stqpop
returns (R382), and a window onto each die scratchpad that it claims, from the address of `vas` on, on pages of kind memory (R266). -/
def Mach.mapsRight (m : Mach) (l : Launch) (vas : List (BitVec 64)) : Bool :=
  let memory := fun (e : BitVec 64) => decide (pteKind e = 0)
  l.cores.all (fun e => m.mapsTo l.space (fun k => memory k && !(pteWritable k)) 3 ((l.statVa.toNat + 0x2000 * e.core) % 2 ^ 57)
      (l.statBase + 0x2000 * e.core) 0x2000)
    && l.dies.all (fun d => l.windows.any (fun w => w.1 = d))
    && (l.windows.zipIdx.all (fun w => m.mapsTo l.space memory 2049 (((vas[w.2]?).getD 0).toNat % 2 ^ 57) w.1.2 0x2000000))

/-- What F1 chooses for a claim: where the save areas, the rings and the windows lie, and the table entries that map them. -/
def Mach.placed (m : Mach) (a : EventArgs) (l : Launch) : Launch :=
  let addr := fun (i : Nat) => (a.addrs[i]?).getD 0
  let l := { l with
    status := .claimed,
    saveBase := (addr 0).toNat,
    trapBase := (addr 1).toNat,
    statBase := (addr 2).toNat,
    statVa := addr 3,
    slotBase := (addr 4).toNat,
    restricted := l.restricted || m.fleet.twilight,
    arrived := l.initialArrivals,
    windows := a.ranges.filter (fun w => l.dies.contains w.1) }
  { l with leaves := a.tables.filter (fun e => !(pteLeaf e.2) || mapsWindow l.windows e.2 || mapsRing l e.2) }

/-- F1 claims everything a launch needs (R254): the images are written (R232), the windows onto its die scratchpads stand (R266),
the cores and slots hold what R250 and R205 give, and the tick of release is chosen (R255). -/
def Mach.claim (m : Mach) (a : EventArgs) (l : Launch) : Mach :=
  let l := m.placed a l
  let l := if l.modules = 1 ∨ a.flag then l.setTick a else l
  let m := l.cores.foldl (fun m e => m.performTimed e.core (fun _ => true)) (m.openWindows l)
  let m := l.dies.foldl (fun m d =>
    let m := m.modDie d (fun x => { x with dsm := imageStore x.dsm (fun _ => true) (l.imagesOf 3), claim := some l.number })
    m.showDie d) m
  let m := ((l.cores.map (fun e => clusterOf e.core)).eraseDups).foldl (fun m k =>
    let own := fun (off : Nat) => l.cores.any (fun e => e.core = 4 * k + off / 4096 % 4)
    m.modCluster k (fun x => { x with clm := imageStore x.clm own (l.imagesOf 2) })) m
  let m := l.cores.foldl (fun m e => m.setCore e.core (m.startCore l e)) m
  let r := claimSlots l l.gens m
  r.1.modLaunch l.number (fun _ => { l with gens := r.2 })

/-- A claim: of an eligible launch in its turn, whose space maps its statistics rings and the windows onto its die scratchpads (R266,
R382), or, for a launch of a scale-up job that holds its claim, the tick of release once every module has claimed (flag set) (R243,
R254, R255, R257). `addrs` are the five places of `placed` and the addresses of the windows of `ranges`. -/
def claims (a : EventArgs) (m : Mach) : Mach :=
  match m.launch (BitVec.ofNat 32 a.item) with
  | none => m
  | some l =>
    if !(m.tickChosen a.tick) then m
    else if l.status = .waiting && m.inTurn l then
      let p := m.placed a l
      if !(m.available l []) then m.contend l
      else if (m.openWindows p).mapsRight p (a.addrs.drop 5) then m.claim a l
      else m
    else if l.status = .claimed && l.tick.isNone && a.flag then m.modLaunch l.number (fun l => l.setTick a)
    else m

/-- The release tick (R255): every core of the launch runs, its generators start, and phases of which every member has its flag
set end (R246). Ticks are compared modulo 2^48 (R10). -/
def releases (a : EventArgs) (m : Mach) : Mach :=
  match m.launch (BitVec.ofNat 32 a.item) with
  | none => m
  | some l =>
    if l.status ≠ .claimed || l.tick ≠ some m.vclk then m
    else
      let go := fun (x : CoreState) => if x.reg.launch = l.number && x.reg.status = .idle then
        { x with reg.status := .running, front.awaits := true } else x
      let m := m.mapCores (fun _ x => go x)
      let m := l.gens.foldl (fun m g => match g.hart with
        | some h => if (m.hart h).launch = l.number && (m.hart h).status = .free then
            m.modHart h (fun x => { x with status := .ready, reg.status := .running }) else m
        | none => m) m
      let m := m.modLaunch l.number (fun k => { k with status := .running, started := m.fw.starts + 1 })
      let m := { m with fw.starts := m.fw.starts + 1 }
      l.arrived.foldl (fun m e => m.endPhase l.number (keyDomain e.1).1 (keyDomain e.1).2) m

/-- Arrivals at a level-5 domain, by its key, come from the other modules of a job, also while the launch is saved (R249); under
`leaving` members there leave it, and under `counted` ones that had arrived in the phase at hand (R243 to R245). A phase ends only
while the launch is released. -/
def Mach.arriveAway (m : Mach) (l : Launch) (key n : Nat) (leaving counted : Bool) : Mach :=
  let others := Sparse.get 0 l.others key
  let away := Sparse.get 0 l.away key
  let rest := if counted then away else others - away
  if key < 5120 ∨ rest < n then m
  else
    let m := m.modLaunch l.number (fun l =>
      let l := if leaving then { l with
          others := Sparse.set 0 l.others key (others - n),
          members := Sparse.set 0 l.members key (Sparse.get 0 l.members key - n) }
        else { l with
          away := Sparse.set 0 l.away key (away + n),
          arrived := Sparse.set 0 l.arrived key (Sparse.get 0 l.arrived key + n) }
      if leaving && counted then { l with
          away := Sparse.set 0 l.away key (away - n),
          arrived := Sparse.set 0 l.arrived key (Sparse.get 0 l.arrived key - n) }
      else l)
    if l.status = .running || l.status = .stopping then m.endPhase l.number 5 (keyDomain key).2 else m

/-- REMOTE_TICK_CONFIRMATION: another module confirms a ticket (R283); under the flag it confirms arrivals at level-5 domains of the
launch of the item, by key and number, or with part 1 that so many of their members have left, with part 2 members that had arrived
in the phase (R243, R244, log 46). -/
def confirms (a : EventArgs) (m : Mach) : Mach :=
  if !a.flag then remoteConfirmed a m
  else a.ranges.foldl (fun m r => match m.launch (BitVec.ofNat 32 a.item) with
    | some l => m.arriveAway l r.1 r.2 (decide (1 ≤ a.part)) (decide (2 ≤ a.part))
    | none => m) m

/-! ### Pre-emption and resume (R226, R387) -/

/-- F1 stops a running launch that a launch of higher priority needs (R257), or saves one that has stopped and drained. -/
def preempts (a : EventArgs) (m : Mach) : Mach :=
  let n := BitVec.ofNat 32 a.item
  (if m.mayStop n then m.stopLaunch n else m).finishStop n

/-- F1 restores a saved launch in its turn, on the same cores and on a new tick; the stewards of its dies are up (R226, R392). -/
def resumes (a : EventArgs) (m : Mach) : Mach :=
  match m.launch (BitVec.ofNat 32 a.item) with
  | none => m
  | some l =>
    if l.status ≠ .saved || !(m.tickChosen a.tick) || !(m.inTurn l) || l.cores.any (fun e => !((m.die (dieOf e.core)).steward)) then m
    else if m.available l [] then m.restoreLaunch l a.tick
    else m.contend l

/-! ### Completion (R260, R261) -/

/-- Every core of a launch has reported, through its cluster and its die, no generator of it runs, and the writes of its generators
are seen by all (R261). -/
def Mach.finished (m : Mach) (l : Launch) : Bool :=
  l.cores.all (fun e => l.reported.contains e.core)
    && l.gens.all (fun g => match g.hart with
      | some h => decide ((m.hart h).launch ≠ l.number) && (decide ((m.hart h).launch ≠ 0) || (m.hart h).fenced m.vclk)
      | none => true)

/-- F1 adds 1 to the completion word with an owned atomic, which takes its ticket (R280). -/
def completes (a : EventArgs) (m : Mach) : Mach :=
  match m.launch (BitVec.ofNat 32 a.item) with
  | none => m
  | some l =>
    let cells := numberBytes l.completion 8 (m.word l.completion + 1)
    let at_ := cells.map (·.1)
    if l.status ≠ .running || !(m.finished l) then m
    else
      let t := m.leastTicket at_
      let m := (m.performGlobal cells).noteWrite 1024 l.number.toNat none at_ (some t)
      m.modLaunch l.number (fun l => { l with status := .completing, ticket := some t })

/-- The ticket of the completion word has passed: the final entry is written and dependences are evaluated (R260, R407). -/
def completionPassed (a : EventArgs) (m : Mach) : Mach :=
  match m.launch (BitVec.ofNat 32 a.item) with
  | none => m
  | some l =>
    if l.status ≠ .completing || !(passed m.vclk l.ticket) then m
    else ((m.endLaunch l.number).report l 1 l.completion).evaluate

/-! ### Ends by fault (R213, R224, R259, R379) -/

/-- The registry entry of a context of a launch that met a fault. -/
def Mach.faultOf (m : Mach) (l : Launch) : Option Nat :=
  let core := l.cores.find? (fun e =>
    let r := (m.core e.core).reg
    r.launch = l.number && (r.status = .faulted || r.status = .exhausted))
  let slot := l.gens.find? (fun g => match g.hart with
    | some h => (m.hart h).launch = l.number && (m.hart h).status = .stopped
    | none => false)
  match core, slot with
  | some e, _ => some (m.registryOf e.core)
  | none, some g => g.hart.map m.registryOfSlot
  | none, none => none

/-- F3 ends a launch of which a context met a fault (R259). -/
def faultEnds (a : EventArgs) (m : Mach) : Mach :=
  match m.launch (BitVec.ofNat 32 a.item) with
  | none => m
  | some l => match l.alive, m.faultOf l with
    | true, some detail => m.faultEnd l detail
    | _, _ => m

/-- A primary binding lapsed before the core's ct.end, and the queue has drained: F3 writes a generator fault record of cause 30
and ends the launch (R213). -/
def lapseEnds (a : EventArgs) (m : Mach) : Mach :=
  match (m.comp (clusterOf a.agent)).watch.find? (fun w => w.core = a.agent) with
  | none => m
  | some w =>
    let x := m.core w.core
    match m.launch w.launch with
    | none => m
    | some l =>
      if x.reg.launch = w.launch && x.running && decide (x.front.primary = []) then
        (m.faultEnd l (m.registryOfSlot w.slot)).writeFault w.slot w.record
      else m

/-! ### Events -/

/-- LAUNCH_CLAIM (R254) -/
def execLaunchClaim (s : State) : Host.Outcome State Fault Refusal := eventStep claims s
/-- REMOTE_TICK_CONFIRMATION (R283, R243) -/
def execRemoteTickConfirmation (s : State) : Host.Outcome State Fault Refusal := eventStep confirms s
/-- RELEASE_TICK (R255) -/
def execReleaseTick (s : State) : Host.Outcome State Fault Refusal := eventStep releases s
/-- PREEMPTION (R387) -/
def execPreemption (s : State) : Host.Outcome State Fault Refusal := eventStep preempts s
/-- RESUME (R226) -/
def execResume (s : State) : Host.Outcome State Fault Refusal := eventStep resumes s
/-- LAUNCH_COMPLETION (R260) -/
def execLaunchCompletion (s : State) : Host.Outcome State Fault Refusal := eventStep completes s
/-- COMPLETION_WORD_PASSED (R260, R407) -/
def execCompletionWordPassed (s : State) : Host.Outcome State Fault Refusal := eventStep completionPassed s
/-- FAULT_END_LAUNCH (R259) -/
def execFaultEndLaunch (s : State) : Host.Outcome State Fault Refusal := eventStep faultEnds s
/-- PRIMARY_BINDING_LAPSE_END (R213) -/
def execPrimaryBindingLapseEnd (s : State) : Host.Outcome State Fault Refusal := eventStep lapseEnds s

end Sys2Proof.Machine
end

