-- ==== Sys2Proof/Machine/Handlers.lean ====
section
/-! DEFINITION. The handlers of traps: replay, paging in, read-duplicate collapse, the freeing of records, reaping, and the crash
and return of a steward (R360, R361, R378, R381, R392). An event whose condition does not hold leaves the state as it is
(log 18). -/

namespace Sys2Proof.Machine

/-! ### Replay (R378, R381) -/

/-- The stream of a trap record (R380). -/
def TrapRec.stream (r : TrapRec) : Stream := if bit r.bits 414 then .secondary else .primary

/-- Remove the first record that satisfies `p`; its place in the ring is free. -/
def CoreState.freeRecord (x : CoreState) (p : TrapRec → Bool) : CoreState :=
  match x.queues.trapq.findIdx? p with
  | some i => { x with queues.trapq := x.queues.trapq.eraseIdx i, queues.trapHead := x.queues.trapHead + 1 }
  | none => x

/-- What a stream of a core waits for: the cause of its replayable trap, and the address. -/
def CoreState.replayOf (x : CoreState) (st : Stream) : Option (BitVec 8 × Dword) :=
  (x.replay.find? (fun r => r.1 = st)).map (·.2)

/-- The handler frees the record of a stream's replayable trap and replays its bundle. -/
def Mach.replayNow (m : Mach) (c : Nat) (st : Stream) : Mach :=
  m.modCore c (fun x =>
    { x.freeRecord (fun r => r.replay && decide (r.stream = st)) with replay := x.replay.filter (fun r => r.1 ≠ st) })

/-- A collapse is under way in the 2 MiB region of an address (R361). -/
def Mach.collapsing (m : Mach) (space : BitVec 36) (va : Nat) : Option Collapse :=
  m.fw.collapses.find? (fun k => k.space = space && decide (k.group / 32 = va / 2 ^ 21))

/-- A handler replays a bundle: the steward, which must be up, for a fetch miss once no shootdown is outstanding, F2 for a
read-duplicate write once no collapse of its region is under way. -/
def replays (a : EventArgs) (m : Mach) : Mach :=
  let x := m.core a.agent
  match x.replayOf a.stream with
  | none => m
  | some r =>
    if r.1 = 4 && (!((m.die (dieOf a.agent)).steward) || m.shooting) then m
    else if r.1 = 6 && (m.collapsing x.ctl.space (r.2.toNat % 2 ^ 57)).isSome then m
    else m.replayNow a.agent a.stream

/-- Code lines leave every instruction cache (R359). -/
def Mach.dropLines (m : Mach) (cells : List Nat) : Mach := m.dropCode ((cells.map (· / 256)).eraseDups)

/-- The steward pages in code for a fetch miss (R360): the bytes of the page and its table entries; the page leaves every
instruction cache, and a shootdown follows (R359). When no shootdown is outstanding and there is nothing to write the bundle is
replayed. For a malformed entry F3 ends the launch instead. -/
def pagesIn (a : EventArgs) (m : Mach) : Mach :=
  let c := a.agent
  let x := m.core c
  match x.replayOf .primary with
  | none => m
  | some r =>
    if r.1 ≠ 4 || !((m.die (dieOf c)).steward) then m
    else match m.walk x.ctl.space x.front.pc, m.launch x.reg.launch with
      | .malformed at_, some l =>
        ({ m with fw.malformed := at_ :: m.fw.malformed }.replayNow c .primary).faultEnd l (m.registryOf c)
      | .malformed at_, none => { m with fw.malformed := at_ :: m.fw.malformed }
      | _, _ =>
        if a.cells ≠ [] || a.tables ≠ [] then
          (((m.performGlobal a.cells).writeTables a.tables).dropLines (a.cells.map (·.1))).shootDown (m.awayOf x.ctl.space)
        else if m.shooting then m
        else m.replayNow c .primary

/-! ### Read-duplicate collapse (R361, R362) -/

/-- A table entry in memory. -/
def tableEntry (mem : Mem) (at_ : Nat) : BitVec 64 := BitVec.ofNat 64 (Mem.load mem at_ 8)

/-- The place of the level-1 entry of an address in a tree, where the upper levels lead to one. -/
def levelOne (mem : Mem) (root va : Nat) : Option Nat :=
  let e4 := tableEntry mem (root + 8 * (va / 2 ^ 48 % 512))
  let e3 := tableEntry mem (ptePa e4 + 8 * (va / 2 ^ 39 % 512))
  let e2 := tableEntry mem (ptePa e3 + 8 * (va / 2 ^ 30 % 512))
  if pteValid e4 && pteValid e3 && pteValid e2 && !(pteLeaf e2) then some (ptePa e2 + 8 * (va / 2 ^ 21 % 512)) else none

/-- A 2 MiB leaf as a level-0 table at `table`: 32 groups of four, each pointing at the same copy (R361 step 1). -/
def splitLeaf (leaf : BitVec 64) (at_ table : Nat) : List (Nat × BitVec 64) :=
  ((List.range 128).map (fun i => (table + 8 * i, (leaf ||| 4) + BitVec.ofNat 64 (0x4000 * i))))
    ++ [(at_, BitVec.ofNat 64 (table + 1))]

/-- Step 1 in one tree: nothing where the leaf is already split. -/
def Mach.splitTree (m : Mach) (root table va : Nat) : Mach :=
  match levelOne m.mem root va with
  | some at_ =>
    let e := tableEntry m.mem at_
    if pteValid e && pteLeaf e && pteRdup e then m.writeTables (splitLeaf e at_ table) else m
  | none => m

/-- The four entries of the group that holds an address. -/
def groupEntries (mem : Mem) (root va : Nat) : Option Nat :=
  (levelOne mem root va).bind (fun at_ =>
    let e := tableEntry mem at_
    if pteValid e && !(pteLeaf e) then some (ptePa e + 8 * (va / 2 ^ 14 % 128 / 4 * 4)) else none)

/-- Step 2 in one tree: the group points at the owner's copy and RDUP is clear. -/
def Mach.collapseTree (m : Mach) (root va : Nat) (owner : List (BitVec 64)) : Mach :=
  match groupEntries m.mem root va with
  | some at_ => m.writeTables (owner.mapIdx (fun i e => (at_ + 8 * i, e)))
  | none => m

/-- The physical ranges of a group's copies in some trees, less the owner's. -/
def Mach.copiesOf (m : Mach) (trees : List Nat) (va : Nat) (owner : List (BitVec 64)) : List (Nat × Nat) :=
  ((trees.filterMap (fun t => (groupEntries m.mem t va).map (fun at_ => (ptePa (tableEntry m.mem at_), 0x10000)))).eraseDups).filter
    (fun r => !(owner.any (fun e => ptePa e = r.1)))

/-- Steps 1 to 3 of a collapse (R361): the leaf is split in every tree, with a new table for each at `tables`; the group points at
the copy of the owner, the tree at `root`; and the shootdown begins. The copies are freed when it has been acknowledged. -/
def Mach.startCollapse (m : Mach) (space : BitVec 36) (root va : Nat) (tables : List (BitVec 64)) : Mach :=
  let trees := (m.spaceRec space).roots.map (·.2)
  let m := trees.zipIdx.foldl (fun m t => m.splitTree t.1 ((tables[t.2]?).getD 0).toNat va) m
  match groupEntries m.mem root va with
  | none => m
  | some at_ =>
    let owner := (List.range 4).map (fun i => setBit (tableEntry m.mem (at_ + 8 * i)) 6 false)
    let copies := m.copiesOf trees va owner
    let m := trees.foldl (fun m t => m.collapseTree t va owner) m
    let k : Collapse := { space := space, group := va / 65536, copies := copies }
    { m with fw.collapses := m.fw.collapses ++ [k] }.shootDown (m.awayOf space)

/-- The last step but the replay: the shootdown has been acknowledged everywhere, and the other copies are freed. -/
def Mach.endCollapse (m : Mach) (k : Collapse) : Mach :=
  { m with fw.collapses := m.fw.collapses.filter (fun o => o ≠ k), fw.freed := m.fw.freed ++ k.copies }

/-- A group is still read-duplicate. -/
def Mach.duplicated (m : Mach) (space : BitVec 36) (va : Nat) : Bool :=
  match m.walk space (canonicalVa va) with
  | .leaf e _ => pteRdup e
  | _ => false

/-- A fault on a read-duplicate group of a space moves on (R361): its collapse begins in the tree of the owner, or, when every die
has acknowledged its shootdown, ends; one collapse at a time for each 2 MiB region. -/
def Mach.collapse (m : Mach) (space : BitVec 36) (root va : Nat) (tables : List (BitVec 64)) : Mach :=
  match m.collapsing space va with
  | some k => if m.shooting then m else m.endCollapse k
  | none => if m.duplicated space va then m.startCollapse space root va tables else m

/-- F2 deals with a store of a core that met a read-duplicate page (R361); a fault whose group is writable, with no collapse under
way in its region, is replayed. Under the flag the fault arose in module `part`, under the space of `word` at the address of
`item`. -/
def collapses (a : EventArgs) (m : Mach) : Mach :=
  let c := a.agent
  let x := m.core c
  if a.flag then
    let space := a.word.setWidth 36
    match Sparse.find (m.spaceRec space).roots a.part with
    | some root => m.collapse space root (a.item % 2 ^ 57) a.addrs
    | none => m
  else match x.replayOf a.stream, m.root x.ctl.space with
  | some r, some root =>
    if r.1 ≠ 6 then m
    else
      let va := r.2.toNat % 2 ^ 57
      let m := m.collapse x.ctl.space root va a.addrs
      if m.duplicated x.ctl.space va || (m.collapsing x.ctl.space va).isSome then m else m.replayNow c a.stream
  | _, _ => m

/-! ### Records and reaping (R381) -/

/-- The steward frees the first record that is neither fatal nor of a bundle that waits for its replay. -/
def freesRecord (a : EventArgs) (m : Mach) : Mach :=
  if (m.die (dieOf a.agent)).steward then m.modCore a.agent (fun x => x.freeRecord (fun r => !r.fatal && !r.replay)) else m

/-- F3 reaps a context that met a fatal trap or exhausted its queue: its launch has ended, its records are freed, and its core is
idle. -/
def reaps (a : EventArgs) (m : Mach) : Mach :=
  let c := a.agent
  let x := m.core c
  if x.reg.status ≠ .faulted && x.reg.status ≠ .exhausted then m
  else
    let m := match m.launch x.reg.launch with
      | some l => if l.alive then m.faultEnd l (m.registryOf c) else m
      | none => m
    m.modCore c (fun x =>
      { x with
        reg.status := .idle,
        queues.trapHead := x.queues.trapHead + x.queues.trapq.length,
        queues.trapq := [],
        replay := [] })

/-! ### The steward (R392) -/

/-- The cores of a die, listed. -/
def Mach.mapDie (m : Mach) (d : Nat) (f : CoreState → CoreState) : Mach :=
  m.mapCores (fun k x => if dieOf k = d then f x else x)

/-- The resident kernel of a steward crashes: the cores of the die that run are frozen. -/
def stewardCrashes (a : EventArgs) (m : Mach) : Mach :=
  (m.modDie a.agent (fun d => { d with steward := false })).mapDie a.agent (fun x =>
    if x.running then { x with reg.status := .frozen } else x)

/-- The steward is back: it sets the service entry, frees the records, and the frozen cores run on. -/
def readopts (a : EventArgs) (m : Mach) : Mach :=
  if (m.die a.agent).steward then m
  else
    let m := (m.performGlobal a.serviceCells).modDie a.agent (fun d => { d with steward := true, service := a.word })
    let free := fun (x : CoreState) =>
      let kept := x.queues.trapq.filter (fun (r : TrapRec) => r.fatal || r.replay)
      let runs : Bool := match m.launch x.reg.launch with
        | some l => l.status = .running
        | none => false
      { x with
        reg.status := if x.reg.status = .frozen && runs then .running else x.reg.status,
        queues.trapHead := x.queues.trapHead + (x.queues.trapq.length - kept.length),
        queues.trapq := kept }
    m.mapDie a.agent free

/-- A die that has not been re-adopted in time: F3 pre-empts its launches. -/
def readoptionLate (a : EventArgs) (m : Mach) : Mach :=
  if (m.die a.agent).steward then m
  else (m.fw.launches.filter (fun l => l.cores.any (fun e => dieOf e.core = a.agent))).foldl (fun m l => m.stopLaunch l.number) m

/-! ### Events -/

/-- TRAP_REPLAY (R378) -/
def execTrapReplay (s : State) : Host.Outcome State Fault Refusal := eventStep replays s
/-- FETCH_MISS_PAGING (R360) -/
def execFetchMissPaging (s : State) : Host.Outcome State Fault Refusal := eventStep pagesIn s
/-- READ_DUPLICATE_COLLAPSE (R361) -/
def execReadDuplicateCollapse (s : State) : Host.Outcome State Fault Refusal := eventStep collapses s
/-- TRAP_RECORD_FREE (R381) -/
def execTrapRecordFree (s : State) : Host.Outcome State Fault Refusal := eventStep freesRecord s
/-- REAP (R381) -/
def execReap (s : State) : Host.Outcome State Fault Refusal := eventStep reaps s
/-- STEWARD_CRASH (R392) -/
def execStewardCrash (s : State) : Host.Outcome State Fault Refusal := eventStep stewardCrashes s
/-- WARM_READOPTION (R392) -/
def execWarmReadoption (s : State) : Host.Outcome State Fault Refusal := eventStep readopts s
/-- READOPTION_TIMEOUT (R392) -/
def execReadoptionTimeout (s : State) : Host.Outcome State Fault Refusal := eventStep readoptionLate s

end Sys2Proof.Machine
end

