-- ==== Sys2Proof/Machine/Loading.lean ====
section
/-! DEFINITION. F0: the launch record (R408 to R410), the linked .cyo (R227 to R239), admission (R253, R365, R411, R422) and the
placing of sections. Addresses in records are cells of HBM under KEYID 0 (log 22). -/

namespace Sys2Proof.Machine

/-! ### The launch record (R408 to R410) -/

/-- Field access in a structure at a cell. -/
def at1 (mem : Mem) (a off : Nat) : Nat := Mem.load mem (a + off) 1
def at2 (mem : Mem) (a off : Nat) : Nat := Mem.load mem (a + off) 2
def at4 (mem : Mem) (a off : Nat) : Nat := Mem.load mem (a + off) 4
def at8 (mem : Mem) (a off : Nat) : Nat := Mem.load mem (a + off) 8

/-- The checks of the header. -/
def headerChecks (mem : Mem) (r : Nat) : List (Nat × Bool) :=
  let b := at1 mem r
  let h := at2 mem r
  [(0, decide (b 0 ≠ 0x4C)), (1, decide (b 1 ≠ 0x4E)), (2, decide (b 2 ≠ 0x43)), (3, decide (b 3 ≠ 0x48)),
    (4, decide (b 4 ≠ 1)), (5, decide (b 5 ≠ 0)), (6, decide (3 < b 6))]
  ++ zeroBytes mem r 7 1 ++ [(20, decide (15 < b 20))] ++ zeroBytes mem r 21 3 ++ [(24, decide (63 < b 24))]
  ++ zeroBytes mem r 25 3
  ++ [(28, decide (h 28 = 0) || decide (1024 < h 28)), (30, decide (256 < h 30)), (34, decide (h 34 = 0) || decide (576 < h 34))]
  ++ zeroBytes mem r 36 4 ++ [(114, decide (2 < b 114))] ++ zeroBytes mem r 115 1
  ++ (List.range 8).flatMap (fun i => zeroBytes mem r (128 + 8 * i + 1) 3) ++ zeroBytes mem r 192 64

/-- The cell offsets of the core and generator entries. -/
def coreOff (i : Nat) : Nat := 256 + 128 * i
def genOff (nc i : Nat) : Nat := 256 + 128 * nc + 32 * i

/-- The checks of the entries. -/
def entryChecks (mem : Mem) (r : Nat) : List (Nat × Bool) :=
  let nc := at2 mem r 28
  (List.range nc).flatMap (fun i =>
    let o := coreOff i
    [(o + 2, decide (1 < at1 mem r (o + 2))), (o + 3, decide (31 < at1 mem r (o + 3))),
      (o + 8, decide (at1 mem r (o + 2) = 1) && decide (at8 mem r (o + 8) ≠ 0))] ++ zeroBytes mem r (o + 88) 40)
  ++ (List.range (at2 mem r 30)).flatMap (fun i =>
    let o := genOff nc i
    let grants := BitVec.ofNat 8 (at1 mem r (o + 2))
    let binds := BitVec.ofNat 8 (at1 mem r (o + 3))
    zeroBytes mem r (o + 1) 1 ++ [(o + 3, decide (binds &&& ~~~grants ≠ 0))] ++ zeroBytes mem r (o + 4) 4
      ++ zeroBytes mem r (o + 24) 8)

/-- The first bad byte of a record. -/
def recordBad (mem : Mem) (r : Nat) : Option Nat :=
  match firstBad (headerChecks mem r) with
  | some o => some o
  | none => firstBad (entryChecks mem r)

/-- A core entry (R409). -/
def readCore (mem : Mem) (r i : Nat) : LaunchCore :=
  let o := coreOff i
  { core := at2 mem r o,
    fed := at1 mem r (o + 2) = 1,
    flags := BitVec.ofNat 5 (at1 mem r (o + 3)),
    dmem := BitVec.ofNat 32 (at4 mem r (o + 4)) &&& 0xFFFF07FF,
    start := BitVec.ofNat 64 (at8 mem r (o + 8)),
    g2 := BitVec.ofNat 64 (at8 mem r (o + 16)),
    args := (List.range 8).map (fun k => BitVec.ofNat 64 (at8 mem r (o + 24 + 8 * k))) }

/-- A generator entry (R410). -/
def readGen (mem : Mem) (r nc i : Nat) : LaunchGen :=
  let o := genOff nc i
  { comp := at1 mem r o,
    grants := BitVec.ofNat 8 (at1 mem r (o + 2)),
    binds := BitVec.ofNat 8 (at1 mem r (o + 3)),
    arg := BitVec.ofNat 64 (at8 mem r (o + 8)),
    sp := BitVec.ofNat 64 (at8 mem r (o + 16)) }

/-- The namespace grants of a record: port, NSID and the block size with which F4 can admit the namespace, 0 where it cannot;
`blocks` holds log2 of that size for each of the eight places (R411, R414). -/
def readGrants (mem : Mem) (r : Nat) (blocks : List (BitVec 8)) : List (Nat × Nat × Nat) :=
  (List.range 8).filterMap (fun i =>
    let o := 128 + 8 * i
    if at1 mem r o / 128 % 2 = 1 then
      let k := ((blocks[i]?).getD 0).toNat
      some (at1 mem r o % 8, at4 mem r (o + 4), if k = 9 ∨ k = 12 then 2 ^ k else 0)
    else none)

/-- The launch that a record asks for, not yet numbered. -/
def readLaunch (mem : Mem) (r ring : Nat) (seq : BitVec 16) (blocks : List (BitVec 8)) : Launch :=
  let nc := at2 mem r 28
  let cores := (List.range nc).map (readCore mem r)
  let marked := BitVec.ofNat 64 (at8 mem r 120)
  { number := 0,
    ring := ring,
    seq := seq,
    priority := at1 mem r 6,
    space := BitVec.ofNat 36 (at8 mem r 16),
    keyid := BitVec.ofNat 6 (at1 mem r 24),
    completion := at8 mem r 40,
    deps := (List.range 4).map (fun i => (at8 mem r (48 + 16 * i), at8 mem r (56 + 16 * i))),
    lease := if at2 mem r 112 = 0 then 256 else BitVec.ofNat 16 (at2 mem r 112),
    frm := BitVec.ofNat 2 (at1 mem r 114),
    seed := BitVec.ofNat 32 (at4 mem r 116),
    claims := ofMask (fun d => bit marked d && cores.any (fun e => dieOf e.core = d)),
    grants := readGrants mem r blocks,
    domain := at2 mem r 32,
    modules := at2 mem r 34,
    cores := cores,
    gens := (List.range (at2 mem r 30)).map (readGen mem r nc) }

/-! ### The .cyo (R227 to R239) -/

/-- A section-table entry (R230). -/
structure CyoPart where
  index : Nat
  kind : Nat
  space : Nat
  align : Nat
  spare : Nat
  off : Nat
  size : Nat
  addr : Nat
  link : Nat
  deriving DecidableEq, Repr

/-- The section table of the file at a cell. -/
def cyoParts (mem : Mem) (c : Nat) : List CyoPart :=
  (List.range (at4 mem c 12)).map (fun i =>
    let s := c + at8 mem c 16 + 40 * i
    { index := i, kind := at1 mem s 4, space := at1 mem s 5, align := at1 mem s 6,
      spare := at1 mem s 7 + at4 mem s 36, off := at8 mem s 8, size := at8 mem s 16, addr := at8 mem s 24, link := at4 mem s 32 })

/-- The sizes of the local spaces that a type-3 section may name (R230, R264). -/
def localSize (space : Nat) : Nat :=
  if space = 1 then 0x300000 else if space = 2 then 0x400000 else if space = 3 then 0x2000000 else 0

/-- The bytes of a section. -/
def CyoPart.bytes (p : CyoPart) (mem : Mem) (c : Nat) : List (BitVec 8) := Mem.bytes mem (c + p.off) p.size

/-- A symbol: its section, and its value (R233). -/
def cyoSymbol (mem : Mem) (c i : Nat) : Nat × Nat :=
  let s := c + at8 mem c 24 + 24 * i
  (at2 mem s 4, at8 mem s 8)

/-- The address of a symbol (R233, R234): an absolute value; an offset from where a section of global memory is placed, at
`addrs`; or one from the address that a type-3 or type-4 section gives. None where section 0 makes it undefined, or its section
has no address. -/
def symbolAddress (mem : Mem) (c : Nat) (addrs : List (BitVec 64)) (i : Nat) : Option Nat :=
  let s := cyoSymbol mem c i
  if s.1 = 0xFFFF then some s.2
  else if s.1 = 0 then none
  else match (cyoParts mem c)[s.1]? with
    | some p =>
      if p.kind = 3 ∨ p.kind = 4 then some ((p.addr + s.2) % 2 ^ 64)
      else if p.kind ≤ 5 then some ((((addrs[s.1]?).getD 0).toNat + s.2) % 2 ^ 64)
      else none
    | none => none

/-- A relocation that F0 applies: the section, the offset, the size in bytes and the value (R234); `none` where it is in error. -/
def cyoFix (mem : Mem) (c : Nat) (addrs : List (BitVec 64)) (target r : Nat) : Option (Nat × Nat × Nat × Nat) :=
  let kind := at1 mem r 20
  if at1 mem r 21 ≠ 0 ∨ at2 mem r 22 ≠ 0 then none
  else match symbolAddress mem c addrs (at4 mem r 16) with
    | none => none
    | some at_ =>
      let v := (at_ + at8 mem r 8) % 2 ^ 64
      if kind = 1 then some (target, at8 mem r 0, 8, v)
      else if kind = 2 ∧ v < 2 ^ 32 then some (target, at8 mem r 0, 4, v)
      else none

/-- The relocations of a file. -/
def cyoFixes (mem : Mem) (c : Nat) (addrs : List (BitVec 64)) : List (Option (Nat × Nat × Nat × Nat)) :=
  ((cyoParts mem c).filter (fun p => p.kind = 8)).flatMap (fun p =>
    (List.range (p.size / 24)).map (fun i => cyoFix mem c addrs p.link (c + p.off + 24 * i)))

/-- Write bytes over a list, from an offset on. -/
def overwrite (l : List (BitVec 8)) (off : Nat) (bytes : List (BitVec 8)) : List (BitVec 8) :=
  bytes.zipIdx.foldl (fun l b => l.set (off + b.2) b.1) l

/-- The bytes of a section with its relocations applied. -/
def CyoPart.fixed (p : CyoPart) (mem : Mem) (c : Nat) (addrs : List (BitVec 64)) : List (BitVec 8) :=
  ((cyoFixes mem c addrs).filterMap id).foldl (fun l f =>
    if f.1 = p.index then overwrite l f.2.1 (toBytes f.2.2.1 f.2.2.2) else l) (p.bytes mem c)

/-- A doubleword of a list of bytes. -/
def dwordAt (l : List (BitVec 8)) (off : Nat) : Nat := ofBytes ((l.drop off).take 8)

/-- The entries that a type-5 section asks for (R239): size and flags. -/
def CyoPart.handles (p : CyoPart) (mem : Mem) (c : Nat) (addrs : List (BitVec 64)) : List (Nat × Nat) :=
  let l := p.fixed mem c addrs
  (List.range (p.size / 32)).map (fun i => (dwordAt l (32 * i), dwordAt l (32 * i + 16)))

/-- The template records of a type-6 section: those that come before the site records they count (R236). -/
def templateRecords (mem : Mem) (s size : Nat) : Nat → Nat → Nat → Nat
  | 0, i, _ => i
  | fuel + 1, i, sites =>
    if size ≤ 16 * i + 8 * sites then i else templateRecords mem s size fuel (i + 1) (sites + at2 mem (s + 16 * i) 4)

/-- The reserved bytes of template records are not all zero (R227, R236). -/
def CyoPart.templatesBad (p : CyoPart) (mem : Mem) (c : Nat) : Bool :=
  let s := c + p.off
  (List.range (templateRecords mem s p.size (p.size / 16 + 1) 0 0)).any (fun i =>
    decide (at2 mem (s + 16 * i) 6 ≠ 0) || decide (at4 mem (s + 16 * i) 12 ≠ 0))

/-- A section breaks a rule of R230, R231, R236, R238 or R239, or has a reserved field that is not zero. -/
def CyoPart.bad (p : CyoPart) (mem : Mem) (c : Nat) (addrs : List (BitVec 64)) : Bool :=
  decide (p.kind = 0) || decide (8 < p.kind) || decide (12 < p.align) || decide (p.spare ≠ 0)
  || (decide (p.kind ≠ 3) && decide (p.space ≠ 0))
  || (decide (p.kind ≠ 3) && decide (p.kind ≠ 4) && decide (p.addr ≠ 0))
  || (decide (p.kind < 6) && decide (p.link ≠ 0))
  || (decide (p.kind = 1) && (decide (p.size % 32 ≠ 0) || decide (p.align < 5)))
  || (decide (p.kind = 3) && (decide (p.addr % 16 ≠ 0) || decide (p.size % 16 ≠ 0) || decide (localSize p.space < p.addr + p.size)
      || decide (localSize p.space = 0)))
  || (decide (p.kind = 4) && decide (0x10000 < p.addr + p.size))
  || (decide (p.kind = 5) && (decide (p.size % 32 ≠ 0) || decide (p.align ≠ 5)
      || (p.handles mem c addrs).any (fun h => decide (h.1 = 0) || decide (3 < h.2))))
  || (decide (p.kind = 6) && p.templatesBad mem c)

/-- Two constant-store sections overlap. -/
def constsOverlap (l : List CyoPart) : Bool :=
  let k := l.filter (fun p => p.kind = 4)
  k.any (fun p => k.any (fun q => decide (p.index < q.index) && decide (p.addr < q.addr + q.size) && decide (q.addr < p.addr + p.size)))

/-- The generator entry stands at offset 0 of a type-2 section (R231), and is there when the launch names a generator. -/
def gentryBad (mem : Mem) (c : Nat) (gens : Bool) : Bool :=
  let g := at4 mem c 52
  if g = 0xFFFFFFFF then gens
  else
    let s := cyoSymbol mem c g
    decide (s.2 ≠ 0) || decide (s.1 = 0) || !((cyoParts mem c).any (fun p => p.index = s.1 && p.kind = 2))

/-- F0 refuses the file (R227, R229, R231). -/
def cyoBad (mem : Mem) (c : Nat) (addrs : List (BitVec 64)) (gens : Bool) : Bool :=
  let parts := cyoParts mem c
  decide (at4 mem c 0 ≠ 0x4F59437F) || decide (at2 mem c 4 ≠ 1) || decide (at2 mem c 6 ≠ 64)
  || decide (at1 mem c 8 = 0) || decide (2 < at1 mem c 8) || decide (3 < at1 mem c 9) || decide (at1 mem c 10 ≠ 1)
  || decide (at1 mem c 11 ≠ 0) || decide (at8 mem c 56 ≠ 0)
  || parts.any (fun p => p.bad mem c addrs) || constsOverlap parts || gentryBad mem c gens
  || (cyoFixes mem c addrs).any (fun f => f = none)

/-- A handle entry as F0 completes it (R238, R239). -/
def handleEntry (base size : Nat) (flags : Dword) (space : BitVec 36) (keyid : BitVec 6) : List (BitVec 8) :=
  let b := BitVec.ofNat 64 base
  let l := BitVec.ofNat 64 (base + size - 1)
  toBytes 8 b.toNat ++ toBytes 8 l.toNat ++ toBytes 8 flags.toNat ++ toBytes 8 (Config.handleSeal b l flags space keyid).toNat

/-- The bytes of a handle table; `bases` are the buffers that F0 has allocated for its entries. -/
def CyoPart.handleTable (p : CyoPart) (mem : Mem) (c : Nat) (addrs : List (BitVec 64)) (bases : List Nat) (space : BitVec 36)
    (keyid : BitVec 6) : List (BitVec 8) :=
  ((p.handles mem c addrs).zipIdx.map (fun h =>
    handleEntry ((bases[h.2]?).getD 0) h.1.1 (BitVec.ofNat 64 h.1.2) space keyid)).flatten

/-- The images of the local spaces and of the constant store (R232), in the order of the section table. -/
def cyoImages (mem : Mem) (c : Nat) (addrs : List (BitVec 64)) : List Image :=
  ((cyoParts mem c).filter (fun p => p.kind = 3 || p.kind = 4)).map (fun p =>
    { space := if p.kind = 4 then 4 else p.space, addr := p.addr, bytes := p.fixed mem c addrs })

/-- Every page of a range of a space has a leaf with some property. -/
def Mach.mapped (m : Mach) (space : BitVec 36) (va n : Nat) (ok : BitVec 64 → Bool) : Bool :=
  (List.range ((va % 16384 + n + 16383) / 16384)).all (fun i => match m.walk space (canonicalVa (va / 16384 * 16384 + 16384 * i)) with
    | .leaf e _ => ok e
    | _ => false)

/-- The sections that F0 places in global memory. -/
def placedParts (mem : Mem) (c : Nat) : List CyoPart := (cyoParts mem c).filter (fun p => p.kind = 1 || p.kind = 2 || p.kind = 5)

/-- The handle entries of the sections before one. -/
def entriesBefore (mem : Mem) (c : Nat) (p : CyoPart) : Nat :=
  (((placedParts mem c).filter (fun q => q.kind = 5 && decide (q.index < p.index))).map (fun q => q.size / 32)).sum

/-- The ranges of a list do not meet one another. -/
def apartRanges : List (Nat × Nat) → Bool
  | [] => true
  | a :: r => r.all (fun b => decide (a.1 + a.2 ≤ b.1) || decide (b.1 + b.2 ≤ a.1)) && apartRanges r

/-- The ranges of a space that F0 allocates: the sections that it places, and a buffer for each handle entry (R239). -/
def placedRanges (mem : Mem) (c : Nat) (a : EventArgs) : List (Nat × Nat) :=
  let l := placedParts mem c
  let sizes := (l.filter (fun p => p.kind = 5)).flatMap (fun p => (p.handles mem c a.addrs).map (·.1))
  (l.map (fun p => (((a.addrs[p.index]?).getD 0).toNat, p.size))).filter (fun r => r.2 ≠ 0)
    ++ sizes.mapIdx (fun i n => (((a.ranges[i]?).getD (0, 0)).1, n))

/-- The places that F0 and F2 have chosen are such as R230, R238 and R239 give: sections aligned, bundles on pages of kind code,
generator code on writable pages of kind memory, handle tables on pages of kind memory, and buffers on pages of kind memory that are
not read-duplicate, carry the launch's key, and are shadowable where the entry says so; no two of them share a byte. -/
def Mach.placesRight (m : Mach) (c : Nat) (a : EventArgs) (l : Launch) : Bool :=
  apartRanges (placedRanges m.mem c a) && (placedParts m.mem c).all (fun p =>
    let va := ((a.addrs[p.index]?).getD 0).toNat
    let kind := fun (e : BitVec 64) =>
      if p.kind = 1 then decide (pteKind e = 2) else decide (pteKind e = 0) && (p.kind = 5 || pteWritable e)
    let buffer := fun (h : (Nat × Nat) × Nat) =>
      let base := (((a.ranges.drop (entriesBefore m.mem c p))[h.2]?).getD (0, 0)).1
      m.mapped l.space base h.1.1 (fun e =>
        decide (pteKind e = 0) && !(pteRdup e) && decide (pteKey e = l.keyid) && (decide (h.1.2 % 2 = 0) || pteShadow e))
    decide (va % 2 ^ p.align = 0) && m.mapped l.space va p.size kind
      && (p.kind ≠ 5 || (p.handles m.mem c a.addrs).zipIdx.all buffer))

/-- F0 places the sections of global memory at `addrs`, with handle buffers at `ranges`, on the pages that F2 has mapped. -/
def Mach.placeParts (m : Mach) (c : Nat) (a : EventArgs) (l : Launch) : Mach :=
  let cells := (placedParts m.mem c).flatMap (fun p =>
    let va := ((a.addrs[p.index]?).getD 0).toNat
    m.virtualCells l.space va (if p.kind = 5 then
        p.handleTable m.mem c a.addrs ((a.ranges.drop (entriesBefore m.mem c p)).map (·.1)) l.space l.keyid
      else p.fixed m.mem c a.addrs))
  (m.performGlobal cells).dropLines (cells.map (·.1))

/-! ### Admission (R253) -/

/-- A core is fed, and each binding names a core of the launch. -/
def bindingsBad (l : Launch) : Bool :=
  let named := fun (c : Nat) => l.cores.any (fun e => e.core = c)
  let fed := fun (c : Nat) => l.cores.any (fun e => e.core = c && e.fed)
  let binds := l.gens.flatMap (fun g => ((List.range 8).filter (fun b => bit g.binds b)).map (fun b => (4 * g.comp + b / 2, b % 2)))
  l.cores.any (fun e => e.fed && !(binds.contains (e.core, 0)))
    || binds.any (fun b => !(named b.1)) || binds.any (fun b => decide (b.2 = 0) && !(fed b.1))
    || decide (binds.eraseDups.length ≠ binds.length)

/-- The cores of each die group agree on DMEM[10:8] and hold DMEM[10:8] + 1 dies. -/
def groupsBad (l : Launch) : Bool :=
  let grouped := l.cores.filter (fun e => bit e.dmem 2)
  grouped.any (fun e =>
    let g := grouped.filter (fun f => field f.dmem 5 3 = field e.dmem 5 3)
    g.any (fun f => field f.dmem 8 3 ≠ field e.dmem 8 3)
      || decide (((g.map (fun f => dieOf f.core)).eraseDups).length ≠ field e.dmem 8 3 + 1))

/-- The case of R253, R411 or R422 that refuses a launch: the sub-reason of R404. `torn` tells that the other modules of its job
disagree with it on the module count, or that one of them holds no launch. -/
def Mach.refusal (m : Mach) (l : Launch) (torn : Bool) : Option Nat :=
  let nums := l.cores.map (·.core)
  if nums.eraseDups.length ≠ nums.length ∨ nums.any (fun c => 1024 ≤ c) then some 1
  else if bindingsBad l then some 2
  else if groupsBad l then some 3
  else if (torn && decide (l.modules ≠ 1)) || m.fw.launches.any (fun k => k.alive && k.domain = l.domain && decide (k.modules ≠ l.modules))
    then some 4
  else if l.cores.any (fun e => (List.range 5).any (fun i => bit e.flags i && !(bit e.dmem i))) then some 5
  else if l.dies.any (fun d => match (m.die d).claim with
      | some n => match m.launch n with
        | some k => decide (l.priority ≤ k.priority)
        | none => false
      | none => false) then some 6
  else if l.grants.any (fun g => g.2.2 = 0) ∨
      (List.range 8).any (fun p => 64 < ((((m.fw.namespaces ++ l.grants).filter (fun g => g.1 = p)).map (fun g => g.2.1)).eraseDups).length)
    then some 8
  else if l.cores.any (fun e => (m.die (dieOf e.core)).stage = 0) then some 9
  else none

/-- The member counts of the domains of a launch in this module (R243). -/
def Launch.memberCounts (l : Launch) : Sparse Nat :=
  l.cores.foldl (fun a e => (List.range 5).foldl (fun a i =>
    if bit e.dmem i then
      let key := domainKey (i + 1) (domainUnit { ctl := { dmem := e.dmem } } e.core (i + 1))
      Sparse.set 0 a key (Sparse.get 0 a key + 1)
    else a) a) []

/-- The next launch number that no admitted launch holds (R405). -/
def pickNumber (used : List (BitVec 32)) : Nat → BitVec 32 → BitVec 32
  | 0, n => n
  | fuel + 1, n => if n = 0 || used.contains n then pickNumber used fuel (n + 1) else n

/-- F0 admits a launch (R405): it has a number, its sections are placed, and it waits; dependences are evaluated. Places that
break a rule are none that F0 chooses: nothing changes. -/
def Mach.enrol (m : Mach) (n c : Nat) (a : EventArgs) (l : Launch) : Mach :=
  let used := (m.fw.launches.filter Launch.alive).map (·.number)
  let num := pickNumber used (used.length + 1) m.fw.nextLaunch
  let was := m
  let m := (m.ensureSpace l.space a.word.toNat).writeTables a.tables
  let first := (cyoParts m.mem c).find? (fun p => p.kind = 5)
  let l := { l with
    number := num,
    images := cyoImages m.mem c a.addrs,
    gentry := if at4 m.mem c 52 = 0xFFFFFFFF then 0 else BitVec.ofNat 64 ((symbolAddress m.mem c a.addrs (at4 m.mem c 52)).getD 0),
    handles := match first with
      | some p => (a.addrs[p.index]?).getD 0
      | none => 0,
    lattab := BitVec.ofNat 2 (at1 m.mem c 8),
    cover := BitVec.ofNat 2 (at1 m.mem c 9),
    members := l.memberCounts }
  if !(m.placesRight c a l) then was
  else
  let m := m.placeParts c a l
  let m := { m with
    fw.launches := m.fw.launches.filter (fun (k : Launch) => k.number ≠ num) ++ [l],
    fw.nextLaunch := num + 1,
    fw.namespaces := (m.fw.namespaces ++ l.grants).eraseDups }
  (m.answer n 0 0 num 0).evaluate

/-- A launch entry (R253, R404, R408): refused as malformed, for its .cyo, for a space that is torn down, or by admission; else
admitted. `addrs` are the addresses of the sections, `ranges` the handle buffers, `tables` the table entries and `word` the root,
as F0 and F2 allocate them; `bytes` the block sizes of the granted namespaces; the flag tells what the other modules of its job
hold (R253). -/
def launchEntry (a : EventArgs) (m : Mach) : Mach :=
  let n := a.agent
  m.takeEntry n 1 (fun e =>
    let r := at8 m.mem e 8
    let c := at8 m.mem r 8
    match recordBad m.mem r with
    | some o => m.answer n 2 0 0 o
    | none =>
      let l := readLaunch m.mem r n (m.ring n).seq a.bytes
      if cyoBad m.mem c a.addrs (l.gens ≠ []) then m.answer n 3 0 0 0
      else if m.staleSpace l.space || (m.spaceRec l.space).closing.isSome then m.answer n 8 0 0 0
      else match m.refusal l a.flag with
        | some k => m.answer n 4 k 0 0
        | none => m.enrol n c a l)

/-- LAUNCH (R253) -/
def execLaunch (s : State) : Host.Outcome State Fault Refusal := eventStep launchEntry s

end Sys2Proof.Machine
end

