-- ==== Sys2Proof/Machine/Mx.lean ====
section
/-! DEFINITION. The MX slot at issue: tile tags, the shape checks of the array and the drain, and the eleven words (R169 to
R175). -/

namespace Sys2Proof.Machine

/-! ### Checks (R168, R171 to R174) -/

/-- The format-tag trap of a tile (R171). -/
def tileTrap (tag : BitVec 5) (tile : Nat) : Stop :=
  .trap { cause := 2, tval := BitVec.ofNat 64 (tag.toNat + 32 * tile + 2 ^ 32 * 4) }

/-- Set the tag of a tile at issue. -/
def CoreState.setTileTag (x : CoreState) (n : Nat) (tag : BitVec 5) : CoreState :=
  { x with tiles := Sparse.set {} x.tiles n { x.tile n with tag := tag } }

/-- An MX word whose bundle has a copy with fo that is guarded off is discarded (R73). -/
def mxWord (body : Body) : Body := fun iss m => if copyBefore iss = some false then .ok (iss, m) else body iss m

/-- The first byte of the rows of an operand that lies outside the spaces a command may use, rows in ascending order. -/
def rowsOutside (m : Mach) (c first stride rows len : Nat) : Option Int :=
  (List.range rows).findSome? (fun i =>
    m.firstOutside c [0, 1, 2] ((first + i * stride : Nat) : Int) ((first + i * stride + len - 1 : Nat) : Int))

/-- The first field of a list whose value is not a multiple of 16. -/
def notSixteen (shape : BitVec 256) (fields : List Nat) : Option Nat :=
  fields.find? (fun n => getField 0 shape n % 16 ≠ 0)

/-- A cell program holds step code 3 (R54). -/
def badProgram (w : Nat) : Bool := (List.range 16).any (fun n => w / 4 ^ n % 4 = 3)

/-- The places of an array command's operands: first byte, row distance, rows, and bytes of a row, of the A payload and of
the A headers; and the bytes of the B payload and of the B headers from their offsets. -/
structure ArrayPlaces where
  aFirst : Nat
  aRow : Nat
  hFirst : Nat
  hRow : Nat
  bBytes : Nat
  bhBytes : Nat
  deriving DecidableEq, Repr

def arrayPlaces (shape : BitVec 256) (k0 : Nat) : ArrayPlaces :=
  let fmt := getField 0 shape 7
  let N := getField 0 shape 9 + 1
  let K := getField 0 shape 6 + 1
  let lines := match mxSx fmt with
    | some _ => 128 * (K / 16 - 1) + N
    | none => 128 * (K - 1) + N
  { aFirst := getField 0 shape 0 + mxSpan fmt k0, aRow := mxSpan fmt K,
    hFirst := getField 0 shape 2 + 4 * (k0 / 16), hRow := 4 * (K / 16),
    bBytes := mxStep fmt * lines, bhBytes := 4 * lines }

/-- The shape check of an array command: `order` is 0 for mma and mmaz (R168, R170, R172). -/
def arrayCheck (m : Mach) (c reg : Nat) (shape : BitVec 256) (order seg k0 : Nat) (cp : Bool) : Option ShapeFail :=
  let fmt := getField 0 shape 7
  let M := getField 0 shape 8 + 1
  let N := getField 0 shape 9 + 1
  let K := getField 0 shape 6 + 1
  let sx := (mxSx fmt).isSome
  let p := arrayPlaces shape k0
  let bOut := fun (fld len : Nat) =>
    let first := getField 0 shape fld
    if 0x40000 < first + len then some (placeFail reg fld ((seg * 0x40000 + 0x40000 : Nat) : Int)) else none
  firstFail [
    (notSixteen shape [0, 1, 2, 3, 4, 5]).map (fun n => { reg := reg, fld := n }),
    failIf (sx && decide (K % 16 ≠ 0)) reg 6,
    failIf (decide (7 ≤ fmt)) reg 7,
    failIf ((sx && decide (k0 % 16 ≠ 0)) || (order ≠ 0 && decide (k0 % order ≠ 0))) reg 6,
    failIf (order ≠ 0 && (decide (N ≠ K) || decide (N % order ≠ 0))) reg 9,
    if order ≠ 0 && decide (0x10000 < 32 * getField 0 shape 10 + order * order / 8) then
      some (placeFail reg 10 0x30010000) else none,
    (rowsOutside m c p.aFirst (getField 0 shape 1) M p.aRow).map (placeFail reg 0),
    if sx then (rowsOutside m c p.hFirst (getField 0 shape 3) M p.hRow).map (placeFail reg 2) else none,
    if order = 0 then bOut 4 p.bBytes else none,
    if order = 0 && sx then bOut 5 p.bhBytes else none,
    failIf (cp && badProgram (getField 0 shape 13)) reg 13]

/-- The intervals an array command reads (R162). -/
def arrayIntervals (c : Nat) (shape : BitVec 256) (order seg k0 : Nat) : List Interval :=
  let M := getField 0 shape 8 + 1
  let sx := (mxSx (getField 0 shape 7)).isSome
  let p := arrayPlaces shape k0
  let rows := fun (first stride len : Nat) => intervalOf c first (first + (M - 1) * stride + len - 1) false
  let store := fun (fld len : Nat) =>
    let first := seg * 0x40000 + getField 0 shape fld
    ({ space := .bstore c, lo := first, hi := first + len - 1, write := false } : Interval)
  let a := rows p.aFirst (getField 0 shape 1) p.aRow :: (if sx then [rows p.hFirst (getField 0 shape 3) p.hRow] else [])
  let b := if order = 0 then store 4 p.bBytes :: (if sx then [store 5 p.bhBytes] else [])
    else [{ space := .const c, lo := 32 * getField 0 shape 10, hi := 32 * getField 0 shape 10 + order * order / 8 - 1,
            write := false }]
  a ++ b

/-! ### Shared meanings -/

/-- An array command at issue (R171, R172): its checks, its command, the exchange of sa, the tile's tag 0x10. -/
def arrayWord (i : Instr) (m a : BitVec 2) (w : BitVec 1) (k : BitVec 6) (order seg : Nat) (cp zero : Bool) : Body :=
  mxWord (fun iss mach =>
    let x := iss.x
    let tag := (x.tile m.toNat).tag
    let shape := shapeFor x 0 a.toNat w
    let k0 := field (x.g k) 0 16
    if !zero && tag ≠ 0x10 then .error (tileTrap tag m.toNat)
    else match arrayCheck iss.pre iss.core a.toNat shape order seg k0 cp with
      | some e => .error (e.stop 4)
      | none =>
        let kind := if order = 0 then CmdKind.mma zero m.toNat shape seg k0 cp else .hrot order m.toNat shape k0
        match commandWord i kind (arrayIntervals iss.core shape order seg k0) [] [] 0 true iss mach with
        | .error e => .error e
        | .ok (iss', mach') => .ok (iss', (exchange iss 0 w [a.toNat] mach').modCore iss.core
            (fun y => y.setTileTag m.toNat 0x10)))

/-- A drain at issue (R173, R174): its tag field, its shape, its command, the exchange of sd, the tile's tag 0x11. -/
def drainWord (i : Instr) (m d : BitVec 2) (w : BitVec 1) (t : BitVec 5) (n : BitVec 2) (r : BitVec 6) (factor : Nat) :
    Body := mxWord (fun iss mach =>
  let x := iss.x
  let shape := shapeFor x 0 d.toNat w
  let dst := getField 0 shape 12 + field (x.g r) 0 32
  let rows := getField 0 shape 8 + 1
  let len := (getField 0 shape 9 + 1) * drainBytes t
  let rnd := if n = 3 then x.ctl.frm else n
  let fail := firstFail [
    failIf (decide (getField 0 shape 11 % 16 ≠ 0)) d.toNat 11,
    failIf (decide (dst % 16 ≠ 0)) d.toNat 12,
    (rowsOutside iss.pre iss.core dst (getField 0 shape 11) rows len).map (placeFail d.toNat 12)]
  if !([1, 2, 3, 4].contains t) then .error (.trap { cause := 2, tval := BitVec.ofNat 64 (t.toNat + 2 ^ 32 * 4) })
  else match fail with
    | some e => .error (e.stop 4)
    | none =>
      let ivals := [intervalOf iss.core dst (dst + (rows - 1) * getField 0 shape 11 + len - 1) true]
      match commandWord i (.drain m.toNat shape factor t rnd.toNat dst x.ctl.seed) ivals [] [] 0 true iss mach with
      | .error e => .error e
      | .ok (iss', mach') => .ok (iss', (exchange iss 0 w [d.toNat] mach').modCore iss.core
          (fun y => y.setTileTag m.toNat 0x11)))

/-! ### Instructions -/

/-- mx.mma: accumulate into a tile (R171). -/
def execMxMma (g : BitVec 4) (m a : BitVec 2) (w : BitVec 1) (b : BitVec 4) (k : BitVec 6) (c : BitVec 1) (s : State) :
    Host.Outcome State Fault Refusal :=
  let i := Instr.mxMma g m a w b k c
  runWord i (arrayWord i m a w k 0 b.toNat (c = 1) false) s

/-- mx.mmaz: zero the cells, then accumulate (R171). -/
def execMxMmaz (g : BitVec 4) (m a : BitVec 2) (w : BitVec 1) (b : BitVec 4) (k : BitVec 6) (c : BitVec 1) (s : State) :
    Host.Outcome State Fault Refusal :=
  let i := Instr.mxMmaz g m a w b k c
  runWord i (arrayWord i m a w k 0 b.toNat (c = 1) true) s

/-- mx.hrot16: the Hadamard pass of order 16 (R172). -/
def execMxHrot16 (g : BitVec 4) (m a : BitVec 2) (w : BitVec 1) (k : BitVec 6) (s : State) :
    Host.Outcome State Fault Refusal :=
  let i := Instr.mxHrot16 g m a w k
  runWord i (arrayWord i m a w k 16 0 false false) s

/-- mx.hrot64: the Hadamard pass of order 64 (R172). -/
def execMxHrot64 (g : BitVec 4) (m a : BitVec 2) (w : BitVec 1) (k : BitVec 6) (s : State) :
    Host.Outcome State Fault Refusal :=
  let i := Instr.mxHrot64 g m a w k
  runWord i (arrayWord i m a w k 64 0 false false) s

/-- mx.drain: convert a tile to local memory (R173, R174). -/
def execMxDrain (g : BitVec 4) (m d : BitVec 2) (w : BitVec 1) (t : BitVec 5) (n : BitVec 2) (r : BitVec 6) (s : State) :
    Host.Outcome State Fault Refusal :=
  let i := Instr.mxDrain g m d w t n r
  runWord i (drainWord i m d w t n r 0) s

/-- mx.drain.h16: with factor 2^−2 (R56, R173). -/
def execMxDrainH16 (g : BitVec 4) (m d : BitVec 2) (w : BitVec 1) (t : BitVec 5) (n : BitVec 2) (r : BitVec 6) (s : State) :
    Host.Outcome State Fault Refusal :=
  let i := Instr.mxDrainH16 g m d w t n r
  runWord i (drainWord i m d w t n r 2) s

/-- mx.drain.h64: with factor 2^−3 (R56, R173). -/
def execMxDrainH64 (g : BitVec 4) (m d : BitVec 2) (w : BitVec 1) (t : BitVec 5) (n : BitVec 2) (r : BitVec 6) (s : State) :
    Host.Outcome State Fault Refusal :=
  let i := Instr.mxDrainH64 g m d w t n r
  runWord i (drainWord i m d w t n r 3) s

/-- mx.cprog: load the cell program of sd from the constant store, wholly at issue (R54, R173). -/
def execMxCprog (g : BitVec 4) (d : BitVec 2) (w : BitVec 1) (r : BitVec 6) (s : State) :
    Host.Outcome State Fault Refusal :=
  let i := Instr.mxCprog g d w r
  runWord i (mxWord (fun iss m =>
    let at_ := field (iss.x.g r) 0 16
    let word := Mem.load iss.x.loc.const at_ 4
    if at_ % 4 ≠ 0 then .error (slotTrap i 7 (BitVec.ofNat 64 at_))
    else if badProgram word then
      .error (.trap { cause := 5, tval := BitVec.ofNat 64 (word + 2 ^ 32 * 4 + 2 ^ 42) })
    else .ok (iss, (exchange iss 0 w [d.toNat] m).modCore iss.core (fun y =>
      let p := y.regs.shape 0 d.toNat
      y.setShape 0 d.toNat { p with active := putField 0 p.active 13 word })))) s

/-- mx.mclr: every element of a tile becomes +0 (R173). -/
def execMxMclr (g : BitVec 4) (m : BitVec 2) (s : State) : Host.Outcome State Fault Refusal :=
  let i := Instr.mxMclr g m
  runWord i (mxWord (fun iss mach =>
    match commandWord i (.mclr m.toNat) [] [] [] 0 true iss mach with
    | .error e => .error e
    | .ok (iss', mach') => .ok (iss', mach'.modCore iss.core (fun y => y.setTileTag m.toNat 0x10)))) s

/-- mx.mtag: set a tile's tag, wholly at issue (R173). -/
def execMxMtag (g : BitVec 4) (m : BitVec 2) (t : BitVec 5) (s : State) : Host.Outcome State Fault Refusal :=
  let i := Instr.mxMtag g m t
  runWord i (mxWord (fun iss mach => .ok (iss, mach.modCore iss.core (fun y => y.setTileTag m.toNat t)))) s

/-- MX commands issued and not complete: those in the counter, and those that a region or its ct.dusk still holds (R175, R308). -/
def CoreState.mxAhead (x : CoreState) : Nat :=
  let held := ((x.region.map (·.held)).getD []) ++ x.releasing
  x.cnt.mx.toNat + (held.filter (fun h => match h with
    | .cmd k _ => k.slot = 4
    | _ => false)).length

/-- mx.mstat: a status record of a tile, written in MX order (R175). -/
def execMxMstat (g : BitVec 4) (m : BitVec 2) (r : BitVec 6) (s : State) : Host.Outcome State Fault Refusal :=
  let i := Instr.mxMstat g m r
  runWord i (mxWord (fun iss mach =>
    let at_ := field (iss.x.g r) 0 32
    if at_ % 32 ≠ 0 then .error (slotTrap i 7 (BitVec.ofNat 64 at_))
    else if (iss.pre.firstOutside iss.core [0, 1] (at_ : Int) ((at_ + 31 : Nat) : Int)).isSome then
      .error (slotTrap i 5 (BitVec.ofNat 64 at_))
    else commandWord i (.mstat m.toNat at_ iss.x.mxAhead) [intervalOf iss.core at_ (at_ + 31) true] [] [] 0 true
      iss mach)) s

end Sys2Proof.Machine
end

