-- ==== Sys2Proof/Machine/Spaces.lean ====
section
/-! DEFINITION. The other host events: mailboxes (R400), doorbells and rings (R403, R406), ends of launches (R405), buffers
(R412), module settings (R413), the teardown of a space (R365), and host accesses to HBM (R402). -/

namespace Sys2Proof.Machine

/-! ### Mailboxes and doorbells -/

/-- The sender of a message (R400). -/
def senderOf (msg : BitVec 512) : BitVec 16 := msg.extractLsb' 16 16

/-- A full mailbox holds the sender of a message (R400). -/
def Mach.senderHeld (m : Mach) (msg : BitVec 512) : Bool := m.fw.mailHeld.any (fun e => e.2.any (fun k => senderOf k = senderOf msg))

/-- Firmware core `agent` takes its `part` oldest messages; then, unless the flag is set, a message reaches its mailbox. A full mailbox
holds the sender until a slot is free, and a sender that is held sends nothing (R400). -/
def mailArrives (a : EventArgs) (m : Mach) : Mach :=
  if 8 ≤ a.agent then m
  else
    let m := m.takeMail a.agent a.part
    if a.flag || m.senderHeld a.message then m
    else if (m.mailbox a.agent).length < 32 then m.putMail a.agent a.message
    else { m with fw.mailHeld := Sparse.put m.fw.mailHeld a.agent (Sparse.get [] m.fw.mailHeld a.agent ++ [a.message]) }

/-- The host writes DBELL_n with the index one past its last new entry, counted from the ring's enabling (R404, R406; log 23): F1
evaluates dependences, and F0 takes entries of unknown kinds. -/
def doorbell (a : EventArgs) (m : Mach) : Mach :=
  let n := a.agent
  let r := m.ring n
  if 16 ≤ n ∨ r.k = 0 ∨ m.hostOpen = false then m
  else
    let d := (BitVec.ofNat 16 a.word.toNat - r.seq).toNat
    let fresh := if d = 0 then 0 else (d - 1) % 2 ^ r.k + 1
    let m := (m.modRing n (fun r => { r with tail := r.head + fresh })).evaluate
    skipUnknown n fresh m

/-- The host writes RING_n (R403): a write with k 0 disables the ring; a k from 4 to 12 enables a disabled one; nothing else has an
effect. -/
def ringWrite (a : EventArgs) (m : Mach) : Mach :=
  let n := a.agent
  let k := field a.word 0 4
  let value := setField (setField a.word 4 8 0) 0 4 k
  if 16 ≤ n ∨ m.hostOpen = false then m
  else if k = 0 then m.modRing n (fun r => { r with value := value })
  else if 4 ≤ k ∧ k ≤ 12 ∧ (m.ring n).k = 0 then m.modRing n (fun _ => { value := value })
  else m

/-- Sixteen re-reads have found the old sequence in the head entry: it is completed with status 0x09 (R406). -/
def rereadsEnd (a : EventArgs) (m : Mach) : Mach :=
  let n := a.agent
  match m.headEntry n with
  | some e => if m.inSequence n e then m
    else
      let m := m.answer n 9 0 0 0
      skipUnknown n ((m.ring n).tail - (m.ring n).head) m
  | none => m

/-! ### Ending a launch (R405) -/

/-- A kind-2 entry. A launch whose completion word has already been raised has ended in its own way (log 24). -/
def endEntry (a : EventArgs) (m : Mach) : Mach :=
  let n := a.agent
  m.takeEntry n 2 (fun e =>
    let num := BitVec.ofNat 32 (at4 m.mem e 4)
    match m.launch num with
    | none => m
    | some l =>
      let m := m.answer n 0 0 num 0
      if l.alive && decide (l.status ≠ .completing) then (m.endLaunch num).report l 7 0 else m)
    (fun e => [(4, (m.launch (BitVec.ofNat 32 (at4 m.mem e 4))).isNone)])

/-! ### Buffers (R412) -/

/-- The checks of a buffer body. -/
def bufferChecks (m : Mach) (b : Nat) : List (Nat × Bool) :=
  let va := BitVec.ofNat 64 (at8 m.mem b 0)
  let size := at8 m.mem b 8
  let last := va + BitVec.ofNat 64 (size - 1)
  let flags := at1 m.mem b 24
  let space := BitVec.ofNat 36 (at8 m.mem b 16)
  let lo := va.toNat % 2 ^ 57
  let clash := m.fw.buffers.any (fun k => k.space = space && decide (lo < k.va + k.size) && decide (k.va < lo + size))
  [(0, decide (va.toNat % 256 ≠ 0)), (1, decide (va.toNat % 65536 ≠ 0)), (8, decide (size % 256 ≠ 0) || decide (size = 0)),
    (9, decide (size % 65536 ≠ 0)),
    (0, !(canonical va) || !(canonical last) || decide (last < va) || decide (bit va 56 ≠ bit last 56) || clash),
    (20, decide (15 < at1 m.mem b 20))] ++ zeroBytes m.mem b 21 3
  ++ [(24, decide (31 < flags) || (decide (flags / 4 % 2 = 1) && decide (flags / 8 % 2 = 1)))] ++ zeroBytes m.mem b 25 7

/-- A leaf that F2 writes for a buffer carries its properties (R358, R412): memory, tracked, read-duplicate, shadowable,
writable. -/
def bufferLeaf (flags : Nat) (e : BitVec 64) : BitVec 64 :=
  if pteLeaf e then
    setField (setBit (setBit (setBit (setBit e 5 (flags % 2 = 1)) 6 (flags / 4 % 2 = 1)) 7 (flags / 2 % 2 = 1)) 9 (flags / 16 % 2 = 1))
      3 2 0
  else e

/-- The copy of a 64 KiB piece of a read-duplicate buffer into the module of a tree (R412). -/
def Mach.copyPiece (m : Mach) (root other va : Nat) : Mach :=
  let at_ := canonicalVa va
  match walkFrom m.mem m.fw.retired va [4, 3, 2, 1, 0] root, walkFrom m.mem m.fw.retired va [4, 3, 2, 1, 0] other with
  | .leaf e s, .leaf f t =>
    let old := leafCell e s at_
    let new := leafCell f t at_
    if old = new then m else { m with mem := replaceRange m.mem new 65536 ((rangeBytes m.mem old 65536).map (fun b => (new + b.1, b.2))) }
  | _, _ => m

/-- The copies of a read-duplicate buffer in every module of its mask. -/
def Mach.copyBuffer (m : Mach) (space : BitVec 36) (modules : List Nat) (va size : Nat) : Mach :=
  match m.root space with
  | none => m
  | some root => ((m.spaceRec space).roots.filter (fun t => modules.contains t.1)).foldl (fun m t =>
      (List.range (size / 65536)).foldl (fun m i => m.copyPiece root t.2 (va + 65536 * i)) m) m

/-- The range table of a space: its buffers' physical ranges as pairs of address and length, under KEYID 0 (R412). -/
def Mach.writeRanges (m : Mach) (space : BitVec 36) (old : Nat) : Mach :=
  let pairs := (m.fw.buffers.filter (fun b => b.space = space)).flatMap (·.ranges)
  let table := (m.spaceRec space).rangeTable
  let cells := (pairs.mapIdx (fun i p => numberBytes (table + 16 * i) 16 (p.1 + 2 ^ 64 * p.2))).flatten
  let clear := (List.range (old - pairs.length)).flatMap (fun i => numberBytes (table + 16 * (pairs.length + i)) 16 0)
  m.performGlobal (cells ++ clear)

/-- The physical ranges listed for a space. -/
def Mach.rangeCount (m : Mach) (space : BitVec 36) : Nat :=
  ((m.fw.buffers.filter (fun b => b.space = space)).flatMap (·.ranges)).length

/-- Every registry entry of a space holds the address of its range table (R412). -/
def Mach.nameTable (m : Mach) (space : BitVec 36) : Mach :=
  let at_ := m.rangeTable space
  let slot := fun (h : Hart) => if h.mgspace.setWidth 36 = space then { h with reg.rangeTable := at_ } else h
  let m := m.mapCores (fun _ x => if x.ctl.space = space then { x with reg.rangeTable := at_ } else x)
  { m with comps := m.comps.map (fun k => (k.1, { k.2 with harts := k.2.harts.map (fun h => (h.1, slot h.2)) })) }

/-- A kind-3 entry (R412): `tables` are the entries that F2 writes, `ranges` the physical ranges, `word` the root and `item` the
range table of a space that has none, and `addrs` the root tables of its trees in the other modules. An identifier that is being
torn down serves no new buffer (R365). -/
def registerEntry (a : EventArgs) (m : Mach) : Mach :=
  let n := a.agent
  m.takeEntry n 3 (fun e =>
    let b := at8 m.mem e 8
    let space := BitVec.ofNat 36 (at8 m.mem b 16)
    let flags := at1 m.mem b 24
    let va := at8 m.mem b 0 % 2 ^ 57
    let size := at8 m.mem b 8
    let rdup := decide (flags / 4 % 2 = 1)
    let busy := rdup && m.fw.launches.any (fun l => l.runs && l.space = space)
    match firstBad (bufferChecks m b) with
    | some o => m.answer n 2 0 0 o
    | none =>
      if m.staleSpace space then m.answer n 2 0 0 16
      else if busy || (m.spaceRec space).closing.isSome then m.answer n 8 0 0 0
      else
        let count := m.rangeCount space
        let tables := a.tables.map (fun t => (t.1, bufferLeaf flags t.2))
        let m := ((m.ensureSpace space a.word.toNat).addRoots space (a.addrs.map (·.toNat))).modSpace space (fun r =>
          { r with rangeTable := if r.rangeTable = 0 then a.item else r.rangeTable })
        let m := (m.nameTable space).writeTables tables
        let modules := (List.range 576).filter (fun k => Mem.load m.mem (b + 32 + k / 8) 1 / 2 ^ (k % 8) % 2 = 1)
        let m := if rdup then m.copyBuffer space modules va size else m
        let buffer : Buffer := { space := space, va := va, size := size, rdup := rdup, tables := tables, ranges := a.ranges }
        ({ m with
            fw.buffers := m.fw.buffers ++ [buffer]
            fw.freed := m.fw.freed.filter (fun r => !(a.ranges.contains r)) }.writeRanges space count).answer n 0 0 0 0)

/-- The leaves of a buffer are no longer valid, and the shootdown begins (R359). -/
def Mach.unmap (m : Mach) (b : Buffer) : Mach :=
  let leaves := b.tables.filter (fun t => pteLeaf t.2)
  let mark := fun (o : Buffer) => if o = b then { o with leaving := true } else o
  let m := m.writeTables (leaves.map (fun t => (t.1, 0)))
  { m with fw.buffers := m.fw.buffers.map mark }.shootDown (m.awayOf b.space)

/-- A kind-4 entry (R412): the buffer of that address, size and space is unmapped, and the entry is completed when every die has
acknowledged the shootdown (R359); one that is not registered is malformed. -/
def unregisterEntry (a : EventArgs) (m : Mach) : Mach :=
  let n := a.agent
  m.takeEntry n 4 (fun e =>
    let b := at8 m.mem e 8
    let space := BitVec.ofNat 36 (at8 m.mem b 16)
    let va := at8 m.mem b 0 % 2 ^ 57
    let size := at8 m.mem b 8
    match m.fw.buffers.find? (fun k => k.space = space && k.va = va && k.size = size) with
    | none => m.answer n 2 0 0 0
    | some k =>
      let count := m.rangeCount space
      if !k.leaving then m.unmap k
      else if m.shooting then m
      else ({ m with fw.buffers := m.fw.buffers.filter (fun (o : Buffer) => o ≠ k) }.writeRanges space count).answer n 0 0 0 0)

/-! ### Settings (R413) -/

/-- The power cap nearest to a value (R427). -/
def capOf (w : Nat) : BitVec 32 := BitVec.ofNat 32 (max 8000 (min 15000 w))

/-- A kind-5 entry whose mask names setting `k`, or none: refused as a whole, or every setting it names comes into force (R413). -/
def configure (k : Nat) (a : EventArgs) (m : Mach) : Mach :=
  let n := a.agent
  let named : Bool := match m.headEntry n with
    | some e => decide (at1 m.mem e 17 / 2 ^ k % 2 = 1) || decide (at1 m.mem e 17 % 8 = 0) || decide (7 < at1 m.mem e 17)
    | none => false
  if !named then m
  else m.takeEntry n 5 (fun e =>
    let mask := at1 m.mem e 17
    let mode := at1 m.mem e 16
    let on := fun (i : Nat) => decide (mask / 2 ^ i % 2 = 1)
    if on 0 && decide (1 < mode) then m.answer n 2 0 0 16
    else if 7 < mask then m.answer n 2 0 0 17
    else if on 0 && decide (decide (mode = 1) ≠ m.fleet.tempered) && m.fw.launches.any Launch.runs then m.answer n 8 0 0 0
    else
      let f := m.fleet
      let f := { f with
        tempered := if on 0 then decide (mode = 1) else f.tempered,
        teleAddr := if on 1 then BitVec.ofNat 64 (at8 m.mem e 24) else f.teleAddr,
        cap := if on 2 then capOf (at4 m.mem e 32) else f.cap }
      { m with fleet := f }.answer n 0 0 0 0)

/-! ### Teardown (R365) -/

/-- Every launch under a space has ended. -/
def Mach.spaceQuiet (m : Mach) (space : BitVec 36) : Bool := m.fw.launches.all (fun l => !(l.alive && l.space = space))

/-- The keys that a space uses: those of its launches and of the leaves of its buffers. -/
def Mach.keysOf (m : Mach) (space : BitVec 36) : List Nat :=
  (((m.fw.launches.filter (fun l => l.space = space)).map (fun l => l.keyid.toNat))
    ++ (m.fw.buffers.filter (fun b => b.space = space)).flatMap (fun b =>
      (b.tables.filter (fun t => pteLeaf t.2)).map (fun t => (pteKey t.2).toNat))).eraseDups

/-- The keys of a space that no other space uses (R365 step 5): none that has not been torn down itself. -/
def Mach.spaceKeys (m : Mach) (space : BitVec 36) : List Nat :=
  let others := ((m.fw.launches.map (·.space)) ++ m.fw.buffers.map (·.space)).filter (fun s => s ≠ space && !(m.staleSpace s))
  (m.keysOf space).filter (fun k => decide (k ≠ 0) && !(others.any (fun s => (m.keysOf s).contains k)))

/-- F2 tears a space down once its launches have ended (R365): the generation rises, its tables are let go and its translations are
shot down; when every die has acknowledged that, its keys are retired, and the entry that asked for it is completed. F0 reads an
entry of a ring within one event, so that no read of a ring is outstanding (step 4). -/
def Mach.tearDown (m : Mach) (space : BitVec 36) : Mach :=
  let r := m.spaceRec space
  match r.closing, r.keys with
  | none, _ => m
  | some at_, none =>
    if !(m.spaceQuiet space) then m
    else
      let keys := m.spaceKeys space
      let away := m.awayOf space
      let m := m.modSpace space (fun r => { generation := r.generation + 1, closing := some at_, keys := some keys })
      { m with fw.buffers := m.fw.buffers.filter (fun (b : Buffer) => b.space ≠ space) }.shootDown away
  | some at_, some keys =>
    if m.shooting then m
    else
      let m := keys.foldl (fun m k => m.retireKey k) (m.modSpace space (fun r => { generation := r.generation }))
      m.complete at_.1 at_.2 0 0 0 0

/-- A kind-6 entry: from now on launches under the space are refused. With the flag set F2 goes on with the space of `word`, whose
entry F0 has taken before. -/
def tearDownEntry (a : EventArgs) (m : Mach) : Mach :=
  let n := a.agent
  if a.flag then m.tearDown (a.word.setWidth 36)
  else m.takeEntry n 6 (fun e =>
    let space := BitVec.ofNat 36 (at8 m.mem e 16)
    match firstBad ((20, decide (15 < at1 m.mem e 20)) :: zeroBytes m.mem e 21 3) with
    | some o => m.answer n 2 0 0 o
    | none =>
    if m.staleSpace space then m.answer n 0 0 0 0
    else if (m.spaceRec space).closing.isSome then m.answer n 8 0 0 0
    else
      let seq := (m.ring n).seq
      let m := (m.modSpace space (fun r => { r with
        closing := some (n, seq), generation := BitVec.ofNat 16 (field space 20 16) })).modRing n (fun r => { r with
        head := r.head + 1 })
      m.tearDown space)

/-! ### Host accesses (R402, R407) -/

/-- The host writes cells of HBM, which invalidates every copy, or reads lines of them, for which the owner gives up a modified copy
(R346, R354, R402). A module that offers no service accepts nothing (R419, R420). -/
def hostAccess (a : EventArgs) (m : Mach) : Mach :=
  let lines := (a.cells.map (fun c => c.1 / 256)).eraseDups
  if m.fw.failed ≠ [] || !m.inLife || lines.any (fun l => (List.range 64).any (fun d => m.lineBusy d l)) then m
  else if a.flag then
    let held := fun (l : Nat) => (List.range 64).filter (fun d => (m.dirOf d l).isSome)
    let m := lines.foldl (fun m l => (held l).foldl (fun m d => m.leaveL2 d l) m) m
    m.performGlobal a.cells
  else lines.foldl (fun m l =>
    let h := m.home l
    match h.owner with
    | some o => (m.recallOwner o l).setHome l { h with owner := none }
    | none => m) m

/-! ### Events -/

/-- MAILBOX_DELIVERY (R400) -/
def execMailboxDelivery (s : State) : Host.Outcome State Fault Refusal := eventStep mailArrives s
/-- DBELL (R406) -/
def execDbell (s : State) : Host.Outcome State Fault Refusal := eventStep doorbell s
/-- RING_CONFIG_WRITE (R403) -/
def execRingConfigWrite (s : State) : Host.Outcome State Fault Refusal := eventStep ringWrite s
/-- SEQUENCE_REREAD_TIMEOUT (R406) -/
def execSequenceRereadTimeout (s : State) : Host.Outcome State Fault Refusal := eventStep rereadsEnd s
/-- END_LAUNCH (R405) -/
def execEndLaunch (s : State) : Host.Outcome State Fault Refusal := eventStep endEntry s
/-- REGISTER_BUFFER (R412) -/
def execRegisterBuffer (s : State) : Host.Outcome State Fault Refusal := eventStep registerEntry s
/-- UNREGISTER_BUFFER (R412) -/
def execUnregisterBuffer (s : State) : Host.Outcome State Fault Refusal := eventStep unregisterEntry s
/-- CONFIGURE_ORDMODE (R413) -/
def execConfigureOrdmode (s : State) : Host.Outcome State Fault Refusal := eventStep (configure 0) s
/-- CONFIGURE_TELEMETRY_PAGE (R413, R426) -/
def execConfigureTelemetryPage (s : State) : Host.Outcome State Fault Refusal := eventStep (configure 1) s
/-- CONFIGURE_POWER_CAP (R413, R427) -/
def execConfigurePowerCap (s : State) : Host.Outcome State Fault Refusal := eventStep (configure 2) s
/-- TEAR_DOWN_SPACE (R365) -/
def execTearDownSpace (s : State) : Host.Outcome State Fault Refusal := eventStep tearDownEntry s
/-- HOST_MEMORY_ACCESS (R402) -/
def execHostMemoryAccess (s : State) : Host.Outcome State Fault Refusal := eventStep hostAccess s

end Sys2Proof.Machine
end

