-- ==== Sys2Proof/Machine/Operator.lean ====
section
/-! DEFINITION. The fleet side: images (R419), lifecycle and wipes (R420, R421), bring-up (R422, R423), heartbeats and votes (R424,
R425), telemetry (R426), power and cooling (R427, R428), and link retries (R418). -/

namespace Sys2Proof.Machine

/-! ### Wipes (R421, R294) -/

/-- The module after a wipe: every memory zero and empty, every other key drawn anew, ORDMODE as the installation recorded it,
no service, no launch, every ring disabled. What the management island and the installation hold stays. -/
def Mach.wiped (m : Mach) (cause : BitVec 8) : Mach :=
  let f := m.fleet
  { fw := { keyDraw := m.fw.keyDraw + 1, failed := m.fw.failed, imageVersion := m.fw.imageVersion,
            unreachable := m.fw.unreachable },
    fleet := { tempered := f.configured.getD false, configured := f.configured, temperedPeers := f.temperedPeers,
               lifecycle := f.lifecycle, identityKeys := f.identityKeys, cause := cause, number := f.number,
               neighbours := f.neighbours, watched := f.watched, hot := f.hot },
    fresh := m.fresh }

/-- Power is lost during a wipe, after `part` of its steps: it starts again at the next power-on. -/
def Mach.wipeBroken (m : Mach) (cause : BitVec 8) (part : Nat) : Mach :=
  let w := m.wiped cause
  { w with
    mem := if 2 ≤ part then [] else m.mem,
    fw.keyDraw := if 3 ≤ part then w.fw.keyDraw else m.fw.keyDraw,
    fleet.wiping := true }

/-- A module reset that the host asks for; with the flag set power is lost after `part` steps. -/
def moduleResets (a : EventArgs) (m : Mach) : Mach := if a.flag then m.wipeBroken 1 a.part else m.wiped 1

/-- The installation's configuration as the management island records it: the module's number (`item`), the value of ORDMODE (`part`:
none, open, tempered), the four designated neighbours (`addrs`), the modules whose designated neighbour this one is (`tables`, first
numbers), the modules that no route reaches and those that run tempered mode (`ranges`, first and second numbers from 1 on) (R294,
R418, R424). -/
def Mach.configured (m : Mach) (a : EventArgs) : Mach :=
  let some1 := fun (l : List Nat) => (l.filter (fun k => k ≠ 0)).map (fun k => k - 1)
  { m with
    fw.unreachable := some1 (a.ranges.map (·.1)),
    fleet := { m.fleet with
      number := BitVec.ofNat 10 a.item,
      configured := if a.part = 0 then none else some (decide (a.part = 2)),
      temperedPeers := some1 (a.ranges.map (·.2)),
      neighbours := (a.addrs.map (·.toNat)).take 4,
      watched := a.tables.map (·.1) } }

/-- Power-on: a wipe runs from its first step; under the flag the installation has recorded its configuration before. -/
def powersOn (a : EventArgs) (m : Mach) : Mach := (if a.flag then m.configured a else m).wiped 0

/-- The changes of lifecycle state that R420 lists. -/
def lifecycleStep : Lifecycle → Lifecycle → Bool
  | .manufacturing, .provisioned | .returned, .provisioned | .provisioned, .deployed | .provisioned, .returned
  | .deployed, .returned | .returned, .scrapped => true
  | _, _ => false

/-- A change of lifecycle state, by a command whose two signatures verify (flag): the state is recorded after the wipe, and with it
the identity keys are installed or destroyed. With `item` not 0 power is lost after `part` steps, and the old state stays recorded. -/
def lifecycleChanges (a : EventArgs) (m : Mach) : Mach :=
  if !a.flag || !(lifecycleStep m.fleet.lifecycle a.lifecycle) then m
  else if a.item ≠ 0 then m.wipeBroken 4 (min a.part 2)
  else { m.wiped 4 with
    fleet.lifecycle := a.lifecycle,
    fleet.identityKeys := match a.lifecycle with
      | .provisioned => true
      | .scrapped => false
      | .manufacturing | .deployed | .returned => m.fleet.identityKeys }

/-! ### Images and bring-up (R419, R422, R423) -/

/-- The class of image that a lifecycle state takes (R420): 0 of service, 1 for tests, 2 for diagnosis. -/
def imageClass : Lifecycle → Option Nat
  | .manufacturing => some 1
  | .provisioned | .deployed => some 0
  | .returned => some 2
  | .scrapped => none

/-- The management island loads image `item` (0 firmware, 1 identity, 2 attestation) of class `part`, through host port `agent`, only
when both signatures verify (flag), its security version is high enough, and the lifecycle state takes images of its class. A module
of which an image fails enters no service, and then takes images through port 0 alone (R419, R420). -/
def imageLoads (a : EventArgs) (m : Mach) : Mach :=
  let good := a.flag && decide (m.fw.imageVersion.toNat ≤ a.word.toNat)
  if 3 ≤ a.item ∨ imageClass m.fleet.lifecycle ≠ some a.part ∨ (m.fw.failed ≠ [] ∧ a.agent ≠ 0) then m
  else if good then { m with fw.failed := m.fw.failed.filter (fun k => k ≠ a.item) }
  else if m.fleet.fullService || m.fleet.twilight then m
  else { m with fw.failed := m.fw.failed.filter (fun k => k ≠ a.item) ++ [a.item] }

/-- A die passes stage one of bring-up: its steward starts, with its service code and service entry, and Twilight service begins
with the first die. -/
def stageOnePasses (a : EventArgs) (m : Mach) : Mach :=
  let f := m.fleet
  if !m.hostOpen || f.hot || decide (64 ≤ a.agent) || decide ((m.die a.agent).stage ≠ 0) then m
  else
    let m := (m.performGlobal a.serviceCells).modDie a.agent (fun d => { d with stage := 1, steward := true, service := a.word })
    { m with fleet.twilight := !f.fullService }

/-- Launches that the start of full service pre-empted resume on one common tick, on the same cores (R423, R255). -/
def Mach.resumePaused (m : Mach) (t : Tick) : Mach :=
  (m.fw.launches.filter (fun l => l.paused)).foldl (fun m l =>
    let m := m.modLaunch l.number (fun k => { k with paused := false })
    if l.status = .saved && m.available l [] then m.restoreLaunch { l with paused := false } t else m) m

/-- Every die has passed stage two: running launches are pre-empted; once they are saved full service begins, and they resume on the
common tick that F1 chooses (R423). -/
def fullServiceStarts (a : EventArgs) (m : Mach) : Mach :=
  if !m.fleet.twilight || !((List.range 64).all (fun d => decide ((m.die d).stage ≠ 0))) || !(m.tickChosen a.tick) then m
  else
    let busy := fun (l : Launch) => l.status = .running || l.status = .stopping
    let m := (m.fw.launches.filter busy).foldl (fun m l =>
      ((m.modLaunch l.number (fun k => { k with paused := k.paused || k.status = .running })).stopLaunch l.number).finishStop l.number) m
    if m.fw.launches.any busy then m
    else
      let m := { m with dies := m.dies.map (fun (d : Nat × Die) => (d.1, { d.2 with stage := 2 })) }
      let f := m.fleet
      { m with fleet := { f with fullService := true, twilight := false } }.resumePaused a.tick

/-! ### Heartbeats and votes (R424, R425) -/

/-- F5 sends a heartbeat to the four designated neighbours; with the flag set, one from module `agent`, of which this module is a
designated neighbour, has arrived. -/
def beats (a : EventArgs) (m : Mach) : Mach :=
  let f := m.fleet
  if a.flag then
    if !(f.watched.contains a.agent) then m
    else { m with fleet := { f with misses := Sparse.erase f.misses a.agent, voted := f.voted.filter (fun n => n ≠ a.agent) } }
  else { m with fleet := { f with beats := f.beats + 1 } }

/-- A beat of module `agent`, which this module watches, is missed: after three in a row one vote is sent, and no further one until a beat arrives. -/
def beatMissed (a : EventArgs) (m : Mach) : Mach :=
  let f := m.fleet
  let n := Sparse.get 0 f.misses a.agent + 1
  if !(f.watched.contains a.agent) then m
  else { m with fleet := { f with
      misses := Sparse.set 0 f.misses a.agent n,
      voted := if 3 ≤ n ∧ !(f.voted.contains a.agent) then f.voted ++ [a.agent] else f.voted } }

/-- A reset vote of module `agent` reaches the island at `item` ms; the flag tells that it verifies. Three distinct designated
neighbours within 100 ms reset the module. -/
def voteArrives (a : EventArgs) (m : Mach) : Mach :=
  let f := m.fleet
  if !a.flag || !(f.neighbours.contains a.agent) then m
  else
    let votes := f.votes.filter (fun v => decide (a.item - v.2 ≤ 100)) ++ [(a.agent, a.item)]
    if 3 ≤ ((votes.map (·.1)).eraseDups).length then m.wiped 2 else { m with fleet := { f with votes := votes } }

/-! ### Telemetry, power and cooling (R426 to R428) -/

/-- The number of a lifecycle state in telemetry. -/
def lifecycleCode : Lifecycle → Nat
  | .manufacturing => 0 | .provisioned => 1 | .deployed => 2 | .returned => 3 | .scrapped => 4

/-- The bytes of the telemetry page at a cell: power in W, junction and coolant in 0.1 °C as measured. -/
def Mach.telemetry (m : Mach) (at_ power junction coolant : Nat) : List (Nat × BitVec 8) :=
  let f := m.fleet
  let head := (f.teleSeq + 1).toNat + 2 ^ 64 * m.vclk.toNat + 2 ^ 128 * (power % 2 ^ 32) + 2 ^ 160 * f.cap.toNat
    + 2 ^ 192 * (junction % 65536) + 2 ^ 208 * (coolant % 65536) + 2 ^ 224 * f.cause.toNat + 2 ^ 232 * lifecycleCode f.lifecycle
    + 2 ^ 256 * f.throttled.toNat
  numberBytes at_ 64 head
  ++ (List.range 1024).flatMap (fun c => numberBytes (at_ + 64 + 2 * c) 2 (Sparse.get 0 f.mismatches c).toNat)
  ++ (List.range 992).flatMap (fun c => numberBytes (at_ + 2112 + 2 * c) 2 (Sparse.get 0 f.drops c).toNat)

/-- F7 rewrites the telemetry page. -/
def telemetryWritten (a : EventArgs) (m : Mach) : Mach :=
  let f := m.fleet
  if f.teleAddr = 0 then m
  else { m.performGlobal (m.telemetry f.teleAddr.toNat a.word.toNat a.item a.part) with
    fleet := { f with teleSeq := f.teleSeq + 1 } }

/-- The next level of issue limiting (R427). -/
def nextLimit (n : Nat) : Nat := if 12 < n then 12 else if 8 < n then 8 else 4

/-- The mean power over 1 ms is `word` W: while it exceeds the cap, F7 limits every sequencer further. -/
def powerLimits (a : EventArgs) (m : Mach) : Mach :=
  if m.fleet.cap.toNat < a.word.toNat then { m with fleet.limit := nextLimit m.fleet.limit } else m

/-- The mean power is `word` W: below 95% of the cap limiting ends. -/
def powerLimitEnds (a : EventArgs) (m : Mach) : Mach :=
  if 100 * a.word.toNat < 95 * m.fleet.cap.toNat then { m with fleet.limit := 16 } else m

/-- The hottest junction stands at `word` tenths of a degree: from 105 °C F7 limits issue; from 115 °C the compute dies lose their
power, and everything in them with it (R428). -/
def junctionReads (a : EventArgs) (m : Mach) : Mach :=
  if 1150 ≤ a.word.toNat then
    let f := m.fleet
    { m with
      cores := [],
      clusters := [],
      comps := [],
      msgs := [],
      dies := [],
      fleet := { f with hot := true, cause := 3, fullService := false, twilight := false } }
  else if 1050 ≤ a.word.toNat then { m with fleet.thermal := nextLimit m.fleet.thermal }
  else { m with fleet.thermal := 16 }

/-- After a thermal shutdown the temperature has fallen below 85 °C: a module reset. -/
def thermalEnds (a : EventArgs) (m : Mach) : Mach :=
  if m.fleet.hot && decide (a.word.toNat < 850) then { m.wiped 3 with fleet.hot := false } else m

/-- A flit with a failed CRC is sent again; nothing else changes (R418). -/
def flitRetried (_ : EventArgs) (m : Mach) : Mach := { m with fleet.retries := m.fleet.retries + 1 }

/-! ### Events -/

/-- IMAGE_LOAD (R419) -/
def execImageLoad (s : State) : Host.Outcome State Fault Refusal := eventStep imageLoads s
/-- POWER_ON (R421) -/
def execPowerOn (s : State) : Host.Outcome State Fault Refusal := eventStep powersOn s
/-- MODULE_RESET (R421) -/
def execModuleReset (s : State) : Host.Outcome State Fault Refusal := eventStep moduleResets s
/-- LIFECYCLE_CHANGE (R420) -/
def execLifecycleChange (s : State) : Host.Outcome State Fault Refusal := eventStep lifecycleChanges s
/-- DIE_STAGE_ONE_PASSED (R422) -/
def execDieStageOnePassed (s : State) : Host.Outcome State Fault Refusal := eventStep stageOnePasses s
/-- FULL_SERVICE_START (R423) -/
def execFullServiceStart (s : State) : Host.Outcome State Fault Refusal := eventStep fullServiceStarts s
/-- HEARTBEAT (R424) -/
def execHeartbeat (s : State) : Host.Outcome State Fault Refusal := eventStep beats s
/-- HEARTBEAT_MISS (R424) -/
def execHeartbeatMiss (s : State) : Host.Outcome State Fault Refusal := eventStep beatMissed s
/-- RESET_VOTE (R425) -/
def execResetVote (s : State) : Host.Outcome State Fault Refusal := eventStep voteArrives s
/-- TELEMETRY_REWRITE (R426) -/
def execTelemetryRewrite (s : State) : Host.Outcome State Fault Refusal := eventStep telemetryWritten s
/-- POWER_CAP_LIMITING (R427) -/
def execPowerCapLimiting (s : State) : Host.Outcome State Fault Refusal := eventStep powerLimits s
/-- POWER_CAP_LIMITING_END (R427) -/
def execPowerCapLimitingEnd (s : State) : Host.Outcome State Fault Refusal := eventStep powerLimitEnds s
/-- JUNCTION_TEMPERATURE (R428) -/
def execJunctionTemperature (s : State) : Host.Outcome State Fault Refusal := eventStep junctionReads s
/-- THERMAL_RECOVERY (R428) -/
def execThermalRecovery (s : State) : Host.Outcome State Fault Refusal := eventStep thermalEnds s
/-- LINK_LEVEL_RETRY (R418) -/
def execLinkLevelRetry (s : State) : Host.Outcome State Fault Refusal := eventStep flitRetried s

end Sys2Proof.Machine
end

