-- ==== Sys2Proof/Machine/Pf.lean ====
section
/-! DEFINITION. The PF slot at issue: its shape checks (R168, R189 to R196), its header planes and index tables, and the nine
words. -/

namespace Sys2Proof.Machine

/-! ### Shape checks -/

/-- The limits of a PF view on its own fields: it is local (R189). -/
def pfLimits (v : View) (reg : Nat) (dst : Bool) (extra : List (Nat × Bool)) : Option ShapeFail :=
  ownLimits v reg dst (some false) extra

/-- The place of a PF view: core scratchpad, cluster memory or die scratchpad (R189). -/
def pfPlace (m : Mach) (c : Nat) (v : View) (reg : Nat) : Option ShapeFail := placeOf m c v reg [0, 1, 2]

/-- A byte view: element size 1 and elements side by side. -/
def byteRows (v : View) : List (Nat × Bool) := [(3, decide (v.str0 ≠ 1)), (5, decide (v.size ≠ 1))]

/-- The check of a transpose of elements of `size` bytes (R190). -/
def transposeCheck (m : Mach) (c size : Nat) (src dst : View) (rs rd : Nat) : Option ShapeFail :=
  let packed := fun (v : View) => (3, decide (v.str0 ≠ (size : Int)))
  firstFail [
    pfLimits src rs false [(1, decide (63 < src.ext0)), (2, decide (63 < src.ext1)), packed src, (5, decide (src.size ≠ size))],
    pfLimits dst rd true [packed dst],
    pfPlace m c src rs, pfPlace m c dst rd,
    failIf (decide (src.size ≠ dst.size)) rd 5,
    failIf (decide (dst.ext0 ≠ src.ext1)) rd 1,
    failIf (decide (dst.ext1 ≠ src.ext0)) rd 2,
    failIf (viewsMeet src dst) rd 0]

/-- The check of qnt and dqnt: `elems` holds the elements and `blocks` the payload (R192, R193). -/
def quantCheck (m : Mach) (c aux : Nat) (elems blocks : View) (re rb : Nat) (dequantise : Bool) : Option ShapeFail :=
  let width := if aux / 16 % 2 = 1 then 2 else 4
  let ownElems := pfLimits elems re dequantise [(5, decide (elems.size ≠ width))]
  let ownBlocks := pfLimits blocks rb (!dequantise) (byteRows blocks)
  let differ := decide (16 * (blocks.ext0 + 1) ≠ (elems.ext0 + 1) * sxBlockBytes (aux % 4)) || decide (blocks.ext1 ≠ elems.ext1)
  firstFail [
    if dequantise then ownBlocks else ownElems, if dequantise then ownElems else ownBlocks,
    if dequantise then pfPlace m c blocks rb else pfPlace m c elems re,
    if dequantise then pfPlace m c elems re else pfPlace m c blocks rb,
    failIf differ (if dequantise then re else rb) 1,
    failIf (decide ((elems.ext0 + 1) % 16 ≠ 0)) re 1]

/-- The check of upx12 and pkx12: `bytes` holds packed pixels and `words` ui16 elements (R194). -/
def pixelCheck (m : Mach) (c : Nat) (bytes words : View) (rb rw : Nat) (packing : Bool) : Option ShapeFail :=
  let ownBytes := pfLimits bytes rb packing (byteRows bytes)
  let ownWords := pfLimits words rw (!packing) [(5, decide (words.size ≠ 2))]
  let differ := decide (3 * (words.ext0 + 1) ≠ 2 * (bytes.ext0 + 1)) || decide (words.ext1 ≠ bytes.ext1)
  firstFail [
    if packing then ownWords else ownBytes, if packing then ownBytes else ownWords,
    if packing then pfPlace m c words rw else pfPlace m c bytes rb,
    if packing then pfPlace m c bytes rb else pfPlace m c words rw,
    failIf differ (if packing then rb else rw) 1,
    failIf (decide ((bytes.ext0 + 1) % 3 ≠ 0)) rb 1]

/-- The check of shuf: equal element sizes (R196). -/
def shuffleCheck (m : Mach) (c : Nat) (src dst : View) (rs rd : Nat) : Option ShapeFail :=
  firstFail [pfLimits src rs false [], pfLimits dst rd true [], pfPlace m c src rs, pfPlace m c dst rd,
    failIf (decide (src.size ≠ dst.size)) rd 5]

/-! ### Words -/

/-- The base of a local view. -/
def localView (shape : BitVec 256) : View := resolve (viewOf shape) 0

/-- A header plane or an index table of `len` bytes at an L-address (R192, R196): aligned, and in the spaces of PF. -/
def planeCheck (i : Instr) (m : Mach) (c at_ align len : Nat) : Option Stop :=
  if at_ % align ≠ 0 then some (slotTrap i 7 (BitVec.ofNat 64 at_))
  else if (m.firstOutside c [0, 1, 2] (at_ : Int) ((at_ + len - 1 : Nat) : Int)).isSome then
    some (slotTrap i 5 (BitVec.ofNat 64 at_))
  else none

/-- A PF word of two views: its shape check, its further check, its command with a further interval, the exchange. -/
def pfWord (i : Instr) (rs rd : BitVec 2) (w : BitVec 1) (check : Mach → Nat → View → View → Option ShapeFail)
    (plane : View → View → Option (Nat × Nat × Nat × Bool)) (kind : Issue → View → View → CmdKind) : Body := fun iss m =>
  let x := iss.x
  let c := iss.core
  let src := localView (shapeFor x 3 rs.toNat w)
  let dst := localView (shapeFor x 3 rd.toNat w)
  match check iss.pre c src dst with
  | some f => .error (f.stop 7)
  | none =>
    let region := plane src dst
    match region.bind (fun p => planeCheck i iss.pre c p.1 p.2.1 p.2.2.1) with
    | some e => .error e
    | none =>
      let extra := match region with
        | some p => [intervalOf c p.1 (p.1 + p.2.2.1 - 1) p.2.2.2]
        | none => []
      let ready := fewMet iss.pre c src false && fewMet iss.pre c dst true
      match commandWord i (kind iss src dst) (src.interval c false ++ dst.interval c true ++ extra) [] [] 0 ready iss m with
      | .error e => .error e
      | .ok (iss', m') => .ok (iss', exchange iss 3 w [rs.toNat, rd.toNat] m')

/-- A transpose at issue (R190). -/
def transposeWord (i : Instr) (rs rd : BitVec 2) (w : BitVec 1) (size : Nat) : Body :=
  pfWord i rs rd w (fun m c a b => transposeCheck m c size a b rs.toNat rd.toNat) (fun _ _ => none)
    (fun _ a b => .transpose a b)

/-! ### Instructions -/

/-- pf.trn8 (R190). -/
def execPfTrn8 (g : BitVec 4) (s1 d : BitVec 2) (w : BitVec 1) (s : State) : Host.Outcome State Fault Refusal :=
  let i := Instr.pfTrn8 g s1 d w
  runWord i (transposeWord i s1 d w 1) s

/-- pf.trn16 (R190). -/
def execPfTrn16 (g : BitVec 4) (s1 d : BitVec 2) (w : BitVec 1) (s : State) : Host.Outcome State Fault Refusal :=
  let i := Instr.pfTrn16 g s1 d w
  runWord i (transposeWord i s1 d w 2) s

/-- pf.trn32 (R190). -/
def execPfTrn32 (g : BitVec 4) (s1 d : BitVec 2) (w : BitVec 1) (s : State) : Host.Outcome State Fault Refusal :=
  let i := Instr.pfTrn32 g s1 d w
  runWord i (transposeWord i s1 d w 4) s

/-- pf.fill: every element takes the low bytes of g[gv], read at issue; only sd is exchanged (R189, R191). -/
def execPfFill (g : BitVec 4) (d : BitVec 2) (w : BitVec 1) (v : BitVec 6) (s : State) :
    Host.Outcome State Fault Refusal :=
  let i := Instr.pfFill g d w v
  runWord i (fun iss m =>
    let dst := localView (shapeFor iss.x 3 d.toNat w)
    match firstFail [pfLimits dst d.toNat true [], pfPlace iss.pre iss.core dst d.toNat] with
    | some f => .error (f.stop 7)
    | none =>
      match commandWord i (.fill dst (iss.x.g v)) (dst.interval iss.core true) [] [] 0 (fewMet iss.pre iss.core dst true)
          iss m with
      | .error e => .error e
      | .ok (iss', m') => .ok (iss', exchange iss 3 w [d.toNat] m')) s

/-- pf.qnt: rows of elements into SX blocks and their headers (R192). -/
def execPfQnt (g : BitVec 4) (s1 d : BitVec 2) (w : BitVec 1) (v : BitVec 6) (x : BitVec 5) (s : State) :
    Host.Outcome State Fault Refusal :=
  let i := Instr.pfQnt g s1 d w v x
  runWord i (fun iss m =>
    let at_ := field (iss.x.g v) 0 32
    pfWord i s1 d w (fun m c a b => quantCheck m c x.toNat a b s1.toNat d.toNat false)
      (fun a _ => some (at_, 4, 4 * ((a.ext1 + 1) * ((a.ext0 + 1) / 16)), true))
      (fun iss a b => .quantise a b at_ x.toNat iss.x.ctl.seed iss.x.ctl.frm) iss m) s

/-- pf.dqnt: SX blocks into rows of elements (R193). -/
def execPfDqnt (g : BitVec 4) (s1 d : BitVec 2) (w : BitVec 1) (v : BitVec 6) (x : BitVec 5) (s : State) :
    Host.Outcome State Fault Refusal :=
  let i := Instr.pfDqnt g s1 d w v x
  runWord i (fun iss m =>
    let at_ := field (iss.x.g v) 0 32
    pfWord i s1 d w (fun m c a b => quantCheck m c x.toNat b a d.toNat s1.toNat true)
      (fun _ b => some (at_, 4, 4 * ((b.ext1 + 1) * ((b.ext0 + 1) / 16)), false))
      (fun iss a b => .dequantise a b at_ x.toNat iss.x.ctl.seed iss.x.ctl.frm) iss m) s

/-- pf.upx12: packed pixels into ui16 elements (R194). -/
def execPfUpx12 (g : BitVec 4) (s1 d : BitVec 2) (w : BitVec 1) (s : State) : Host.Outcome State Fault Refusal :=
  let i := Instr.pfUpx12 g s1 d w
  runWord i (pfWord i s1 d w (fun m c a b => pixelCheck m c a b s1.toNat d.toNat false) (fun _ _ => none)
    (fun _ a b => .unpack a b)) s

/-- pf.pkx12: ui16 elements into packed pixels, clamped (R194). -/
def execPfPkx12 (g : BitVec 4) (s1 d : BitVec 2) (w : BitVec 1) (s : State) : Host.Outcome State Fault Refusal :=
  let i := Instr.pfPkx12 g s1 d w
  runWord i (pfWord i s1 d w (fun m c a b => pixelCheck m c b a d.toNat s1.toNat true) (fun _ _ => none)
    (fun _ a b => .pack a b)) s

/-- pf.shuf: elements picked by an index table (R196). -/
def execPfShuf (g : BitVec 4) (s1 d : BitVec 2) (w : BitVec 1) (v : BitVec 6) (s : State) :
    Host.Outcome State Fault Refusal :=
  let i := Instr.pfShuf g s1 d w v
  runWord i (fun iss m =>
    let at_ := field (iss.x.g v) 0 32
    pfWord i s1 d w (fun m c a b => shuffleCheck m c a b s1.toNat d.toNat)
      (fun _ b => some (at_, 2, 2 * b.count, false)) (fun _ a b => .shuffle a b at_) iss m) s

end Sys2Proof.Machine
end

