-- ==== Sys2Proof/Machine/ScInt.lean ====
section
/-! DEFINITION. The SC slot: integer arithmetic, bit fields, multiplication and division, constants, selection and
comparisons (R90 to R97). -/

namespace Sys2Proof.Machine

/-! ### Operations -/

/-- The signed lesser and greater (R90). -/
def minS (a b : Dword) : Dword := if a.slt b then a else b
def maxS (a b : Dword) : Dword := if a.slt b then b else a

/-- The unsigned lesser and greater (R90). -/
def minU (a b : Dword) : Dword := if a.ult b then a else b
def maxU (a b : Dword) : Dword := if a.ult b then b else a

/-- BitFieldExtract under a control word (R91). -/
def bitFieldExtract (a ctl : Dword) : Dword :=
  let pos := field ctl 0 6
  let wid := field ctl 8 6 + 1
  let f := (a.toNat / 2 ^ pos) % 2 ^ wid
  if bit ctl 15 && decide (pos + wid ≤ 64) then extendTo64 true wid f else BitVec.ofNat 64 f

/-- BitFieldInsert into the old value under a control word (R91). -/
def bitFieldInsert (old a ctl : Dword) : Dword :=
  let pos := field ctl 0 6
  let wid := field ctl 8 6 + 1
  let mask : Dword := BitVec.ofNat 64 ((2 ^ wid - 1) * 2 ^ pos)
  (old &&& ~~~mask) ||| ((a <<< pos) &&& mask)

/-- Leading zeros, 64 of zero (R92). -/
def countLeading (a : Dword) : Dword := if a = 0 then 64 else BitVec.ofNat 64 (63 - Nat.log2 a.toNat)

/-- Trailing zeros, 64 of zero (R92). -/
def countTrailing (a : Dword) : Dword :=
  BitVec.ofNat 64 (((List.range 64).find? (fun n => bit a n)).getD 64)

/-- Set bits (R92). -/
def countSet (a : Dword) : Dword := BitVec.ofNat 64 ((List.range 64).filter (fun n => bit a n)).length

/-- Bits [127:64] of the signed and of the unsigned product (R93). -/
def mulHigh (a b : Dword) : Dword := BitVec.ofInt 64 (a.toInt * b.toInt / 2 ^ 64)
def mulHighU (a b : Dword) : Dword := BitVec.ofNat 64 (a.toNat * b.toNat / 2 ^ 64)

/-- Division, with the corners of R93. -/
def divS (a b : Dword) : Dword := if b = 0 then BitVec.allOnes 64 else BitVec.ofInt 64 (a.toInt.tdiv b.toInt)
def divU (a b : Dword) : Dword := if b = 0 then BitVec.allOnes 64 else a / b
def remS (a b : Dword) : Dword := if b = 0 then a else BitVec.ofInt 64 (a.toInt.tmod b.toInt)
def remU (a b : Dword) : Dword := if b = 0 then a else a % b

/-! ### Forms -/

/-- A word of two register operands. -/
def scalar2 (i : Instr) (k : LatClass) (d a b : BitVec 6) (f : Dword → Dword → Dword) : Body := fun iss m =>
  scalarResult i k d (f (iss.x.g a) (iss.x.g b)) iss m

/-- A word of one register operand. -/
def scalar1 (i : Instr) (d a : BitVec 6) (f : Dword → Dword) : Body := fun iss m =>
  scalarResult i .A d (f (iss.x.g a)) iss m

/-- A word with a sign-extended immediate (R94). -/
def scalarImm (i : Instr) (d a : BitVec 6) (imm : BitVec 10) (f : Dword → Dword → Dword) : Body := fun iss m =>
  scalarResult i .A d (f (iss.x.g a) (imm.signExtend 64)) iss m

/-- A shift by an immediate 0–63 (R94). -/
def scalarShift (i : Instr) (d a : BitVec 6) (n : BitVec 6) (f : Dword → Nat → Dword) : Body := fun iss m =>
  scalarResult i .A d (f (iss.x.g a) n.toNat) iss m

/-- A comparison: its result into pT and its negation into pF; pT prevails where both are one register (R97). -/
def compareWord (i : Instr) (t f : BitVec 4) (c : CoreState → Bool) : Body := fun iss m =>
  let r := c iss.x
  .ok (iss, m.modCore iss.core (fun x =>
    let x := if t = f then x else predicateResult i f (!r) iss x
    predicateResult i t r iss x))

/-! ### Instructions -/

/-- add (R90) -/
def execScAdd (g : BitVec 4) (d a b : BitVec 6) (s : State) : Host.Outcome State Fault Refusal :=
  runWord (.scAdd g d a b) (scalar2 (.scAdd g d a b) .A d a b (fun x y => x + y)) s

/-- sub (R90) -/
def execScSub (g : BitVec 4) (d a b : BitVec 6) (s : State) : Host.Outcome State Fault Refusal :=
  runWord (.scSub g d a b) (scalar2 (.scSub g d a b) .A d a b (fun x y => x - y)) s

/-- and (R90) -/
def execScAnd (g : BitVec 4) (d a b : BitVec 6) (s : State) : Host.Outcome State Fault Refusal :=
  runWord (.scAnd g d a b) (scalar2 (.scAnd g d a b) .A d a b (fun x y => x &&& y)) s

/-- or (R90) -/
def execScOr (g : BitVec 4) (d a b : BitVec 6) (s : State) : Host.Outcome State Fault Refusal :=
  runWord (.scOr g d a b) (scalar2 (.scOr g d a b) .A d a b (fun x y => x ||| y)) s

/-- xor (R90) -/
def execScXor (g : BitVec 4) (d a b : BitVec 6) (s : State) : Host.Outcome State Fault Refusal :=
  runWord (.scXor g d a b) (scalar2 (.scXor g d a b) .A d a b (fun x y => x ^^^ y)) s

/-- andn (R90) -/
def execScAndn (g : BitVec 4) (d a b : BitVec 6) (s : State) : Host.Outcome State Fault Refusal :=
  runWord (.scAndn g d a b) (scalar2 (.scAndn g d a b) .A d a b (fun x y => x &&& ~~~y)) s

/-- shl: the amount is g[b][5:0] (R90) -/
def execScShl (g : BitVec 4) (d a b : BitVec 6) (s : State) : Host.Outcome State Fault Refusal :=
  runWord (.scShl g d a b) (scalar2 (.scShl g d a b) .A d a b (fun x y => x <<< field y 0 6)) s

/-- shr, zero-filled (R90) -/
def execScShr (g : BitVec 4) (d a b : BitVec 6) (s : State) : Host.Outcome State Fault Refusal :=
  runWord (.scShr g d a b) (scalar2 (.scShr g d a b) .A d a b (fun x y => x >>> field y 0 6)) s

/-- sra, filled with the top bit (R90) -/
def execScSra (g : BitVec 4) (d a b : BitVec 6) (s : State) : Host.Outcome State Fault Refusal :=
  runWord (.scSra g d a b) (scalar2 (.scSra g d a b) .A d a b (fun x y => x.sshiftRight (field y 0 6))) s

/-- min (R90) -/
def execScMin (g : BitVec 4) (d a b : BitVec 6) (s : State) : Host.Outcome State Fault Refusal :=
  runWord (.scMin g d a b) (scalar2 (.scMin g d a b) .A d a b (minS)) s

/-- max (R90) -/
def execScMax (g : BitVec 4) (d a b : BitVec 6) (s : State) : Host.Outcome State Fault Refusal :=
  runWord (.scMax g d a b) (scalar2 (.scMax g d a b) .A d a b (maxS)) s

/-- minu (R90) -/
def execScMinu (g : BitVec 4) (d a b : BitVec 6) (s : State) : Host.Outcome State Fault Refusal :=
  runWord (.scMinu g d a b) (scalar2 (.scMinu g d a b) .A d a b (minU)) s

/-- maxu (R90) -/
def execScMaxu (g : BitVec 4) (d a b : BitVec 6) (s : State) : Host.Outcome State Fault Refusal :=
  runWord (.scMaxu g d a b) (scalar2 (.scMaxu g d a b) .A d a b (maxU)) s

/-- bfx (R91) -/
def execScBfx (g : BitVec 4) (d a b : BitVec 6) (s : State) : Host.Outcome State Fault Refusal :=
  runWord (.scBfx g d a b) (scalar2 (.scBfx g d a b) .A d a b (bitFieldExtract)) s

/-- bfi reads g[d] at issue (R91) -/
def execScBfi (g : BitVec 4) (d a b : BitVec 6) (s : State) : Host.Outcome State Fault Refusal :=
  runWord (.scBfi g d a b)
    (fun iss m => scalarResult (.scBfi g d a b) .A d (bitFieldInsert (iss.x.g d) (iss.x.g a) (iss.x.g b)) iss m) s

/-- clz (R92) -/
def execScClz (g : BitVec 4) (d a : BitVec 6) (s : State) : Host.Outcome State Fault Refusal :=
  runWord (.scClz g d a) (scalar1 (.scClz g d a) d a (countLeading)) s

/-- ctz (R92) -/
def execScCtz (g : BitVec 4) (d a : BitVec 6) (s : State) : Host.Outcome State Fault Refusal :=
  runWord (.scCtz g d a) (scalar1 (.scCtz g d a) d a (countTrailing)) s

/-- popc (R92) -/
def execScPopc (g : BitVec 4) (d a : BitVec 6) (s : State) : Host.Outcome State Fault Refusal :=
  runWord (.scPopc g d a) (scalar1 (.scPopc g d a) d a (countSet)) s

/-- sext from 8 bits (R92) -/
def execScSextB (g : BitVec 4) (d a : BitVec 6) (s : State) : Host.Outcome State Fault Refusal :=
  runWord (.scSextB g d a) (scalar1 (.scSextB g d a) d a (fun x => extendTo64 true 8 x.toNat)) s

/-- sext from 16 bits (R92) -/
def execScSextH (g : BitVec 4) (d a : BitVec 6) (s : State) : Host.Outcome State Fault Refusal :=
  runWord (.scSextH g d a) (scalar1 (.scSextH g d a) d a (fun x => extendTo64 true 16 x.toNat)) s

/-- sext from 32 bits (R92) -/
def execScSextW (g : BitVec 4) (d a : BitVec 6) (s : State) : Host.Outcome State Fault Refusal :=
  runWord (.scSextW g d a) (scalar1 (.scSextW g d a) d a (fun x => extendTo64 true 32 x.toNat)) s

/-- zext from 8 bits (R92) -/
def execScZextB (g : BitVec 4) (d a : BitVec 6) (s : State) : Host.Outcome State Fault Refusal :=
  runWord (.scZextB g d a) (scalar1 (.scZextB g d a) d a (fun x => extendTo64 false 8 x.toNat)) s

/-- zext from 16 bits (R92) -/
def execScZextH (g : BitVec 4) (d a : BitVec 6) (s : State) : Host.Outcome State Fault Refusal :=
  runWord (.scZextH g d a) (scalar1 (.scZextH g d a) d a (fun x => extendTo64 false 16 x.toNat)) s

/-- zext from 32 bits (R92) -/
def execScZextW (g : BitVec 4) (d a : BitVec 6) (s : State) : Host.Outcome State Fault Refusal :=
  runWord (.scZextW g d a) (scalar1 (.scZextW g d a) d a (fun x => extendTo64 false 32 x.toNat)) s

/-- mul (R93) -/
def execScMul (g : BitVec 4) (d a b : BitVec 6) (s : State) : Host.Outcome State Fault Refusal :=
  runWord (.scMul g d a b) (scalar2 (.scMul g d a b) .B d a b (fun x y => x * y)) s

/-- mulh (R93) -/
def execScMulh (g : BitVec 4) (d a b : BitVec 6) (s : State) : Host.Outcome State Fault Refusal :=
  runWord (.scMulh g d a b) (scalar2 (.scMulh g d a b) .B d a b (mulHigh)) s

/-- mulhu (R93) -/
def execScMulhu (g : BitVec 4) (d a b : BitVec 6) (s : State) : Host.Outcome State Fault Refusal :=
  runWord (.scMulhu g d a b) (scalar2 (.scMulhu g d a b) .B d a b (mulHighU)) s

/-- div (R93) -/
def execScDiv (g : BitVec 4) (d a b : BitVec 6) (s : State) : Host.Outcome State Fault Refusal :=
  runWord (.scDiv g d a b) (scalar2 (.scDiv g d a b) .C d a b (divS)) s

/-- divu (R93) -/
def execScDivu (g : BitVec 4) (d a b : BitVec 6) (s : State) : Host.Outcome State Fault Refusal :=
  runWord (.scDivu g d a b) (scalar2 (.scDivu g d a b) .C d a b (divU)) s

/-- rem (R93) -/
def execScRem (g : BitVec 4) (d a b : BitVec 6) (s : State) : Host.Outcome State Fault Refusal :=
  runWord (.scRem g d a b) (scalar2 (.scRem g d a b) .C d a b (remS)) s

/-- remu (R93) -/
def execScRemu (g : BitVec 4) (d a b : BitVec 6) (s : State) : Host.Outcome State Fault Refusal :=
  runWord (.scRemu g d a b) (scalar2 (.scRemu g d a b) .C d a b (remU)) s

/-- sel (R96) -/
def execScSel (g : BitVec 4) (d a b : BitVec 6) (p : BitVec 4) (s : State) : Host.Outcome State Fault Refusal :=
  runWord (.scSel g d a b p)
    (fun iss m => scalarResult (.scSel g d a b p) .A d (if iss.x.p p then iss.x.g a else iss.x.g b) iss m) s

/-- cmp.eq (R97) -/
def execScCmpEq (g t f : BitVec 4) (a b : BitVec 6) (s : State) : Host.Outcome State Fault Refusal :=
  runWord (.scCmpEq g t f a b) (compareWord (.scCmpEq g t f a b) t f (fun x => decide ((x.g a) = (x.g b)))) s

/-- cmp.ne (R97) -/
def execScCmpNe (g t f : BitVec 4) (a b : BitVec 6) (s : State) : Host.Outcome State Fault Refusal :=
  runWord (.scCmpNe g t f a b) (compareWord (.scCmpNe g t f a b) t f (fun x => decide ((x.g a) ≠ (x.g b)))) s

/-- cmp.lt (R97) -/
def execScCmpLt (g t f : BitVec 4) (a b : BitVec 6) (s : State) : Host.Outcome State Fault Refusal :=
  runWord (.scCmpLt g t f a b) (compareWord (.scCmpLt g t f a b) t f (fun x => BitVec.slt (x.g a) (x.g b))) s

/-- cmp.ltu (R97) -/
def execScCmpLtu (g t f : BitVec 4) (a b : BitVec 6) (s : State) : Host.Outcome State Fault Refusal :=
  runWord (.scCmpLtu g t f a b) (compareWord (.scCmpLtu g t f a b) t f (fun x => BitVec.ult (x.g a) (x.g b))) s

/-- cmp.ge (R97) -/
def execScCmpGe (g t f : BitVec 4) (a b : BitVec 6) (s : State) : Host.Outcome State Fault Refusal :=
  runWord (.scCmpGe g t f a b) (compareWord (.scCmpGe g t f a b) t f (fun x => !(BitVec.slt (x.g a) (x.g b)))) s

/-- cmp.geu (R97) -/
def execScCmpGeu (g t f : BitVec 4) (a b : BitVec 6) (s : State) : Host.Outcome State Fault Refusal :=
  runWord (.scCmpGeu g t f a b) (compareWord (.scCmpGeu g t f a b) t f (fun x => !(BitVec.ult (x.g a) (x.g b)))) s

/-- cmpi.eq with the sign-extended immediate (R97) -/
def execScCmpiEq (g t f : BitVec 4) (a : BitVec 6) (i : BitVec 8) (s : State) : Host.Outcome State Fault Refusal :=
  runWord (.scCmpiEq g t f a i) (compareWord (.scCmpiEq g t f a i) t f (fun x => decide ((x.g a) = (i.signExtend 64)))) s

/-- cmpi.ne with the sign-extended immediate (R97) -/
def execScCmpiNe (g t f : BitVec 4) (a : BitVec 6) (i : BitVec 8) (s : State) : Host.Outcome State Fault Refusal :=
  runWord (.scCmpiNe g t f a i) (compareWord (.scCmpiNe g t f a i) t f (fun x => decide ((x.g a) ≠ (i.signExtend 64)))) s

/-- cmpi.lt with the sign-extended immediate (R97) -/
def execScCmpiLt (g t f : BitVec 4) (a : BitVec 6) (i : BitVec 8) (s : State) : Host.Outcome State Fault Refusal :=
  runWord (.scCmpiLt g t f a i) (compareWord (.scCmpiLt g t f a i) t f (fun x => BitVec.slt (x.g a) (i.signExtend 64))) s

/-- cmpi.ltu with the sign-extended immediate (R97) -/
def execScCmpiLtu (g t f : BitVec 4) (a : BitVec 6) (i : BitVec 8) (s : State) : Host.Outcome State Fault Refusal :=
  runWord (.scCmpiLtu g t f a i) (compareWord (.scCmpiLtu g t f a i) t f (fun x => BitVec.ult (x.g a) (i.signExtend 64))) s

/-- cmpi.ge with the sign-extended immediate (R97) -/
def execScCmpiGe (g t f : BitVec 4) (a : BitVec 6) (i : BitVec 8) (s : State) : Host.Outcome State Fault Refusal :=
  runWord (.scCmpiGe g t f a i) (compareWord (.scCmpiGe g t f a i) t f (fun x => !(BitVec.slt (x.g a) (i.signExtend 64)))) s

/-- cmpi.geu with the sign-extended immediate (R97) -/
def execScCmpiGeu (g t f : BitVec 4) (a : BitVec 6) (i : BitVec 8) (s : State) : Host.Outcome State Fault Refusal :=
  runWord (.scCmpiGeu g t f a i) (compareWord (.scCmpiGeu g t f a i) t f (fun x => !(BitVec.ult (x.g a) (i.signExtend 64)))) s

/-- addi (R94) -/
def execScAddi (g : BitVec 4) (d a : BitVec 6) (i : BitVec 10) (s : State) : Host.Outcome State Fault Refusal :=
  runWord (.scAddi g d a i) (scalarImm (.scAddi g d a i) d a i (fun x y => x + y)) s

/-- andi (R94) -/
def execScAndi (g : BitVec 4) (d a : BitVec 6) (i : BitVec 10) (s : State) : Host.Outcome State Fault Refusal :=
  runWord (.scAndi g d a i) (scalarImm (.scAndi g d a i) d a i (fun x y => x &&& y)) s

/-- ori (R94) -/
def execScOri (g : BitVec 4) (d a : BitVec 6) (i : BitVec 10) (s : State) : Host.Outcome State Fault Refusal :=
  runWord (.scOri g d a i) (scalarImm (.scOri g d a i) d a i (fun x y => x ||| y)) s

/-- xori (R94) -/
def execScXori (g : BitVec 4) (d a : BitVec 6) (i : BitVec 10) (s : State) : Host.Outcome State Fault Refusal :=
  runWord (.scXori g d a i) (scalarImm (.scXori g d a i) d a i (fun x y => x ^^^ y)) s

/-- shli (R94) -/
def execScShli (g : BitVec 4) (d a i : BitVec 6) (s : State) : Host.Outcome State Fault Refusal :=
  runWord (.scShli g d a i) (scalarShift (.scShli g d a i) d a i (fun x n => x <<< n)) s

/-- shri, zero-filled (R94) -/
def execScShri (g : BitVec 4) (d a i : BitVec 6) (s : State) : Host.Outcome State Fault Refusal :=
  runWord (.scShri g d a i) (scalarShift (.scShri g d a i) d a i (fun x n => x >>> n)) s

/-- srai (R94) -/
def execScSrai (g : BitVec 4) (d a i : BitVec 6) (s : State) : Host.Outcome State Fault Refusal :=
  runWord (.scSrai g d a i) (scalarShift (.scSrai g d a i) d a i (fun x n => x.sshiftRight n)) s

/-- mini (R94) -/
def execScMini (g : BitVec 4) (d a : BitVec 6) (i : BitVec 10) (s : State) : Host.Outcome State Fault Refusal :=
  runWord (.scMini g d a i) (scalarImm (.scMini g d a i) d a i (minS)) s

/-- maxi (R94) -/
def execScMaxi (g : BitVec 4) (d a : BitVec 6) (i : BitVec 10) (s : State) : Host.Outcome State Fault Refusal :=
  runWord (.scMaxi g d a i) (scalarImm (.scMaxi g d a i) d a i (maxS)) s

/-- minui, the sign-extended immediate as unsigned (R94) -/
def execScMinui (g : BitVec 4) (d a : BitVec 6) (i : BitVec 10) (s : State) : Host.Outcome State Fault Refusal :=
  runWord (.scMinui g d a i) (scalarImm (.scMinui g d a i) d a i (minU)) s

/-- maxui, the sign-extended immediate as unsigned (R94) -/
def execScMaxui (g : BitVec 4) (d a : BitVec 6) (i : BitVec 10) (s : State) : Host.Outcome State Fault Refusal :=
  runWord (.scMaxui g d a i) (scalarImm (.scMaxui g d a i) d a i (maxU)) s

/-- imm: zero-extended at position 0, inserted at positions 1–3 (R95) -/
def execScImm (g : BitVec 4) (p : BitVec 2) (d : BitVec 6) (i : BitVec 16) (s : State) : Host.Outcome State Fault Refusal :=
  runWord (.scImm g p d i) (fun iss m =>
    scalarResult (.scImm g p d i) .A d
      (if p = 0 then i.setWidth 64 else setField (iss.x.g d) (16 * p.toNat) 16 i.toNat) iss m) s

end Sys2Proof.Machine
end

