-- ==== Sys2Proof/Machine/ScMem.lean ====
section
/-! DEFINITION. The SC slot: global and local loads and stores, and atomics (R98 to R105). -/

namespace Sys2Proof.Machine

/-! ### Forms -/

/-- The access size in bytes of a size field (R64). -/
def accessSize (z : BitVec 2) : Nat := 2 ^ z.toNat

/-- base + off6 · size (R98). -/
def scaledAddr (base : Dword) (x : BitVec 6) (size : Nat) : Dword := base + x.signExtend 64 * BitVec.ofNat 64 size

/-- The guard number of a load: the physical register it writes (R311). -/
def guardNumber (x : CoreState) (t : BitVec 6) : Nat := gPhys x.regs.roff t

/-- ld and ldu (R99, R100). -/
def globalLoadWord (i : Instr) (t b : BitVec 6) (y z : BitVec 2) (off : BitVec 6) (signed : Bool) : Body := fun iss m =>
  let x := iss.x
  let size := accessSize z
  match checkElems i iss false y false [(0, scaledAddr (x.g b) off size, size, signed)] with
  | .error e => .error e
  | .ok l => globalLoad i y l (x.destG t) none (some (guardNumber x t)) none iss m

/-- st (R99, R100): one piece of 16 bytes at most. -/
def globalStoreWord (i : Instr) (t b : BitVec 6) (y z : BitVec 2) (off : BitVec 6) : Body := fun iss m =>
  let x := iss.x
  let size := accessSize z
  match checkElems i iss true y false [(0, scaledAddr (x.g b) off size, size, false)] with
  | .error e => .error e
  | .ok l =>
    let bytes := (l.flatMap (fun e => e.1.cells)).zip (toBytes size (x.g t).toNat)
    globalStore i y l bytes 1 iss m

/-- ldc and ldcu with their qualifiers (R102, R103). -/
def localLoadWord (i : Instr) (t b : BitVec 6) (z : BitVec 2) (off : BitVec 6) (signed test take : Bool) : Body :=
  fun iss m =>
    let x := iss.x
    let size := accessSize z
    match localCheck i iss (scaledAddr (x.g b) off size) size test false with
    | .error e => .error e
    | .ok (sp, o) =>
      localLoad i .D sp [{ lane := 0, addr := o, size := size, signed := signed }] [o / 16] test take (x.destG t) none
        (some (guardNumber x t)) iss m

/-- stc and stc.set (R102, R103). -/
def localStoreWord (i : Instr) (t b : BitVec 6) (z : BitVec 2) (off : BitVec 6) (set : Bool) : Body := fun iss m =>
  let x := iss.x
  let size := accessSize z
  match localCheck i iss (scaledAddr (x.g b) off size) size set true with
  | .error e => .error e
  | .ok (sp, o) =>
    let bytes := ((List.range size).map (fun k => o + k)).zip (toBytes size (x.g t).toNat)
    storeWord i { id := 0, issue := 0, stream := iss.stream, slot := 0, origin := {}, space := sp, bytes := bytes,
                  sets := if set then [o / 16] else [] } [] 1 iss m

/-- The amo forms (R104, R105): a load and a store that are performed in one step when the load is delivered. The load is
held by a full ld counter, the store by a full st counter. -/
def atomicWord (i : Instr) (op : AmoOp) (d b v : BitVec 6) (y : BitVec 2) (z : BitVec 1) : Body := fun iss m =>
  let x := iss.x
  let size := if z = 0 then 4 else 8
  match checkElems i iss true y false [(0, x.g b, size, true)] with
  | .error e => .error e
  | .ok l =>
    if full (m.core iss.core).cnt.st then .error (.hold .plain)
    else
      let id := (m.core iss.core).flight.nextOp
      let amo : Amo := { op := op, operand := x.g v, expected := x.g d, store := id + 1 }
      match globalLoad i y l (x.destG d) none none (some amo) iss m with
      | .error e => .error e
      | .ok (iss', m') =>
        .ok (iss', m'.issueStore iss.core
          { id := 0, issue := 0, stream := iss.stream, slot := slotNum i, origin := iss.origin, space := .glob, bytes := [],
            rq := y, va := x.g b, waits := some id, remote := l.any (fun e => remoteCell m e.1.addr) } (vaRanges l))

/-! ### Instructions -/

/-- ld, sign-extending (R99, R100) -/
def execScLd (g : BitVec 4) (t b : BitVec 6) (y z : BitVec 2) (x : BitVec 6) (s : State) : Host.Outcome State Fault Refusal :=
  runWord (.scLd g t b y z x) (globalLoadWord (.scLd g t b y z x) t b y z x true) s

/-- ldu, zero-extending (R99, R100) -/
def execScLdu (g : BitVec 4) (t b : BitVec 6) (y z : BitVec 2) (x : BitVec 6) (s : State) : Host.Outcome State Fault Refusal :=
  runWord (.scLdu g t b y z x) (globalLoadWord (.scLdu g t b y z x) t b y z x false) s

/-- st (R99, R100) -/
def execScSt (g : BitVec 4) (t b : BitVec 6) (y z : BitVec 2) (x : BitVec 6) (s : State) : Host.Outcome State Fault Refusal :=
  runWord (.scSt g t b y z x) (globalStoreWord (.scSt g t b y z x) t b y z x) s

/-- ldc (R102, R103) -/
def execScLdc (g : BitVec 4) (t b : BitVec 6) (z : BitVec 2) (x : BitVec 6) (s : State) : Host.Outcome State Fault Refusal :=
  runWord (.scLdc g t b z x) (localLoadWord (.scLdc g t b z x) t b z x true false false) s

/-- ldc.fe (R102, R103) -/
def execScLdcFe (g : BitVec 4) (t b : BitVec 6) (z : BitVec 2) (x : BitVec 6) (s : State) : Host.Outcome State Fault Refusal :=
  runWord (.scLdcFe g t b z x) (localLoadWord (.scLdcFe g t b z x) t b z x true true false) s

/-- ldc.take (R102, R103) -/
def execScLdcTake (g : BitVec 4) (t b : BitVec 6) (z : BitVec 2) (x : BitVec 6) (s : State) : Host.Outcome State Fault Refusal :=
  runWord (.scLdcTake g t b z x) (localLoadWord (.scLdcTake g t b z x) t b z x true true true) s

/-- ldcu (R102, R103) -/
def execScLdcu (g : BitVec 4) (t b : BitVec 6) (z : BitVec 2) (x : BitVec 6) (s : State) : Host.Outcome State Fault Refusal :=
  runWord (.scLdcu g t b z x) (localLoadWord (.scLdcu g t b z x) t b z x false false false) s

/-- ldcu.fe (R102, R103) -/
def execScLdcuFe (g : BitVec 4) (t b : BitVec 6) (z : BitVec 2) (x : BitVec 6) (s : State) : Host.Outcome State Fault Refusal :=
  runWord (.scLdcuFe g t b z x) (localLoadWord (.scLdcuFe g t b z x) t b z x false true false) s

/-- ldcu.take (R102, R103) -/
def execScLdcuTake (g : BitVec 4) (t b : BitVec 6) (z : BitVec 2) (x : BitVec 6) (s : State) : Host.Outcome State Fault Refusal :=
  runWord (.scLdcuTake g t b z x) (localLoadWord (.scLdcuTake g t b z x) t b z x false true true) s

/-- stc: the full-empty bit is unchanged (R102, R103) -/
def execScStc (g : BitVec 4) (t b : BitVec 6) (z : BitVec 2) (x : BitVec 6) (s : State) : Host.Outcome State Fault Refusal :=
  runWord (.scStc g t b z x) (localStoreWord (.scStc g t b z x) t b z x false) s

/-- stc.set: the granule becomes full, no earlier than its data (R103) -/
def execScStcSet (g : BitVec 4) (t b : BitVec 6) (z : BitVec 2) (x : BitVec 6) (s : State) : Host.Outcome State Fault Refusal :=
  runWord (.scStcSet g t b z x) (localStoreWord (.scStcSet g t b z x) t b z x true) s

/-- amo.add (R104, R105) -/
def execScAmoAdd (g : BitVec 4) (d b s1 : BitVec 6) (y : BitVec 2) (z : BitVec 1) (s : State) :
    Host.Outcome State Fault Refusal :=
  runWord (.scAmoAdd g d b s1 y z) (atomicWord (.scAmoAdd g d b s1 y z) .add d b s1 y z) s

/-- amo.and (R104, R105) -/
def execScAmoAnd (g : BitVec 4) (d b s1 : BitVec 6) (y : BitVec 2) (z : BitVec 1) (s : State) :
    Host.Outcome State Fault Refusal :=
  runWord (.scAmoAnd g d b s1 y z) (atomicWord (.scAmoAnd g d b s1 y z) .and d b s1 y z) s

/-- amo.or (R104, R105) -/
def execScAmoOr (g : BitVec 4) (d b s1 : BitVec 6) (y : BitVec 2) (z : BitVec 1) (s : State) : Host.Outcome State Fault Refusal :=
  runWord (.scAmoOr g d b s1 y z) (atomicWord (.scAmoOr g d b s1 y z) .or d b s1 y z) s

/-- amo.xor (R104, R105) -/
def execScAmoXor (g : BitVec 4) (d b s1 : BitVec 6) (y : BitVec 2) (z : BitVec 1) (s : State) :
    Host.Outcome State Fault Refusal :=
  runWord (.scAmoXor g d b s1 y z) (atomicWord (.scAmoXor g d b s1 y z) .xor d b s1 y z) s

/-- amo.max (R104, R105) -/
def execScAmoMax (g : BitVec 4) (d b s1 : BitVec 6) (y : BitVec 2) (z : BitVec 1) (s : State) :
    Host.Outcome State Fault Refusal :=
  runWord (.scAmoMax g d b s1 y z) (atomicWord (.scAmoMax g d b s1 y z) .max d b s1 y z) s

/-- amo.min (R104, R105) -/
def execScAmoMin (g : BitVec 4) (d b s1 : BitVec 6) (y : BitVec 2) (z : BitVec 1) (s : State) :
    Host.Outcome State Fault Refusal :=
  runWord (.scAmoMin g d b s1 y z) (atomicWord (.scAmoMin g d b s1 y z) .min d b s1 y z) s

/-- amo.maxu (R104, R105) -/
def execScAmoMaxu (g : BitVec 4) (d b s1 : BitVec 6) (y : BitVec 2) (z : BitVec 1) (s : State) :
    Host.Outcome State Fault Refusal :=
  runWord (.scAmoMaxu g d b s1 y z) (atomicWord (.scAmoMaxu g d b s1 y z) .maxu d b s1 y z) s

/-- amo.minu (R104, R105) -/
def execScAmoMinu (g : BitVec 4) (d b s1 : BitVec 6) (y : BitVec 2) (z : BitVec 1) (s : State) :
    Host.Outcome State Fault Refusal :=
  runWord (.scAmoMinu g d b s1 y z) (atomicWord (.scAmoMinu g d b s1 y z) .minu d b s1 y z) s

/-- amo.swap (R104, R105) -/
def execScAmoSwap (g : BitVec 4) (d b s1 : BitVec 6) (y : BitVec 2) (z : BitVec 1) (s : State) :
    Host.Outcome State Fault Refusal :=
  runWord (.scAmoSwap g d b s1 y z) (atomicWord (.scAmoSwap g d b s1 y z) .swap d b s1 y z) s

/-- amo.cas (R104, R105) -/
def execScAmoCas (g : BitVec 4) (d b s1 : BitVec 6) (y : BitVec 2) (z : BitVec 1) (s : State) :
    Host.Outcome State Fault Refusal :=
  runWord (.scAmoCas g d b s1 y z) (atomicWord (.scAmoCas g d b s1 y z) .cas d b s1 y z) s

end Sys2Proof.Machine
end

