-- ==== Sys2Proof/Machine/ScSys.lean ====
section
/-! DEFINITION. The SC slot: control registers, shape fields, delivered values, traps and the return from one, the statistics
queue, zones, handle entries and the dual check (R27 to R29, R106 to R114). -/

namespace Sys2Proof.Machine

/-! ### Control registers (R27, R28) -/

/-- The value sc.mfc reads: unused selectors and fields not shown read zero. -/
def readControl (m : Mach) (c : Nat) (sel : Nat) : Dword :=
  let x := m.core c
  match sel with
  | 0x000 => BitVec.ofNat 64 c
  | 0x001 => BitVec.ofNat 64 (inCluster c + 4 * (clusterOf c % 4) + 16 * dieOf c + 1024 * m.fleet.number.toNat)
  | 0x002 => x.ctl.dmem.setWidth 64
  | 0x010 => x.regs.roff.setWidth 64
  | 0x011 => x.ctl.lattab.setWidth 64
  | 0x012 => x.ctl.cover.setWidth 64
  | 0x020 => BitVec.ofNat 64 (x.region.isSome.toNat + 2 * x.ctl.reason.toNat + 2 ^ 16 * x.ctl.rollTick.toNat)
  | 0x021 => x.ctl.regcnt
  | 0x030 => x.queues.stqh.setWidth 64
  | 0x031 => x.queues.stqt.setWidth 64
  | 0x040 => x.trap.tcause
  | 0x041 => x.trap.taddr
  | 0x042 => x.trap.tprov
  | 0x043 => x.trap.tval
  | 0x044 => x.trap.epc
  | 0x050 => m.vclk.setWidth 64
  | 0x051 => x.ctl.lease.setWidth 64
  | 0x060 => x.ctl.seed.setWidth 64
  | 0x061 => x.ctl.frm.setWidth 64
  | 0x070 => x.ctl.keyid.setWidth 64
  | 0x071 => x.ctl.space.setWidth 64
  | 0x080 => BitVec.ofNat 64 (x.front.fed.toNat + 2 * x.front.bound.toNat + 4 * x.front.paused.toNat
      + 256 * x.front.primary.length + 65536 * x.front.secondary.length)
  | n => if 0x090 ≤ n ∧ n ≤ 0x09B then Sparse.get 0 (m.die (dieOf c)).rsv (n - 0x090) else 0

/-- Registers that only monitor mode may write (R27 MW). -/
def monitorWritable (sel : Nat) : Bool :=
  sel = 0x002 || (0x040 ≤ sel && sel ≤ 0x044) || sel = 0x070 || sel = 0x071 || (0x090 ≤ sel && sel ≤ 0x09B)

/-- The value a residency register keeps (R27, R28): 16 KiB units; enable, ways up to 7, sampling numerator. -/
def residencyValue (n : Nat) (v : Dword) : Dword :=
  if n < 8 then BitVec.ofNat 64 (v.toNat / 2 ^ 14 * 2 ^ 14)
  else BitVec.ofNat 64 (field v 0 1 + 2 * min 7 (field v 1 4) + 256 * field v 8 8)

/-- Service code clears domain memberships; a bit written as 1 never sets one, and the other bits ignore writes (R244). -/
def Mach.writeDmem (m : Mach) (c : Nat) (v : Dword) : Mach :=
  (List.range 5).foldl (fun m k =>
    if bit (m.core c).ctl.dmem k && !(bit v k) then m.leaveDomain c (k + 1) else m) m

/-- Write a control register under its access rules (R27, R28); read-only and unused ones ignore it. -/
def Mach.writeControl (m : Mach) (c : Nat) (sel : Nat) (v : Dword) : Mach :=
  let ctl := fun (f : Ctl → Ctl) => m.modCore c (fun x => { x with ctl := f x.ctl })
  let trap := fun (f : TrapRegs → TrapRegs) => m.modCore c (fun x => { x with trap := f x.trap })
  match sel with
  | 0x002 => m.writeDmem c v
  | 0x010 => m.modCore c (fun x => { x with regs.roff := v.setWidth 4 })
  | 0x040 => trap (fun t => { t with tcause := v &&& 0x3FF })
  | 0x041 => trap (fun t => { t with taddr := v })
  | 0x042 => trap (fun t => { t with tprov := v })
  | 0x043 => trap (fun t => { t with tval := v })
  | 0x044 => trap (fun t => { t with epc := v &&& ~~~(0x1E : Dword) })
  | 0x051 => ctl (fun k => { k with lease := if v.setWidth 16 = (0 : BitVec 16) then 1 else v.setWidth 16 })
  | 0x060 => ctl (fun k => { k with seed := v.setWidth 32 })
  | 0x061 => ctl (fun k => if v.setWidth 2 = (3 : BitVec 2) then k else { k with frm := v.setWidth 2 })
  | 0x070 => ctl (fun k => { k with keyid := v.setWidth 6 })
  | 0x071 => ctl (fun k => { k with space := v.setWidth 36 })
  | 0x080 => m.modCore c (fun x => { x with front.paused := bit v 2 })
  | n => if 0x090 ≤ n ∧ n ≤ 0x09B then
      m.modDie (dieOf c) (fun d => { d with rsv := Sparse.set 0 d.rsv (n - 0x090) (residencyValue (n - 0x090) v) })
    else m

/-- mfc (R106). -/
def execScMfc (g : BitVec 4) (d : BitVec 6) (s1 : BitVec 12) (s : State) : Host.Outcome State Fault Refusal :=
  runWord (.scMfc g d s1) (fun iss m =>
    scalarResult (.scMfc g d s1) .E d (readControl iss.pre iss.core s1.toNat) iss m) s

/-- mtc (R27 to R29, R106): outside monitor mode a write of an MW register is a protection trap. -/
def execScMtc (g : BitVec 4) (d : BitVec 6) (s1 : BitVec 12) (s : State) : Host.Outcome State Fault Refusal :=
  runWord (.scMtc g d s1) (fun iss m =>
    if monitorWritable s1.toNat && !iss.x.trap.monitor then .error (slotTrap (.scMtc g d s1) 5)
    else .ok (iss, m.writeControl iss.core s1.toNat (iss.x.g d))) s

/-- shw: one field of one shadow; [11:10] the engine, [9:8] the shape register, [7:0] the field (R107). -/
def execScShw (g : BitVec 4) (d : BitVec 6) (s1 : BitVec 12) (s : State) : Host.Outcome State Fault Refusal :=
  runWord (.scShw g d s1) (fun iss m =>
    let e := field s1 10 2
    let r := field s1 8 2
    .ok (iss, m.modCore iss.core (fun x =>
      let p := x.regs.shape e r
      x.setShape e r { p with shadow := putField e p.shadow (field s1 0 8) (iss.x.g d).toNat }))) s

/-! ### Values delivered by the CT word (R108) -/

/-- The CT word of the bundle, where its guard reads true. -/
def ctOf (iss : Issue) : Option Instr :=
  (iss.words.find? (fun w => w.1 = iss.stream && decide (slotOf w.2 = some .ct) && guarded iss.x w.2)).map (·.2)

/-- ctv: the return address of a call, the doubleword that an arm reads (which the arm itself delivers), else zero. -/
def execScCtv (g : BitVec 4) (d : BitVec 6) (s : State) : Host.Outcome State Fault Refusal :=
  runWord (.scCtv g d) (fun iss m =>
    match ctOf iss with
    | some (.ctCall ..) | some (.ctCallr ..) => scalarResult (.scCtv g d) .A d (iss.origin.addr + 128) iss m
    | some (.ctArm ..) => .ok (iss, m)
    | _ => scalarResult (.scCtv g d) .A d 0 iss m) s

/-! ### Traps and the return from one (R109, R110) -/

/-- A trap that follows its bundle; it waits for a free trap record (R381). In a region sc.brk rolls back with TRAP
(R126). -/
def trapAfter (cause : BitVec 8) (code : BitVec 12) : Body := fun iss m =>
  if (openRegionOf iss m).isSome then .error (.roll 5)
  else if !iss.x.trap.monitor && 31 ≤ iss.x.queues.trapq.length then .error (.hold .plain)
  else .ok ({ iss with after := some (iss.stream, { cause := cause, tval := code.setWidth 64 }) }, m)

/-- svc: non-fatal 0x0A after the bundle takes effect (R109). -/
def execScSvc (g : BitVec 4) (s1 : BitVec 12) (s : State) : Host.Outcome State Fault Refusal :=
  runWord (.scSvc g s1) (trapAfter 0x0A s1) s

/-- trap: fatal 0x0A, the bundle suppressed (R109). -/
def execScTrap (g : BitVec 4) (s1 : BitVec 12) (s : State) : Host.Outcome State Fault Refusal :=
  runWord (.scTrap g s1) (fun _ _ => .error (.trap { cause := 0x0A, fatal := true, tval := s1.setWidth 64 })) s

/-- brk: 0x0B after the bundle takes effect (R109). -/
def execScBrk (g : BitVec 4) (s1 : BitVec 12) (s : State) : Host.Outcome State Fault Refusal :=
  runWord (.scBrk g s1) (trapAfter 0x0B s1) s

/-- eret: protection outside monitor mode; otherwise the return of R110 at the end of the issue. -/
def execScEret (g : BitVec 4) (s : State) : Host.Outcome State Fault Refusal :=
  runWord (.scEret g) (fun iss m =>
    if iss.x.trap.monitor then .ok ({ iss with eret := true }, m) else .error (slotTrap (.scEret g) 5)) s

/-! ### The statistics queue (R111) -/

/-- stqpop: the address of the head record, and STQH advances; zero when the queue is empty. Class E. -/
def execScStqpop (g : BitVec 4) (d : BitVec 6) (s : State) : Host.Outcome State Fault Refusal :=
  runWord (.scStqpop g d) (fun iss m =>
    let q := iss.x.queues
    if q.stqh = q.stqt then scalarResult (.scStqpop g d) .E d 0 iss m
    else scalarResult (.scStqpop g d) .E d (iss.x.reg.statVa + BitVec.ofNat 64 (32 * q.stqh.toNat)) iss
      (m.modCore iss.core (fun x => { x with queues.stqh := x.queues.stqh + 1 }))) s

/-! ### Zones, handle entries and the dual check (R112 to R114) -/

/-- Set the range of a zone, its epochs kept (R112). -/
def setZone (iss : Issue) (k : Nat) (base limit : Dword) (m : Mach) : Mach :=
  m.modCore iss.core (fun x => x.modZone k (fun z => { z with base := base, limit := limit }))

/-- The zone number of a zdef lies in 1–7 (R112). -/
def zoneNumber (d : BitVec 6) : Bool := d ≠ 0 && d.toNat ≤ 7

/-- zdef (R112). -/
def execScZdef (g : BitVec 4) (d a b : BitVec 6) (s : State) : Host.Outcome State Fault Refusal :=
  runWord (.scZdef g d a b) (fun iss m =>
    if zoneNumber d then .ok (iss, setZone iss d.toNat (iss.x.g a) (iss.x.g b) m)
    else .error (slotTrap (.scZdef g d a b) 5)) s

/-- zdefh: base and limit of a handle entry whose seal is right (R112). -/
def execScZdefh (g : BitVec 4) (d a b : BitVec 6) (s : State) : Host.Outcome State Fault Refusal :=
  runWord (.scZdefh g d a b) (fun iss m =>
    if zoneNumber d then
      match handleFor (.scZdefh g d a b) (iss.x.g a) iss with
      | .ok (base, limit, _) => .ok (iss, setZone iss d.toNat base limit m)
      | .error e => .error e
    else .error (slotTrap (.scZdefh g d a b) 5)) s

/-- An address has a translation under SPACE. DESIGN CHOICE (log 103): by its low 57 bits; what sc.hdef does with a base or a
limit that is not canonical the spec does not say. -/
def translated (iss : Issue) (va : Dword) : Bool :=
  match iss.pre.translate iss.core va with
  | .leaf _ _ => true
  | _ => false

/-- hdef: a sealed entry of 32 bytes, written as one owned global store (R113, R238). -/
def execScHdef (g : BitVec 4) (d a b : BitVec 6) (s : State) : Host.Outcome State Fault Refusal :=
  runWord (.scHdef g d a b) (fun iss m =>
    let x := iss.x
    let i : Instr := .scHdef g d a b
    match checkElems i iss true 0 false [(0, x.g d, 32, false)] with
    | .error e => .error e
    | .ok l =>
      if x.g b < x.g a then .error (slotTrap i 5)
      else if !(translated iss (x.g a)) then .error (.trap { cause := 3, fatal := true, taddr := x.g a, tval := tvalOf i })
      else if !(translated iss (x.g b)) then .error (.trap { cause := 3, fatal := true, taddr := x.g b, tval := tvalOf i })
      else
        let e := toBytes 8 (x.g a).toNat ++ toBytes 8 (x.g b).toNat ++ toBytes 8 0
          ++ toBytes 8 (sealOf x (x.g a) (x.g b) 0).toNat
        globalStore i 0 l ((l.flatMap (fun e => e.1.cells)).zip e) 2 iss m) s

/-- cmpx: the dual-check mismatch when g[a] and g[b] differ (R114). -/
def execScCmpx (g : BitVec 4) (d a b : BitVec 6) (s : State) : Host.Outcome State Fault Refusal :=
  runWord (.scCmpx g d a b) (fun iss m =>
    if iss.x.g a = iss.x.g b then .ok (iss, m)
    else .error (.trap { cause := 8, tval := iss.x.g a ^^^ iss.x.g b })) s

end Sys2Proof.Machine
end

