-- ==== Sys2Proof/Machine/Vector.lean ====
section
/-! DEFINITION. What the vector words share: format tags and their checks (R19 to R22, R134), element positions (R32, R33,
R133), results under a lane mask (R132) and rounding by lane (R135). -/

namespace Sys2Proof.Machine

/-! ### Tags (R19, R133) -/

abbrev tUntyped : BitVec 5 := 0
abbrev tFp32 : BitVec 5 := 1
abbrev tBf16 : BitVec 5 := 2
abbrev tFp16 : BitVec 5 := 3
abbrev tI32 : BitVec 5 := 4
abbrev tI16 : BitVec 5 := 5
abbrev tUi16 : BitVec 5 := 6
abbrev tI8 : BitVec 5 := 7
abbrev tPx12 : BitVec 5 := 8
abbrev tSx : BitVec 5 := 9

/-- Elements per lane of a tag (R32, R133). -/
def perLane (t : BitVec 5) : Nat := if t = tI8 then 4 else if t = tBf16 ∨ t = tFp16 ∨ t = tI16 ∨ t = tUi16 then 2 else 1

/-- The element width of a tag. -/
def elemWidth (t : BitVec 5) : Nat := if t = tPx12 then 12 else 32 / perLane t

/-- The element positions of a tag (R133). -/
def positions (t : BitVec 5) : Nat := if t = tPx12 then 160 else 64 * perLane t

/-- The tag's integers are signed. -/
def tagSigned (t : BitVec 5) : Bool := t = tI32 || t = tI16 || t = tI8

/-- The bits of the element at a position (R32, R33, R133). -/
def elementAt (t : BitVec 5) (d : VData) (pos : Nat) : Nat := field d (elemWidth t * pos) (elemWidth t)

/-- The integer of an element's bits under a tag. -/
def elementInt (t : BitVec 5) (v : Nat) : Int := if tagSigned t then signedOf (elemWidth t) v else (v : Int)

/-! ### Tag checks (R22, R134) -/

/-- The format-tag trap: the tag found, the register that carries it, whether R22 refuses the destination. -/
def tagTrap (i : Instr) (x : CoreState) (r : BitVec 5) (destination : Bool) : Stop :=
  .trap { cause := 2, tval := BitVec.ofNat 64 ((x.v r).tag.toNat + 32 * vPhys x.regs.roff r + 1024 * destination.toNat
    + 2 ^ 32 * slotNum i) }

/-- A source must carry a tag that its operand accepts. -/
def checkTag (i : Instr) (x : CoreState) (r : BitVec 5) (accepts : BitVec 5 → Bool) : Option Stop :=
  if accepts (x.v r).tag then none else some (tagTrap i x r false)

/-- The first check that fails. -/
def firstCheck (l : List (Option Stop)) : Option Stop := l.findSome? id

/-- A write under a mask that is not all ones meets a destination of another tag, not untyped (R22). -/
def checkDest (i : Instr) (x : CoreState) (d : BitVec 5) (mask : BitVec 64) (tag : BitVec 5) : Option Stop :=
  if mask ≠ BitVec.allOnes 64 && (x.v d).tag ≠ tag && (x.v d).tag ≠ tUntyped then some (tagTrap i x d true) else none

/-! ### Results (R75, R132) -/

/-- The vector result of a word: lanes under its mask, its tag, its numerical events; R22 comes after the source checks. -/
def vectorResult (i : Instr) (k : LatClass) (d : BitVec 5) (mask : BitVec 64) (tag : BitVec 5) (value : VData)
    (t : Tally) : Body := fun iss m =>
  match checkDest i iss.standing d mask tag with
  | some e => .error e
  | none => .ok ({ iss with events := iss.events ++ t.events (slotNum i) iss.stream },
      m.modCore iss.core (fun y => pushResult y iss.stream (slotNum i) k (iss.x.destV d) value mask (some tag)))

/-- Checks of sources before a result, in their order. DESIGN CHOICE (log 104): va, then vb, then vd; where va and vb disagree, vb
is the register that TVAL names. -/
def afterChecks (l : List (Option Stop)) (b : Body) : Body := fun iss m =>
  match firstCheck l with
  | some e => .error e
  | none => b iss m

/-- Lanes selected by a mask. -/
def selected (mask : BitVec 64) : List Nat := (List.range 64).filter (fun n => bit mask n)

/-- The mode of FRM for an element of a lane (R38, R40, R135). -/
def laneMode (iss : Issue) (rnd : BitVec 2) (ln e : Nat) : Mode :=
  modeOf rnd iss.x.ctl.frm (hash40 iss.x.ctl.seed iss.core ln e)

/-- A lane of results, elements packed from the least significant end (R32). -/
def packLane (w : Nat) (l : List Nat) : BitVec 32 := BitVec.ofNat 32 (l.foldr (fun v acc => v % 2 ^ w + 2 ^ w * acc) 0)

/-- An element-wise result on every position of a tag: the data and the events of the selected lanes (R60, R133). -/
def mapElements (tag : BitVec 5) (mask : BitVec 64) (f : Nat → Scored) : VData × Tally :=
  let E := perLane tag
  let scored := (selected mask).map (fun n => (n, (List.range E).map (fun e => f (E * n + e))))
  let value := ofLanes (fun n => match scored.find? (fun s => s.1 = n) with
    | some s => packLane (elemWidth tag) (s.2.map (·.bits))
    | none => 0)
  (value, tally (scored.flatMap (fun s => (s.2.mapIdx (fun e r => (r.events, E * s.1 + e))))))

end Sys2Proof.Machine
end

