-- ==== Sys2Proof/Machine/VecFp.lean ====
section
/-! DEFINITION. VX and VY: floating-point arithmetic, comparisons and reductions (R57, R136 to R138, R142 to R145). -/

namespace Sys2Proof.Machine

/-! ### Operations on one lane (R136, R137) -/

/-- An operation on the bits of lanes a, b and c in a rounding mode. -/
abbrev FpOp := Mode → Nat → Nat → Nat → Scored

def fpAdd : FpOp := fun md a b _ =>
  let x := fp32.unpack a; let y := fp32.unpack b
  fp32.finish md [x, y] (x.add y)

def fpSub : FpOp := fun md a b _ =>
  let x := fp32.unpack a; let y := fp32.unpack b
  fp32.finish md [x, y] (x.add y.opposite)

def fpMul : FpOp := fun md a b _ =>
  let x := fp32.unpack a; let y := fp32.unpack b
  fp32.finish md [x, y] (x.mul y)

def fpFma : FpOp := fun md a b c =>
  let x := fp32.unpack a; let y := fp32.unpack b; let z := fp32.unpack c
  fp32.finish md [x, y, z] (fmaNum x y z)

def fpFms : FpOp := fun md a b c =>
  let x := fp32.unpack a; let y := fp32.unpack b; let z := fp32.unpack c
  fp32.finish md [x, y, z] (fmaNum x y z.opposite)

/-- FMin and FMax: the other operand where one is a NaN, the canonical NaN where both are (R137). -/
def fpPick (takeFirst : Num → Num → Bool) : FpOp := fun _ a b _ =>
  let x := fp32.unpack a; let y := fp32.unpack b
  let bits := if x.isNan then (if y.isNan then fp32.qnan else b)
    else if y.isNan then a else if takeFirst x y then a else b
  { bits := bits, events := readEvents [x, y] }

def fpMin : FpOp := fpPick (fun x y => !(y.below x))
def fpMax : FpOp := fpPick (fun x y => !(x.below y))

/-- fabs and fneg: a NaN gives the canonical NaN (R136). -/
def fpSign (f : Nat → Nat) : FpOp := fun _ a _ _ =>
  let x := fp32.unpack a
  { bits := if x.isNan then fp32.qnan else f a, events := readEvents [x] }

def fpAbs : FpOp := fpSign (fun a => a % 2 ^ 31)
def fpNeg : FpOp := fpSign (fun a => (a + 2 ^ 31) % 2 ^ 32)

/-- fscale: a · 2^n rounded once. Beyond ±600 the result is that of ±600: past the range of FP32 either way. -/
def fpScale : FpOp := fun md a b _ =>
  let n := max (-600) (min 600 (signedOf 32 b))
  match fp32.unpack a with
  | .fin s v e => fp32.round md s v (e + n)
  | x => fp32.finish md [x] (some x)

/-! ### Forms -/

/-- A V.R word of R136: sources tagged fp32; `useB` and `useC` say which of vb and vd it reads. -/
def fpWord (i : Instr) (op : FpOp) (d a : BitVec 5) (b : Option (BitVec 5)) (scalar : Option (BitVec 6)) (useC : Bool)
    (q : BitVec 3) : Body := fun iss m =>
  let x := iss.x
  let fp := fun (r : BitVec 5) => checkTag i x r (fun t => t = tFp32)
  afterChecks [fp a, b.bind fp, if useC then checkTag i iss.standing d (fun t => t = tFp32) else none] (fun iss m =>
    let va := (x.v a).data
    let vb := fun n => match b, scalar with
      | some r, _ => (lane (x.v r).data n).toNat
      | none, some r => field (x.g r) 0 32
      | none, none => 0
    let vc := fun n => if useC then (lane (x.v d).data n).toNat else 0
    let r := mapElements tFp32 (x.q q) (fun n => op (laneMode iss 3 n 0) (lane va n).toNat (vb n) (vc n))
    vectorResult i .H d (x.q q) tFp32 r.1 r.2 iss m) iss m

/-! ### Comparisons (R142, R143) -/

/-- Write a comparison: qt takes q AND c, qf takes q AND NOT c; qt prevails where both are one register. -/
def maskResult (i : Instr) (t f : BitVec 3) (mask : BitVec 64) (c : Nat → Bool) (tl : Tally) : Body := fun iss m =>
  let val := fun (want : Bool) => (ofMask (fun n => bit mask n && (c n == want))).setWidth 2048
  .ok ({ iss with events := iss.events ++ tl.events (slotNum i) iss.stream },
    m.modCore iss.core (fun y =>
      let y := if t = f then y else pushResult y iss.stream (slotNum i) .F (iss.x.destQ f) (val false)
      pushResult y iss.stream (slotNum i) .F (iss.x.destQ t) (val true)))

/-- An fcmp word. -/
def fcmpWord (i : Instr) (t f : BitVec 3) (a b : BitVec 5) (q : BitVec 3) (c : Num → Num → Bool) : Body := fun iss m =>
  let x := iss.x
  let fp := fun (r : BitVec 5) => checkTag i x r (fun t => t = tFp32)
  let num := fun (r : BitVec 5) (n : Nat) => fp32.unpack (lane (x.v r).data n).toNat
  afterChecks [fp a, fp b] (maskResult i t f (x.q q) (fun n => c (num a n) (num b n))
    (tally ((selected (x.q q)).map (fun n => (readEvents [num a n, num b n], n))))) iss m

/-- An icmp word. -/
def icmpWord (i : Instr) (t f : BitVec 3) (a b : BitVec 5) (q : BitVec 3) (c : BitVec 32 → BitVec 32 → Bool) : Body :=
  fun iss m =>
    let x := iss.x
    let int := fun (r : BitVec 5) => checkTag i x r (fun t => t = tI32)
    afterChecks [int a, int b] (maskResult i t f (x.q q) (fun n => c (lane (x.v a).data n) (lane (x.v b).data n)) [])
      iss m

/-! ### Reductions (R57, R58, R144, R145) -/

/-- The result of a reduction fills all 64 lanes and replaces the tag; R22 does not apply. -/
def reduceResult (i : Instr) (d : BitVec 5) (tag : BitVec 5) (v : Nat) (t : Tally) : Body := fun iss m =>
  .ok ({ iss with events := iss.events ++ t.events (slotNum i) iss.stream },
    m.modCore iss.core (fun y => pushResult y iss.stream (slotNum i) .I (iss.x.destV d)
      (ofLanes (fun _ => BitVec.ofNat 32 v)) (BitVec.allOnes 64) (some tag)))

/-- One level of the tree of R57: sums of neighbours at level L, with the events of each addition under the lowest source
lane that feeds it. -/
def sumLevel (mode : Nat → Nat → Mode) (L : Nat) (xs : List Nat) : List Nat × List (List (BitVec 8) × Nat) :=
  let n := xs.length / 2
  let rs := (List.range n).map (fun i => fpAdd (mode i L) (xs[2 * i]?.getD 0) (xs[2 * i + 1]?.getD 0) 0)
  (rs.map (·.bits), rs.mapIdx (fun i r => (r.events, 2 ^ L * i)))

/-- The six levels of the tree, taken in order. -/
def sumTree (mode : Nat → Nat → Mode) : Nat → Nat → List Nat → List Nat × List (List (BitVec 8) × Nat)
  | 0, _, xs => (xs, [])
  | k + 1, L, xs =>
    let r := sumLevel mode L xs
    let s := sumTree mode k (L + 1) r.1
    (s.1, r.2 ++ s.2)

/-- fsum: an excluded lane contributes −0 (R57). -/
def fsumOf (mode : Nat → Nat → Mode) (mask : BitVec 64) (d : VData) : Nat × Tally :=
  let xs := (List.range 64).map (fun n => if bit mask n then (lane d n).toNat else fp32.zero true)
  let r := sumTree mode 6 1 xs
  (r.1.headD 0, tally r.2)

/-- fmaxr: the greatest selected lane that is not a NaN (R145); one occurrence for each signalling NaN it selects. -/
def fmaxOf (mask : BitVec 64) (d : VData) : Nat × Tally :=
  let sel := (selected mask).map (fun n => (n, (lane d n).toNat))
  let t := tally (sel.map (fun e => (readEvents [fp32.unpack e.2], e.1)))
  let vals := (sel.map (·.2)).filter (fun v => !(fp32.unpack v).isNan)
  match sel, vals with
  | [], _ => (fp32.inf true, t)
  | _, [] => (fp32.qnan, t)
  | _, v :: r => (r.foldl (fun acc v => if (fp32.unpack acc).below (fp32.unpack v) then v else acc) v, t)

/-- An integer reduction: excluded lanes contribute the neutral value (R58). -/
def ireduceOf (neutral : BitVec 32) (f : BitVec 32 → BitVec 32 → BitVec 32) (mask : BitVec 64) (d : VData) : Nat :=
  ((selected mask).foldl (fun acc n => f acc (lane d n)) neutral).toNat

/-- A reduction word. -/
def reduceWord (i : Instr) (d a : BitVec 5) (q : BitVec 3) (tag : BitVec 5) (f : Issue → BitVec 64 → VData → Nat × Tally) :
    Body := fun iss m =>
  let x := iss.x
  afterChecks [checkTag i x a (fun t => t = tag)] (fun iss m =>
    let r := f iss (x.q q) (x.v a).data
    reduceResult i d tag r.1 r.2 iss m) iss m

/-! ### Instructions -/

/-- fadd (R136) -/
def execVFadd (sl : VSlot) (g : BitVec 4) (d a b : BitVec 5) (q : BitVec 3) (s : State) : Host.Outcome State Fault Refusal :=
  runWord (.vFadd sl g d a b q) (fpWord (.vFadd sl g d a b q) fpAdd d a (some b) none false q) s

/-- fsub (R136) -/
def execVFsub (sl : VSlot) (g : BitVec 4) (d a b : BitVec 5) (q : BitVec 3) (s : State) : Host.Outcome State Fault Refusal :=
  runWord (.vFsub sl g d a b q) (fpWord (.vFsub sl g d a b q) fpSub d a (some b) none false q) s

/-- fmul (R136) -/
def execVFmul (sl : VSlot) (g : BitVec 4) (d a b : BitVec 5) (q : BitVec 3) (s : State) : Host.Outcome State Fault Refusal :=
  runWord (.vFmul sl g d a b q) (fpWord (.vFmul sl g d a b q) fpMul d a (some b) none false q) s

/-- fma (R136) -/
def execVFma (sl : VSlot) (g : BitVec 4) (d a b : BitVec 5) (q : BitVec 3) (s : State) : Host.Outcome State Fault Refusal :=
  runWord (.vFma sl g d a b q) (fpWord (.vFma sl g d a b q) fpFma d a (some b) none true q) s

/-- fms (R136) -/
def execVFms (sl : VSlot) (g : BitVec 4) (d a b : BitVec 5) (q : BitVec 3) (s : State) : Host.Outcome State Fault Refusal :=
  runWord (.vFms sl g d a b q) (fpWord (.vFms sl g d a b q) fpFms d a (some b) none true q) s

/-- fmin (R136) -/
def execVFmin (sl : VSlot) (g : BitVec 4) (d a b : BitVec 5) (q : BitVec 3) (s : State) : Host.Outcome State Fault Refusal :=
  runWord (.vFmin sl g d a b q) (fpWord (.vFmin sl g d a b q) fpMin d a (some b) none false q) s

/-- fmax (R136) -/
def execVFmax (sl : VSlot) (g : BitVec 4) (d a b : BitVec 5) (q : BitVec 3) (s : State) : Host.Outcome State Fault Refusal :=
  runWord (.vFmax sl g d a b q) (fpWord (.vFmax sl g d a b q) fpMax d a (some b) none false q) s

/-- fabs (R136) -/
def execVFabs (sl : VSlot) (g : BitVec 4) (d a b : BitVec 5) (q : BitVec 3) (s : State) : Host.Outcome State Fault Refusal :=
  runWord (.vFabs sl g d a b q) (fpWord (.vFabs sl g d a b q) fpAbs d a (none) none false q) s

/-- fneg (R136) -/
def execVFneg (sl : VSlot) (g : BitVec 4) (d a b : BitVec 5) (q : BitVec 3) (s : State) : Host.Outcome State Fault Refusal :=
  runWord (.vFneg sl g d a b q) (fpWord (.vFneg sl g d a b q) fpNeg d a (none) none false q) s

/-- fscale (R136) -/
def execVFscale (sl : VSlot) (g : BitVec 4) (d a b : BitVec 5) (q : BitVec 3) (s : State) : Host.Outcome State Fault Refusal :=
  runWord (.vFscale sl g d a b q) (fpWord (.vFscale sl g d a b q) fpScale d a (some b) none false q) s

/-- fadd.s: every lane takes g[gs][31:0] (R138) -/
def execVFaddS (sl : VSlot) (g : BitVec 4) (d a : BitVec 5) (s1 : BitVec 6) (q : BitVec 3) (s : State) :
    Host.Outcome State Fault Refusal :=
  runWord (.vFaddS sl g d a s1 q) (fpWord (.vFaddS sl g d a s1 q) fpAdd d a none (some s1) false q) s

/-- fsub.s: every lane takes g[gs][31:0] (R138) -/
def execVFsubS (sl : VSlot) (g : BitVec 4) (d a : BitVec 5) (s1 : BitVec 6) (q : BitVec 3) (s : State) :
    Host.Outcome State Fault Refusal :=
  runWord (.vFsubS sl g d a s1 q) (fpWord (.vFsubS sl g d a s1 q) fpSub d a none (some s1) false q) s

/-- fmul.s: every lane takes g[gs][31:0] (R138) -/
def execVFmulS (sl : VSlot) (g : BitVec 4) (d a : BitVec 5) (s1 : BitVec 6) (q : BitVec 3) (s : State) :
    Host.Outcome State Fault Refusal :=
  runWord (.vFmulS sl g d a s1 q) (fpWord (.vFmulS sl g d a s1 q) fpMul d a none (some s1) false q) s

/-- fma.s: every lane takes g[gs][31:0] (R138) -/
def execVFmaS (sl : VSlot) (g : BitVec 4) (d a : BitVec 5) (s1 : BitVec 6) (q : BitVec 3) (s : State) :
    Host.Outcome State Fault Refusal :=
  runWord (.vFmaS sl g d a s1 q) (fpWord (.vFmaS sl g d a s1 q) fpFma d a none (some s1) true q) s

/-- fmin.s: every lane takes g[gs][31:0] (R138) -/
def execVFminS (sl : VSlot) (g : BitVec 4) (d a : BitVec 5) (s1 : BitVec 6) (q : BitVec 3) (s : State) :
    Host.Outcome State Fault Refusal :=
  runWord (.vFminS sl g d a s1 q) (fpWord (.vFminS sl g d a s1 q) fpMin d a none (some s1) false q) s

/-- fmax.s: every lane takes g[gs][31:0] (R138) -/
def execVFmaxS (sl : VSlot) (g : BitVec 4) (d a : BitVec 5) (s1 : BitVec 6) (q : BitVec 3) (s : State) :
    Host.Outcome State Fault Refusal :=
  runWord (.vFmaxS sl g d a s1 q) (fpWord (.vFmaxS sl g d a s1 q) fpMax d a none (some s1) false q) s

/-- fscale.s: every lane takes g[gs][31:0] (R138) -/
def execVFscaleS (sl : VSlot) (g : BitVec 4) (d a : BitVec 5) (s1 : BitVec 6) (q : BitVec 3) (s : State) :
    Host.Outcome State Fault Refusal :=
  runWord (.vFscaleS sl g d a s1 q) (fpWord (.vFscaleS sl g d a s1 q) fpScale d a none (some s1) false q) s

/-- fcmp.eq (R142, R143) -/
def execVFcmpEq (sl : VSlot) (g : BitVec 4) (t f : BitVec 3) (a b : BitVec 5) (q : BitVec 3) (s : State) :
    Host.Outcome State Fault Refusal :=
  runWord (.vFcmpEq sl g t f a b q) (fcmpWord (.vFcmpEq sl g t f a b q) t f a b q (Num.eqv)) s

/-- fcmp.lt (R142, R143) -/
def execVFcmpLt (sl : VSlot) (g : BitVec 4) (t f : BitVec 3) (a b : BitVec 5) (q : BitVec 3) (s : State) :
    Host.Outcome State Fault Refusal :=
  runWord (.vFcmpLt sl g t f a b q) (fcmpWord (.vFcmpLt sl g t f a b q) t f a b q (Num.lt)) s

/-- fcmp.le (R142, R143) -/
def execVFcmpLe (sl : VSlot) (g : BitVec 4) (t f : BitVec 3) (a b : BitVec 5) (q : BitVec 3) (s : State) :
    Host.Outcome State Fault Refusal :=
  runWord (.vFcmpLe sl g t f a b q) (fcmpWord (.vFcmpLe sl g t f a b q) t f a b q (fun x y => x.lt y || x.eqv y)) s

/-- fcmp.un (R142, R143) -/
def execVFcmpUn (sl : VSlot) (g : BitVec 4) (t f : BitVec 3) (a b : BitVec 5) (q : BitVec 3) (s : State) :
    Host.Outcome State Fault Refusal :=
  runWord (.vFcmpUn sl g t f a b q) (fcmpWord (.vFcmpUn sl g t f a b q) t f a b q (fun x y => x.isNan || y.isNan)) s

/-- icmp.eq (R142, R143) -/
def execVIcmpEq (sl : VSlot) (g : BitVec 4) (t f : BitVec 3) (a b : BitVec 5) (q : BitVec 3) (s : State) :
    Host.Outcome State Fault Refusal :=
  runWord (.vIcmpEq sl g t f a b q) (icmpWord (.vIcmpEq sl g t f a b q) t f a b q (fun x y => decide (x = y))) s

/-- icmp.lt (R142, R143) -/
def execVIcmpLt (sl : VSlot) (g : BitVec 4) (t f : BitVec 3) (a b : BitVec 5) (q : BitVec 3) (s : State) :
    Host.Outcome State Fault Refusal :=
  runWord (.vIcmpLt sl g t f a b q) (icmpWord (.vIcmpLt sl g t f a b q) t f a b q (BitVec.slt)) s

/-- icmp.ltu (R142, R143) -/
def execVIcmpLtu (sl : VSlot) (g : BitVec 4) (t f : BitVec 3) (a b : BitVec 5) (q : BitVec 3) (s : State) :
    Host.Outcome State Fault Refusal :=
  runWord (.vIcmpLtu sl g t f a b q) (icmpWord (.vIcmpLtu sl g t f a b q) t f a b q (BitVec.ult)) s

/-- fsum (R57, R144) -/
def execVFsum (sl : VSlot) (g : BitVec 4) (d a : BitVec 5) (q : BitVec 3) (s : State) : Host.Outcome State Fault Refusal :=
  runWord (.vFsum sl g d a q) (reduceWord (.vFsum sl g d a q) d a q tFp32 (fun iss => fsumOf (fun n L => laneMode iss 3 n L))) s

/-- fmaxr (R144, R145) -/
def execVFmaxr (sl : VSlot) (g : BitVec 4) (d a : BitVec 5) (q : BitVec 3) (s : State) : Host.Outcome State Fault Refusal :=
  runWord (.vFmaxr sl g d a q) (reduceWord (.vFmaxr sl g d a q) d a q tFp32 (fun _ => fmaxOf)) s

/-- imaxr (R58, R144) -/
def execVImaxr (sl : VSlot) (g : BitVec 4) (d a : BitVec 5) (q : BitVec 3) (s : State) : Host.Outcome State Fault Refusal :=
  runWord (.vImaxr sl g d a q)
    (reduceWord (.vImaxr sl g d a q) d a q tI32 (fun _ k v => (ireduceOf 0x80000000 (fun x y => if BitVec.slt x y then y else x) k v, []))) s

/-- iminr (R58, R144) -/
def execVIminr (sl : VSlot) (g : BitVec 4) (d a : BitVec 5) (q : BitVec 3) (s : State) : Host.Outcome State Fault Refusal :=
  runWord (.vIminr sl g d a q)
    (reduceWord (.vIminr sl g d a q) d a q tI32 (fun _ k v => (ireduceOf 0x7FFFFFFF (fun x y => if BitVec.slt y x then y else x) k v, []))) s

/-- isumr (R58, R144) -/
def execVIsumr (sl : VSlot) (g : BitVec 4) (d a : BitVec 5) (q : BitVec 3) (s : State) : Host.Outcome State Fault Refusal :=
  runWord (.vIsumr sl g d a q)
    (reduceWord (.vIsumr sl g d a q) d a q tI32 (fun _ k v => (ireduceOf 0 (fun x y => x + y) k v, []))) s

end Sys2Proof.Machine
end

