-- ==== Sys2Proof/Machine/VecInt.lean ====
section
/-! DEFINITION. VX and VY: integer, saturating and pixel operations, moves, permutations and conversions (R139 to R141, R146
to R148). -/

namespace Sys2Proof.Machine

/-! ### Element operations (R139, R141) -/

/-- An operation on two elements of a width, signed or not by the tag. -/
abbrev IntOp := Nat → Bool → Nat → Nat → Nat

/-- The integer of an element. -/
def elemValueOf (w : Nat) (signed : Bool) (v : Nat) : Int := if signed then signedOf w v else (v : Int)

def intAdd : IntOp := fun w _ a b => (a + b) % 2 ^ w
def intSub : IntOp := fun w _ a b => (a + 2 ^ w - b) % 2 ^ w
def intMul : IntOp := fun w _ a b => a * b % 2 ^ w
def intMulHigh : IntOp := fun w s a b => unsignedOf w (elemValueOf w s a * elemValueOf w s b / (2 ^ w : Nat))
def intShl : IntOp := fun w _ a b => a * 2 ^ (b % w) % 2 ^ w
def intShr : IntOp := fun w _ a b => a / 2 ^ (b % w)
def intSra : IntOp := fun w _ a b => unsignedOf w (signedOf w a / (2 ^ (b % w) : Nat))
def intMin : IntOp := fun w s a b => if elemValueOf w s a ≤ elemValueOf w s b then a else b
def intMax : IntOp := fun w s a b => if elemValueOf w s a ≤ elemValueOf w s b then b else a
def intMinU : IntOp := fun _ _ a b => min a b
def intMaxU : IntOp := fun _ _ a b => max a b
def intAbsDiff : IntOp := fun w s a b => (elemValueOf w s a - elemValueOf w s b).natAbs % 2 ^ w
def intAvg : IntOp := fun w s a b => unsignedOf w ((elemValueOf w s a + elemValueOf w s b + 1) / 2)

/-- The range of an integer tag (R41). -/
def intRange (w : Nat) (signed : Bool) : Int × Int :=
  if signed then (-(2 ^ (w - 1) : Nat), (2 ^ (w - 1) : Nat) - 1) else (0, (2 ^ w : Nat) - 1)

/-- A saturating operation (R41, R141). -/
def satOp (f : Int → Int → Int) (w : Nat) (signed : Bool) (a b : Nat) : Scored :=
  let r := intRange w signed
  clampTo r.1 r.2 (f (elemValueOf w signed a) (elemValueOf w signed b)) w

def satAdd := satOp (fun a b => a + b)
def satSub := satOp (fun a b => a - b)

/-! ### Forms -/

/-- Tags of the integer forms (R139, R141). -/
def intTags (t : BitVec 5) : Bool := t = tI32 || t = tI16 || t = tUi16 || t = tI8
def halfTags (t : BitVec 5) : Bool := t = tI16 || t = tUi16

/-- The second operand: a vector register, or the low bits of a scalar copied into every element (R140). -/
inductive VOperand where
  | reg (b : BitVec 5)
  | scalar (s : BitVec 6)
  deriving DecidableEq, Repr

/-- The element of an operand at a position of a tag. -/
def VOperand.element (o : VOperand) (x : CoreState) (tag : BitVec 5) (pos : Nat) : Nat :=
  match o with
  | .reg b => elementAt tag (x.v b).data pos
  | .scalar s => field (x.g s) 0 (elemWidth tag)

/-- A register operand must carry va's tag. -/
def VOperand.check (o : VOperand) (i : Instr) (x : CoreState) (tag : BitVec 5) : Option Stop :=
  match o with
  | .reg b => checkTag i x b (fun t => t = tag)
  | .scalar _ => none

/-- An element-wise integer word: the tags va accepts, the result tag, the operation (R139, R141). -/
def intWord (i : Instr) (k : LatClass) (accepts : BitVec 5 → Bool) (result : BitVec 5 → BitVec 5)
    (op : Nat → Bool → Nat → Nat → Scored) (d a : BitVec 5) (o : VOperand) (q : BitVec 3) : Body := fun iss m =>
  let x := iss.x
  let tag := (x.v a).tag
  afterChecks [checkTag i x a accepts, o.check i x tag] (fun iss m =>
    let r := mapElements tag (x.q q) (fun p =>
      op (elemWidth tag) (tagSigned tag) (elementAt tag (x.v a).data p) (o.element x tag p))
    vectorResult i k d (x.q q) (result tag) r.1 r.2 iss m) iss m

/-- An operation that raises no event. -/
def plain (f : IntOp) : Nat → Bool → Nat → Nat → Scored := fun w s a b => { bits := f w s a b }

/-- A bitwise word over whole lanes: tag-transparent, va's tag (R139, R140). -/
def bitWord (i : Instr) (f : BitVec 32 → BitVec 32 → BitVec 32) (d a : BitVec 5) (o : VOperand) (q : BitVec 3) : Body :=
  fun iss m =>
    let x := iss.x
    let b := fun n => match o with
      | .reg r => lane (x.v r).data n
      | .scalar s => (x.g s).setWidth 32
    vectorResult i .F d (x.q q) (x.v a).tag (ofLanes (fun n => f (lane (x.v a).data n) (b n))) [] iss m

/-- imad16: c + a0·b0 + a1·b1 in every lane; vd is read and must be i32 (R141). -/
def madWord (i : Instr) (d a b : BitVec 5) (q : BitVec 3) : Body := fun iss m =>
  let x := iss.x
  let tag := (x.v a).tag
  afterChecks [checkTag i x a halfTags, checkTag i x b (fun t => t = tag), checkTag i iss.standing d (fun t => t = tI32)]
    (fun iss m =>
      let el := fun (r : BitVec 5) (p : Nat) => elementInt tag (elementAt tag (x.v r).data p)
      let value := ofLanes (fun n => BitVec.ofInt 32 (((lane (x.v d).data n).toNat : Int)
        + el a (2 * n) * el b (2 * n) + el a (2 * n + 1) * el b (2 * n + 1)))
      vectorResult i .G d (x.q q) tI32 value [] iss m) iss m

/-- A move of lanes, with the tag it gives (R146, R147). -/
def moveWord (i : Instr) (d : BitVec 5) (q : BitVec 3) (tag : Issue → BitVec 5) (f : CoreState → Nat → BitVec 32) :
    Body := fun iss m =>
  vectorResult i .F d (iss.x.q q) (tag iss) (ofLanes (f iss.x)) [] iss m

/-- Lane n of a register when the number is a lane, else zero. -/
def laneOrZero (x : CoreState) (a : BitVec 5) (n : Nat) : BitVec 32 := if n < 64 then lane (x.v a).data n else 0

/-! ### Conversions (R42, R148) -/

/-- The conversion of one element from a tag to a tag; `none` for a pair that R148 does not list. -/
def convertElement (src dst : BitVec 5) : Option (Mode → Nat → Scored) :=
  let float := if src = tFp32 then some fp32 else if src = tBf16 then some bf16 else if src = tFp16 then some fp16 else none
  let toFmt := fun (f g : Fmt) (md : Mode) (v : Nat) => let x := f.unpack v; g.finish md [x] (some x)
  let clamp := fun (_ : Mode) (v : Nat) =>
    let r := if dst = tPx12 then (0, 4095) else intRange (elemWidth dst) (tagSigned dst)
    clampTo r.1 r.2 (elementInt src v) (elemWidth dst)
  match float with
  | some f =>
    if src = tFp32 then
      if dst = tBf16 then some (toFmt f bf16)
      else if dst = tFp16 then some (toFmt f fp16)
      else if dst = tI32 ∨ dst = tI16 ∨ dst = tUi16 then
        some (fun md v => let r := intRange (elemWidth dst) (tagSigned dst)
                          (f.unpack v).toInt md r.1 r.2 (elemWidth dst))
      else none
    else if dst = tFp32 then some (toFmt f fp32) else none
  | none =>
    if src = tI32 ∧ dst = tFp32 then some (fun md v => intToFp32 md (signedOf 32 v))
    else if src = tI32 ∧ (dst = tI16 ∨ dst = tUi16 ∨ dst = tI8) then some clamp
    else if src = tI16 ∧ (dst = tI32 ∨ dst = tUi16) then some clamp
    else if src = tUi16 ∧ (dst = tI32 ∨ dst = tI16 ∨ dst = tPx12) then some clamp
    else if src = tI8 ∧ dst = tI32 then some clamp
    else if src = tPx12 ∧ dst = tUi16 then some clamp
    else none

/-- The lanes that hold a bit of a position (R33, R133). -/
def positionLanes (t : BitVec 5) (p : Nat) : List Nat :=
  if t = tPx12 then [12 * p / 32, (12 * p + 11) / 32] else [p / perLane t]

/-- The whole converted register and its events: positions beyond the source's are zero; a position counts when a lane that
holds one of its bits is selected (R148). -/
def convertAll (src dst : BitVec 5) (mask : BitVec 64) (mode : Nat → Nat → Mode) (f : Mode → Nat → Scored) (v : VData) :
    VData × Tally :=
  let n := min (positions src) (positions dst)
  let w := elemWidth dst
  let rs := (List.range n).map (fun p =>
    if (positionLanes dst p).any (fun l => bit mask l) then
      f (mode (p / perLane dst) (p % perLane dst)) (elementAt src v p)
    else { bits := 0 })
  (BitVec.ofNat 2048 (rs.foldr (fun r acc => r.bits % 2 ^ w + 2 ^ w * acc) 0),
    tally (rs.mapIdx (fun p r => (r.events, p))))

/-- cvt (R148): any pair that is not listed is a format-tag trap. -/
def convertWord (i : Instr) (d a t : BitVec 5) (q : BitVec 3) (rnd : BitVec 2) : Body := fun iss m =>
  let x := iss.x
  let src := (x.v a).tag
  match convertElement src t with
  | none => .error (tagTrap i x a false)
  | some f =>
    let r := convertAll src t (x.q q) (laneMode iss rnd) f (x.v a).data
    vectorResult i .H d (x.q q) t r.1 r.2 iss m

/-! ### Instructions -/

/-- iadd (R139) -/
def execVIadd (sl : VSlot) (g : BitVec 4) (d a b : BitVec 5) (q : BitVec 3) (s : State) : Host.Outcome State Fault Refusal :=
  runWord (.vIadd sl g d a b q) (intWord (.vIadd sl g d a b q) .F intTags id (plain intAdd) d a (.reg b) q) s

/-- isub (R139) -/
def execVIsub (sl : VSlot) (g : BitVec 4) (d a b : BitVec 5) (q : BitVec 3) (s : State) : Host.Outcome State Fault Refusal :=
  runWord (.vIsub sl g d a b q) (intWord (.vIsub sl g d a b q) .F intTags id (plain intSub) d a (.reg b) q) s

/-- imul (R139) -/
def execVImul (sl : VSlot) (g : BitVec 4) (d a b : BitVec 5) (q : BitVec 3) (s : State) : Host.Outcome State Fault Refusal :=
  runWord (.vImul sl g d a b q) (intWord (.vImul sl g d a b q) .G intTags id (plain intMul) d a (.reg b) q) s

/-- imulh (R139) -/
def execVImulh (sl : VSlot) (g : BitVec 4) (d a b : BitVec 5) (q : BitVec 3) (s : State) : Host.Outcome State Fault Refusal :=
  runWord (.vImulh sl g d a b q) (intWord (.vImulh sl g d a b q) .G intTags id (plain intMulHigh) d a (.reg b) q) s

/-- ishl (R139) -/
def execVIshl (sl : VSlot) (g : BitVec 4) (d a b : BitVec 5) (q : BitVec 3) (s : State) : Host.Outcome State Fault Refusal :=
  runWord (.vIshl sl g d a b q) (intWord (.vIshl sl g d a b q) .F intTags id (plain intShl) d a (.reg b) q) s

/-- ishr (R139) -/
def execVIshr (sl : VSlot) (g : BitVec 4) (d a b : BitVec 5) (q : BitVec 3) (s : State) : Host.Outcome State Fault Refusal :=
  runWord (.vIshr sl g d a b q) (intWord (.vIshr sl g d a b q) .F intTags id (plain intShr) d a (.reg b) q) s

/-- isra (R139) -/
def execVIsra (sl : VSlot) (g : BitVec 4) (d a b : BitVec 5) (q : BitVec 3) (s : State) : Host.Outcome State Fault Refusal :=
  runWord (.vIsra sl g d a b q) (intWord (.vIsra sl g d a b q) .F intTags id (plain intSra) d a (.reg b) q) s

/-- imin (R139) -/
def execVImin (sl : VSlot) (g : BitVec 4) (d a b : BitVec 5) (q : BitVec 3) (s : State) : Host.Outcome State Fault Refusal :=
  runWord (.vImin sl g d a b q) (intWord (.vImin sl g d a b q) .F intTags id (plain intMin) d a (.reg b) q) s

/-- imax (R139) -/
def execVImax (sl : VSlot) (g : BitVec 4) (d a b : BitVec 5) (q : BitVec 3) (s : State) : Host.Outcome State Fault Refusal :=
  runWord (.vImax sl g d a b q) (intWord (.vImax sl g d a b q) .F intTags id (plain intMax) d a (.reg b) q) s

/-- iminu (R139) -/
def execVIminu (sl : VSlot) (g : BitVec 4) (d a b : BitVec 5) (q : BitVec 3) (s : State) : Host.Outcome State Fault Refusal :=
  runWord (.vIminu sl g d a b q) (intWord (.vIminu sl g d a b q) .F intTags id (plain intMinU) d a (.reg b) q) s

/-- imaxu (R139) -/
def execVImaxu (sl : VSlot) (g : BitVec 4) (d a b : BitVec 5) (q : BitVec 3) (s : State) : Host.Outcome State Fault Refusal :=
  runWord (.vImaxu sl g d a b q) (intWord (.vImaxu sl g d a b q) .F intTags id (plain intMaxU) d a (.reg b) q) s

/-- iand (R139) -/
def execVIand (sl : VSlot) (g : BitVec 4) (d a b : BitVec 5) (q : BitVec 3) (s : State) : Host.Outcome State Fault Refusal :=
  runWord (.vIand sl g d a b q) (bitWord (.vIand sl g d a b q) (fun x y => x &&& y) d a (.reg b) q) s

/-- ior (R139) -/
def execVIor (sl : VSlot) (g : BitVec 4) (d a b : BitVec 5) (q : BitVec 3) (s : State) : Host.Outcome State Fault Refusal :=
  runWord (.vIor sl g d a b q) (bitWord (.vIor sl g d a b q) (fun x y => x ||| y) d a (.reg b) q) s

/-- ixor (R139) -/
def execVIxor (sl : VSlot) (g : BitVec 4) (d a b : BitVec 5) (q : BitVec 3) (s : State) : Host.Outcome State Fault Refusal :=
  runWord (.vIxor sl g d a b q) (bitWord (.vIxor sl g d a b q) (fun x y => x ^^^ y) d a (.reg b) q) s

/-- iadd.s (R140) -/
def execVIaddS (sl : VSlot) (g : BitVec 4) (d a : BitVec 5) (s1 : BitVec 6) (q : BitVec 3) (s : State) :
    Host.Outcome State Fault Refusal :=
  runWord (.vIaddS sl g d a s1 q) (intWord (.vIaddS sl g d a s1 q) .F intTags id (plain intAdd) d a (.scalar s1) q) s

/-- isub.s (R140) -/
def execVIsubS (sl : VSlot) (g : BitVec 4) (d a : BitVec 5) (s1 : BitVec 6) (q : BitVec 3) (s : State) :
    Host.Outcome State Fault Refusal :=
  runWord (.vIsubS sl g d a s1 q) (intWord (.vIsubS sl g d a s1 q) .F intTags id (plain intSub) d a (.scalar s1) q) s

/-- imul.s (R140) -/
def execVImulS (sl : VSlot) (g : BitVec 4) (d a : BitVec 5) (s1 : BitVec 6) (q : BitVec 3) (s : State) :
    Host.Outcome State Fault Refusal :=
  runWord (.vImulS sl g d a s1 q) (intWord (.vImulS sl g d a s1 q) .G intTags id (plain intMul) d a (.scalar s1) q) s

/-- ishl.s (R140) -/
def execVIshlS (sl : VSlot) (g : BitVec 4) (d a : BitVec 5) (s1 : BitVec 6) (q : BitVec 3) (s : State) :
    Host.Outcome State Fault Refusal :=
  runWord (.vIshlS sl g d a s1 q) (intWord (.vIshlS sl g d a s1 q) .F intTags id (plain intShl) d a (.scalar s1) q) s

/-- ishr.s (R140) -/
def execVIshrS (sl : VSlot) (g : BitVec 4) (d a : BitVec 5) (s1 : BitVec 6) (q : BitVec 3) (s : State) :
    Host.Outcome State Fault Refusal :=
  runWord (.vIshrS sl g d a s1 q) (intWord (.vIshrS sl g d a s1 q) .F intTags id (plain intShr) d a (.scalar s1) q) s

/-- isra.s (R140) -/
def execVIsraS (sl : VSlot) (g : BitVec 4) (d a : BitVec 5) (s1 : BitVec 6) (q : BitVec 3) (s : State) :
    Host.Outcome State Fault Refusal :=
  runWord (.vIsraS sl g d a s1 q) (intWord (.vIsraS sl g d a s1 q) .F intTags id (plain intSra) d a (.scalar s1) q) s

/-- imin.s (R140) -/
def execVIminS (sl : VSlot) (g : BitVec 4) (d a : BitVec 5) (s1 : BitVec 6) (q : BitVec 3) (s : State) :
    Host.Outcome State Fault Refusal :=
  runWord (.vIminS sl g d a s1 q) (intWord (.vIminS sl g d a s1 q) .F intTags id (plain intMin) d a (.scalar s1) q) s

/-- imax.s (R140) -/
def execVImaxS (sl : VSlot) (g : BitVec 4) (d a : BitVec 5) (s1 : BitVec 6) (q : BitVec 3) (s : State) :
    Host.Outcome State Fault Refusal :=
  runWord (.vImaxS sl g d a s1 q) (intWord (.vImaxS sl g d a s1 q) .F intTags id (plain intMax) d a (.scalar s1) q) s

/-- iand.s (R140) -/
def execVIandS (sl : VSlot) (g : BitVec 4) (d a : BitVec 5) (s1 : BitVec 6) (q : BitVec 3) (s : State) :
    Host.Outcome State Fault Refusal :=
  runWord (.vIandS sl g d a s1 q) (bitWord (.vIandS sl g d a s1 q) (fun x y => x &&& y) d a (.scalar s1) q) s

/-- ior.s (R140) -/
def execVIorS (sl : VSlot) (g : BitVec 4) (d a : BitVec 5) (s1 : BitVec 6) (q : BitVec 3) (s : State) :
    Host.Outcome State Fault Refusal :=
  runWord (.vIorS sl g d a s1 q) (bitWord (.vIorS sl g d a s1 q) (fun x y => x ||| y) d a (.scalar s1) q) s

/-- ixor.s (R140) -/
def execVIxorS (sl : VSlot) (g : BitVec 4) (d a : BitVec 5) (s1 : BitVec 6) (q : BitVec 3) (s : State) :
    Host.Outcome State Fault Refusal :=
  runWord (.vIxorS sl g d a s1 q) (bitWord (.vIxorS sl g d a s1 q) (fun x y => x ^^^ y) d a (.scalar s1) q) s

/-- iadds, saturating (R141) -/
def execVIadds (sl : VSlot) (g : BitVec 4) (d a b : BitVec 5) (q : BitVec 3) (s : State) : Host.Outcome State Fault Refusal :=
  runWord (.vIadds sl g d a b q) (intWord (.vIadds sl g d a b q) .F halfTags id satAdd d a (.reg b) q) s

/-- iadds.s, saturating (R140, R141) -/
def execVIaddsS (sl : VSlot) (g : BitVec 4) (d a : BitVec 5) (s1 : BitVec 6) (q : BitVec 3) (s : State) :
    Host.Outcome State Fault Refusal :=
  runWord (.vIaddsS sl g d a s1 q) (intWord (.vIaddsS sl g d a s1 q) .F halfTags id satAdd d a (.scalar s1) q) s

/-- isubs, saturating (R141) -/
def execVIsubs (sl : VSlot) (g : BitVec 4) (d a b : BitVec 5) (q : BitVec 3) (s : State) : Host.Outcome State Fault Refusal :=
  runWord (.vIsubs sl g d a b q) (intWord (.vIsubs sl g d a b q) .F halfTags id satSub d a (.reg b) q) s

/-- isubs.s, saturating (R140, R141) -/
def execVIsubsS (sl : VSlot) (g : BitVec 4) (d a : BitVec 5) (s1 : BitVec 6) (q : BitVec 3) (s : State) :
    Host.Outcome State Fault Refusal :=
  runWord (.vIsubsS sl g d a s1 q) (intWord (.vIsubsS sl g d a s1 q) .F halfTags id satSub d a (.scalar s1) q) s

/-- iabsd: the result is ui16x2 (R141) -/
def execVIabsd (sl : VSlot) (g : BitVec 4) (d a b : BitVec 5) (q : BitVec 3) (s : State) : Host.Outcome State Fault Refusal :=
  runWord (.vIabsd sl g d a b q) (intWord (.vIabsd sl g d a b q) .F halfTags (fun _ => tUi16) (plain intAbsDiff) d a (.reg b) q) s

/-- iavg (R141) -/
def execVIavg (sl : VSlot) (g : BitVec 4) (d a b : BitVec 5) (q : BitVec 3) (s : State) : Host.Outcome State Fault Refusal :=
  runWord (.vIavg sl g d a b q) (intWord (.vIavg sl g d a b q) .F intTags id (plain intAvg) d a (.reg b) q) s

/-- imad16 (R141) -/
def execVImad16 (sl : VSlot) (g : BitVec 4) (d a b : BitVec 5) (q : BitVec 3) (s : State) : Host.Outcome State Fault Refusal :=
  runWord (.vImad16 sl g d a b q) (madWord (.vImad16 sl g d a b q) d a b q) s

/-- bcast keeps vd's tag (R146) -/
def execVBcast (sl : VSlot) (g : BitVec 4) (d : BitVec 5) (s1 : BitVec 6) (q : BitVec 3) (s : State) :
    Host.Outcome State Fault Refusal :=
  runWord (.vBcast sl g d s1 q) (moveWord (.vBcast sl g d s1 q) d q (fun iss => (iss.standing.v d).tag) (fun x _ => (x.g s1).setWidth 32)) s

/-- slide.up (R146) -/
def execVSlideUp (sl : VSlot) (g : BitVec 4) (d a : BitVec 5) (s1 : BitVec 6) (q : BitVec 3) (s : State) :
    Host.Outcome State Fault Refusal :=
  runWord (.vSlideUp sl g d a s1 q) (moveWord (.vSlideUp sl g d a s1 q) d q (fun iss => (iss.x.v a).tag) (fun x n =>
    if (x.g s1).toNat ≤ n then laneOrZero x a (n - (x.g s1).toNat) else 0)) s

/-- slide.dn (R146) -/
def execVSlideDn (sl : VSlot) (g : BitVec 4) (d a : BitVec 5) (s1 : BitVec 6) (q : BitVec 3) (s : State) :
    Host.Outcome State Fault Refusal :=
  runWord (.vSlideDn sl g d a s1 q)
    (moveWord (.vSlideDn sl g d a s1 q) d q (fun iss => (iss.x.v a).tag) (fun x n => laneOrZero x a (n + (x.g s1).toNat))) s

/-- mov (R147) -/
def execVMov (sl : VSlot) (g : BitVec 4) (d a : BitVec 5) (q : BitVec 3) (s : State) : Host.Outcome State Fault Refusal :=
  runWord (.vMov sl g d a q) (moveWord (.vMov sl g d a q) d q (fun iss => (iss.x.v a).tag) (fun x n => lane (x.v a).data n)) s

/-- sel: the mask selects, all lanes are written, equal tags (R147) -/
def execVSel (sl : VSlot) (g : BitVec 4) (d a b : BitVec 5) (q : BitVec 3) (s : State) : Host.Outcome State Fault Refusal :=
  runWord (.vSel sl g d a b q) (fun iss m =>
    afterChecks [checkTag (.vSel sl g d a b q) iss.x b (fun t => t = (iss.x.v a).tag)] (fun iss m =>
      let x := iss.x
      vectorResult (.vSel sl g d a b q) .F d (BitVec.allOnes 64) (x.v a).tag
        (ofLanes (fun n => if bit (x.q q) n then lane (x.v a).data n else lane (x.v b).data n)) [] iss m) iss m) s

/-- perm: vb is i32, index bits [5:0] (R147) -/
def execVPerm (sl : VSlot) (g : BitVec 4) (d a b : BitVec 5) (q : BitVec 3) (s : State) : Host.Outcome State Fault Refusal :=
  runWord (.vPerm sl g d a b q) (fun iss m =>
    afterChecks [checkTag (.vPerm sl g d a b q) iss.x b (fun t => t = tI32)]
      (moveWord (.vPerm sl g d a b q) d q (fun iss => (iss.x.v a).tag) (fun x n => lane (x.v a).data ((lane (x.v b).data n).toNat % 64))) iss m) s

/-- lidx (R147) -/
def execVLidx (sl : VSlot) (g : BitVec 4) (d : BitVec 5) (q : BitVec 3) (s : State) : Host.Outcome State Fault Refusal :=
  runWord (.vLidx sl g d q) (moveWord (.vLidx sl g d q) d q (fun _ => tI32) (fun _ n => BitVec.ofNat 32 n)) s

/-- cvt (R148) -/
def execVCvt (sl : VSlot) (g : BitVec 4) (d a t : BitVec 5) (q : BitVec 3) (n : BitVec 2) (s : State) :
    Host.Outcome State Fault Refusal :=
  runWord (.vCvt sl g d a t q n) (convertWord (.vCvt sl g d a t q n) d a t q n) s

/-- retag (R148) -/
def execVRetag (sl : VSlot) (g : BitVec 4) (d a t : BitVec 5) (q : BitVec 3) (s : State) : Host.Outcome State Fault Refusal :=
  runWord (.vRetag sl g d a t q) (moveWord (.vRetag sl g d a t q) d q (fun _ => t) (fun x n => lane (x.v a).data n)) s

end Sys2Proof.Machine
end

