-- ==== Sys2Proof/Machine/VecMem.lean ====
section
/-! DEFINITION. VX and VY: local vector memory, and VY's global memory (R149 to R157). -/

namespace Sys2Proof.Machine

/-! ### Forms -/

/-- X or A: base + 256 · off6 (R149, R154). -/
def vectorAddr (base : Dword) (x : BitVec 6) : Dword := base + x.signExtend 64 * 256

/-- The tag a load gives its destination: 0 keeps vt's current tag (R149). -/
def qualTag (iss : Issue) (t : BitVec 5) (u : BitVec 2) : BitVec 5 :=
  if u = 0 then (iss.standing.v t).tag else if u = 1 then tFp32 else if u = 2 then tI32 else tUntyped

/-- The elements of the selected lanes of 256 bytes at an offset. -/
def laneElems (mask : BitVec 64) (at_ : Nat) : List Elem :=
  (selected mask).map (fun n => { lane := n, addr := at_ + 4 * n, size := 4, signed := false })

/-- The bytes that the selected lanes write. -/
def laneBytes (mask : BitVec 64) (d : VData) (at_ : Nat) : List (Nat × BitVec 8) :=
  (selected mask).flatMap (fun n => (toBytes 4 (lane d n).toNat).mapIdx (fun k b => (at_ + 4 * n + k, b)))

/-- The granules that hold a selected lane (R152). -/
def laneGranules (mask : BitVec 64) (at_ : Nat) : List Nat :=
  ((List.range 16).filter (fun j => field mask (4 * j) 4 ≠ 0)).map (fun j => at_ / 16 + j)

/-- The row offset of ld.l and st.l (R150): a multiple of 256 below 0x8_0000. -/
def rowCheck (i : Instr) (X : Dword) : Except Stop Nat :=
  if field X 0 8 ≠ 0 then .error (slotTrap i 7 X)
  else if 0x80000 ≤ X.toNat then .error (slotTrap i 5 X) else .ok X.toNat

/-- ld.l (R150): class J. -/
def rowLoad (i : Instr) (t : BitVec 5) (b : BitVec 6) (q : BitVec 3) (u : BitVec 2) (off : BitVec 6) : Body := fun iss m =>
  let x := iss.x
  let tag := qualTag iss t u
  match checkDest i iss.standing t (x.q q) tag with
  | some e => .error e
  | none => match rowCheck i (vectorAddr (x.g b) off) with
    | .error e => .error e
    | .ok X => localLoad i .J (.lanes iss.core) (laneElems (x.q q) X) [] false false (x.destV t) (some tag) none iss m

/-- st.l (R150). -/
def rowStore (i : Instr) (t : BitVec 5) (b : BitVec 6) (q : BitVec 3) (off : BitVec 6) : Body := fun iss m =>
  let x := iss.x
  match rowCheck i (vectorAddr (x.g b) off) with
  | .error e => .error e
  | .ok X =>
    let bytes := laneBytes (x.q q) (x.v t).data X
    storeWord i { id := 0, issue := 0, stream := iss.stream, slot := 0, origin := {}, space := .lanes iss.core, bytes := bytes }
      [] (pieces (bytes.map (·.1))) iss m

/-- ld.c and its qualified forms (R151, R152): class K. -/
def localVectorLoad (i : Instr) (t : BitVec 5) (b : BitVec 6) (q : BitVec 3) (u : BitVec 2) (off : BitVec 6)
    (test take : Bool) : Body := fun iss m =>
  let x := iss.x
  let tag := qualTag iss t u
  match checkDest i iss.standing t (x.q q) tag with
  | some e => .error e
  | none => match localCheck i iss (vectorAddr (x.g b) off) 256 test false with
    | .error e => .error e
    | .ok (sp, o) =>
      localLoad i .K sp (laneElems (x.q q) o) (laneGranules (x.q q) o) test take (x.destV t) (some tag) none iss m

/-- st.c and st.c.set (R151, R152). -/
def localVectorStore (i : Instr) (t : BitVec 5) (b : BitVec 6) (q : BitVec 3) (off : BitVec 6) (set : Bool) : Body :=
  fun iss m =>
    let x := iss.x
    match localCheck i iss (vectorAddr (x.g b) off) 256 set true with
    | .error e => .error e
    | .ok (sp, o) =>
      let bytes := laneBytes (x.q q) (x.v t).data o
      storeWord i { id := 0, issue := 0, stream := iss.stream, slot := 0, origin := {}, space := sp, bytes := bytes,
                    sets := if set then laneGranules (x.q q) o else [] } [] (pieces (bytes.map (·.1))) iss m

/-- The selected lanes of a checked access of 256 bytes. -/
def spreadLanes (mask : BitVec 64) (l : List (Elem × Dword × Phys)) : List (Elem × Dword × Phys) :=
  l.flatMap (fun e => (selected mask).map (fun n =>
    (({ lane := n, addr := e.1.addr + 4 * n, size := 4, signed := false } : Elem), e.2.1 + BitVec.ofNat 64 (4 * n), e.2.2)))

/-! ### Instructions -/

/-- ld.l (R149, R150). -/
def execVLdL (sl : VSlot) (g : BitVec 4) (t : BitVec 5) (b : BitVec 6) (q : BitVec 3) (u : BitVec 2) (x : BitVec 6)
    (s : State) : Host.Outcome State Fault Refusal :=
  runWord (.vLdL sl g t b q u x) (rowLoad (.vLdL sl g t b q u x) t b q u x) s

/-- st.l (R149, R150). -/
def execVStL (sl : VSlot) (g : BitVec 4) (t : BitVec 5) (b : BitVec 6) (q : BitVec 3) (x : BitVec 6) (s : State) :
    Host.Outcome State Fault Refusal :=
  runWord (.vStL sl g t b q x) (rowStore (.vStL sl g t b q x) t b q x) s

/-- ld.c (R149, R151). -/
def execVLdC (sl : VSlot) (g : BitVec 4) (t : BitVec 5) (b : BitVec 6) (q : BitVec 3) (u : BitVec 2) (x : BitVec 6)
    (s : State) : Host.Outcome State Fault Refusal :=
  runWord (.vLdC sl g t b q u x) (localVectorLoad (.vLdC sl g t b q u x) t b q u x false false) s

/-- ld.c.fe (R152). -/
def execVLdCFe (sl : VSlot) (g : BitVec 4) (t : BitVec 5) (b : BitVec 6) (q : BitVec 3) (u : BitVec 2) (x : BitVec 6)
    (s : State) : Host.Outcome State Fault Refusal :=
  runWord (.vLdCFe sl g t b q u x) (localVectorLoad (.vLdCFe sl g t b q u x) t b q u x true false) s

/-- ld.c.take (R152). -/
def execVLdCTake (sl : VSlot) (g : BitVec 4) (t : BitVec 5) (b : BitVec 6) (q : BitVec 3) (u : BitVec 2) (x : BitVec 6)
    (s : State) : Host.Outcome State Fault Refusal :=
  runWord (.vLdCTake sl g t b q u x) (localVectorLoad (.vLdCTake sl g t b q u x) t b q u x true true) s

/-- st.c (R151). -/
def execVStC (sl : VSlot) (g : BitVec 4) (t : BitVec 5) (b : BitVec 6) (q : BitVec 3) (x : BitVec 6) (s : State) :
    Host.Outcome State Fault Refusal :=
  runWord (.vStC sl g t b q x) (localVectorStore (.vStC sl g t b q x) t b q x false) s

/-- st.c.set (R152). -/
def execVStCSet (sl : VSlot) (g : BitVec 4) (t : BitVec 5) (b : BitVec 6) (q : BitVec 3) (x : BitVec 6) (s : State) :
    Host.Outcome State Fault Refusal :=
  runWord (.vStCSet sl g t b q x) (localVectorStore (.vStCSet sl g t b q x) t b q x true) s

/-- ld.g (R154): one access of 256 bytes, checked whole. -/
def execVLdG (g : BitVec 4) (y : BitVec 2) (t : BitVec 5) (b : BitVec 6) (q : BitVec 3) (u : BitVec 2) (x : BitVec 6)
    (s : State) : Host.Outcome State Fault Refusal :=
  runWord (.vLdG g y t b q u x) (fun iss m =>
    let i : Instr := .vLdG g y t b q u x
    let c := iss.x
    let tag := qualTag iss t u
    match checkDest i iss.standing t (c.q q) tag with
    | some e => .error e
    | none => match checkElems i iss false y false [(0, vectorAddr (c.g b) x, 256, false)] with
      | .error e => .error e
      | .ok l => globalLoad i y (spreadLanes (c.q q) l) (c.destV t) (some tag) none none iss m) s

/-- st.g (R154): one store, whatever its mask. DEDUCED (log 105): it is tag-transparent, as R149 says of stores. -/
def execVStG (g : BitVec 4) (y : BitVec 2) (t : BitVec 5) (b : BitVec 6) (q : BitVec 3) (x : BitVec 6) (s : State) :
    Host.Outcome State Fault Refusal :=
  runWord (.vStG g y t b q x) (fun iss m =>
    let i : Instr := .vStG g y t b q x
    let c := iss.x
    match checkElems i iss true y false [(0, vectorAddr (c.g b) x, 256, false)] with
    | .error e => .error e
    | .ok l =>
      let bytes := l.flatMap (fun e => laneBytes (c.q q) (c.v t).data e.1.addr)
      globalStore i y (spreadLanes (c.q q) l) bytes (pieces (bytes.map (·.1))) iss m) s

/-- The address of a lane of a gather or scatter (R155). -/
def laneAddr (x : CoreState) (b : BitVec 6) (v : BitVec 5) (n : Nat) : Dword :=
  x.g b + (lane (x.v v).data n).signExtend 64

/-- gather (R155): every selected lane is checked in ascending order. -/
def execVGather (g : BitVec 4) (y : BitVec 2) (t v : BitVec 5) (b : BitVec 6) (q : BitVec 3) (z : BitVec 3) (s : State) :
    Host.Outcome State Fault Refusal :=
  runWord (.vGather g y t v b q z) (fun iss m =>
    let i : Instr := .vGather g y t v b q z
    let x := iss.x
    let tag := if z = 4 then (iss.standing.v t).tag else tI32
    let size := 2 ^ (z.toNat / 2)
    afterChecks [checkTag i x v (fun k => k = tI32), checkDest i iss.standing t (x.q q) tag] (fun iss m =>
      match checkElems i iss false y true
          ((selected (x.q q)).map (fun n => (n, laneAddr x b v n, size, decide (z.toNat % 2 = 1)))) with
      | .error e => .error e
      | .ok l => globalLoad i y l (x.destV t) (some tag) none none iss m) iss m) s

/-- The tags that a source of an instruction that is not tag-transparent may carry (R21, R34). -/
def typedTag (t : BitVec 5) : Bool := t ≠ tUntyped && t ≠ tSx

/-- scatter (R155, R156): on overlapping bytes the highest lane prevails. It is not called tag-transparent, so vt may be neither
untyped nor sx-block (R21, R34). DESIGN CHOICE (log 105): vi is checked before vt. -/
def execVScatter (g : BitVec 4) (y : BitVec 2) (t v : BitVec 5) (b : BitVec 6) (q : BitVec 3) (z : BitVec 2) (s : State) :
    Host.Outcome State Fault Refusal :=
  runWord (.vScatter g y t v b q z) (fun iss m =>
    let i : Instr := .vScatter g y t v b q z
    let x := iss.x
    let size := 2 ^ z.toNat
    afterChecks [checkTag i x v (fun k => k = tI32), checkTag i x t typedTag] (fun iss m =>
      match checkElems i iss true y true ((selected (x.q q)).map (fun n => (n, laneAddr x b v n, size, false))) with
      | .error e => .error e
      | .ok l =>
        let bytes := l.flatMap (fun e => e.1.cells.zip (toBytes size (lane (x.v t).data e.1.lane).toNat))
        globalStore i y l bytes l.length iss m) iss m) s

end Sys2Proof.Machine
end

