-- ==== Sys2Proof/Machine/Dispatch.lean ====
section
/-! DEFINITION. The meaning of every instruction and event: one arm for each constructor, each one call. -/

namespace Sys2Proof.Machine

/-- The meaning of an instruction or event in a state. -/
def exec (i : Instr) (s : State) : Host.Outcome State Fault Refusal :=
  match i with
  | .scAdd x1 x2 x3 x4 => Sys2Proof.Machine.execScAdd x1 x2 x3 x4 s
  | .scSub x1 x2 x3 x4 => Sys2Proof.Machine.execScSub x1 x2 x3 x4 s
  | .scAnd x1 x2 x3 x4 => Sys2Proof.Machine.execScAnd x1 x2 x3 x4 s
  | .scOr x1 x2 x3 x4 => Sys2Proof.Machine.execScOr x1 x2 x3 x4 s
  | .scXor x1 x2 x3 x4 => Sys2Proof.Machine.execScXor x1 x2 x3 x4 s
  | .scAndn x1 x2 x3 x4 => Sys2Proof.Machine.execScAndn x1 x2 x3 x4 s
  | .scShl x1 x2 x3 x4 => Sys2Proof.Machine.execScShl x1 x2 x3 x4 s
  | .scShr x1 x2 x3 x4 => Sys2Proof.Machine.execScShr x1 x2 x3 x4 s
  | .scSra x1 x2 x3 x4 => Sys2Proof.Machine.execScSra x1 x2 x3 x4 s
  | .scMin x1 x2 x3 x4 => Sys2Proof.Machine.execScMin x1 x2 x3 x4 s
  | .scMax x1 x2 x3 x4 => Sys2Proof.Machine.execScMax x1 x2 x3 x4 s
  | .scMinu x1 x2 x3 x4 => Sys2Proof.Machine.execScMinu x1 x2 x3 x4 s
  | .scMaxu x1 x2 x3 x4 => Sys2Proof.Machine.execScMaxu x1 x2 x3 x4 s
  | .scBfx x1 x2 x3 x4 => Sys2Proof.Machine.execScBfx x1 x2 x3 x4 s
  | .scBfi x1 x2 x3 x4 => Sys2Proof.Machine.execScBfi x1 x2 x3 x4 s
  | .scClz x1 x2 x3 => Sys2Proof.Machine.execScClz x1 x2 x3 s
  | .scCtz x1 x2 x3 => Sys2Proof.Machine.execScCtz x1 x2 x3 s
  | .scPopc x1 x2 x3 => Sys2Proof.Machine.execScPopc x1 x2 x3 s
  | .scSextB x1 x2 x3 => Sys2Proof.Machine.execScSextB x1 x2 x3 s
  | .scSextH x1 x2 x3 => Sys2Proof.Machine.execScSextH x1 x2 x3 s
  | .scSextW x1 x2 x3 => Sys2Proof.Machine.execScSextW x1 x2 x3 s
  | .scZextB x1 x2 x3 => Sys2Proof.Machine.execScZextB x1 x2 x3 s
  | .scZextH x1 x2 x3 => Sys2Proof.Machine.execScZextH x1 x2 x3 s
  | .scZextW x1 x2 x3 => Sys2Proof.Machine.execScZextW x1 x2 x3 s
  | .scMul x1 x2 x3 x4 => Sys2Proof.Machine.execScMul x1 x2 x3 x4 s
  | .scMulh x1 x2 x3 x4 => Sys2Proof.Machine.execScMulh x1 x2 x3 x4 s
  | .scMulhu x1 x2 x3 x4 => Sys2Proof.Machine.execScMulhu x1 x2 x3 x4 s
  | .scDiv x1 x2 x3 x4 => Sys2Proof.Machine.execScDiv x1 x2 x3 x4 s
  | .scDivu x1 x2 x3 x4 => Sys2Proof.Machine.execScDivu x1 x2 x3 x4 s
  | .scRem x1 x2 x3 x4 => Sys2Proof.Machine.execScRem x1 x2 x3 x4 s
  | .scRemu x1 x2 x3 x4 => Sys2Proof.Machine.execScRemu x1 x2 x3 x4 s
  | .scSel x1 x2 x3 x4 x5 => Sys2Proof.Machine.execScSel x1 x2 x3 x4 x5 s
  | .scCmpEq x1 x2 x3 x4 x5 => Sys2Proof.Machine.execScCmpEq x1 x2 x3 x4 x5 s
  | .scCmpNe x1 x2 x3 x4 x5 => Sys2Proof.Machine.execScCmpNe x1 x2 x3 x4 x5 s
  | .scCmpLt x1 x2 x3 x4 x5 => Sys2Proof.Machine.execScCmpLt x1 x2 x3 x4 x5 s
  | .scCmpLtu x1 x2 x3 x4 x5 => Sys2Proof.Machine.execScCmpLtu x1 x2 x3 x4 x5 s
  | .scCmpGe x1 x2 x3 x4 x5 => Sys2Proof.Machine.execScCmpGe x1 x2 x3 x4 x5 s
  | .scCmpGeu x1 x2 x3 x4 x5 => Sys2Proof.Machine.execScCmpGeu x1 x2 x3 x4 x5 s
  | .scCmpiEq x1 x2 x3 x4 x5 => Sys2Proof.Machine.execScCmpiEq x1 x2 x3 x4 x5 s
  | .scCmpiNe x1 x2 x3 x4 x5 => Sys2Proof.Machine.execScCmpiNe x1 x2 x3 x4 x5 s
  | .scCmpiLt x1 x2 x3 x4 x5 => Sys2Proof.Machine.execScCmpiLt x1 x2 x3 x4 x5 s
  | .scCmpiLtu x1 x2 x3 x4 x5 => Sys2Proof.Machine.execScCmpiLtu x1 x2 x3 x4 x5 s
  | .scCmpiGe x1 x2 x3 x4 x5 => Sys2Proof.Machine.execScCmpiGe x1 x2 x3 x4 x5 s
  | .scCmpiGeu x1 x2 x3 x4 x5 => Sys2Proof.Machine.execScCmpiGeu x1 x2 x3 x4 x5 s
  | .scAddi x1 x2 x3 x4 => Sys2Proof.Machine.execScAddi x1 x2 x3 x4 s
  | .scAndi x1 x2 x3 x4 => Sys2Proof.Machine.execScAndi x1 x2 x3 x4 s
  | .scOri x1 x2 x3 x4 => Sys2Proof.Machine.execScOri x1 x2 x3 x4 s
  | .scXori x1 x2 x3 x4 => Sys2Proof.Machine.execScXori x1 x2 x3 x4 s
  | .scShli x1 x2 x3 x4 => Sys2Proof.Machine.execScShli x1 x2 x3 x4 s
  | .scShri x1 x2 x3 x4 => Sys2Proof.Machine.execScShri x1 x2 x3 x4 s
  | .scSrai x1 x2 x3 x4 => Sys2Proof.Machine.execScSrai x1 x2 x3 x4 s
  | .scMini x1 x2 x3 x4 => Sys2Proof.Machine.execScMini x1 x2 x3 x4 s
  | .scMaxi x1 x2 x3 x4 => Sys2Proof.Machine.execScMaxi x1 x2 x3 x4 s
  | .scMinui x1 x2 x3 x4 => Sys2Proof.Machine.execScMinui x1 x2 x3 x4 s
  | .scMaxui x1 x2 x3 x4 => Sys2Proof.Machine.execScMaxui x1 x2 x3 x4 s
  | .scImm x1 x2 x3 x4 => Sys2Proof.Machine.execScImm x1 x2 x3 x4 s
  | .scLd x1 x2 x3 x4 x5 x6 => Sys2Proof.Machine.execScLd x1 x2 x3 x4 x5 x6 s
  | .scLdu x1 x2 x3 x4 x5 x6 => Sys2Proof.Machine.execScLdu x1 x2 x3 x4 x5 x6 s
  | .scSt x1 x2 x3 x4 x5 x6 => Sys2Proof.Machine.execScSt x1 x2 x3 x4 x5 x6 s
  | .scLdc x1 x2 x3 x4 x5 => Sys2Proof.Machine.execScLdc x1 x2 x3 x4 x5 s
  | .scLdcFe x1 x2 x3 x4 x5 => Sys2Proof.Machine.execScLdcFe x1 x2 x3 x4 x5 s
  | .scLdcTake x1 x2 x3 x4 x5 => Sys2Proof.Machine.execScLdcTake x1 x2 x3 x4 x5 s
  | .scLdcu x1 x2 x3 x4 x5 => Sys2Proof.Machine.execScLdcu x1 x2 x3 x4 x5 s
  | .scLdcuFe x1 x2 x3 x4 x5 => Sys2Proof.Machine.execScLdcuFe x1 x2 x3 x4 x5 s
  | .scLdcuTake x1 x2 x3 x4 x5 => Sys2Proof.Machine.execScLdcuTake x1 x2 x3 x4 x5 s
  | .scStc x1 x2 x3 x4 x5 => Sys2Proof.Machine.execScStc x1 x2 x3 x4 x5 s
  | .scStcSet x1 x2 x3 x4 x5 => Sys2Proof.Machine.execScStcSet x1 x2 x3 x4 x5 s
  | .scAmoAdd x1 x2 x3 x4 x5 x6 => Sys2Proof.Machine.execScAmoAdd x1 x2 x3 x4 x5 x6 s
  | .scAmoAnd x1 x2 x3 x4 x5 x6 => Sys2Proof.Machine.execScAmoAnd x1 x2 x3 x4 x5 x6 s
  | .scAmoOr x1 x2 x3 x4 x5 x6 => Sys2Proof.Machine.execScAmoOr x1 x2 x3 x4 x5 x6 s
  | .scAmoXor x1 x2 x3 x4 x5 x6 => Sys2Proof.Machine.execScAmoXor x1 x2 x3 x4 x5 x6 s
  | .scAmoMax x1 x2 x3 x4 x5 x6 => Sys2Proof.Machine.execScAmoMax x1 x2 x3 x4 x5 x6 s
  | .scAmoMin x1 x2 x3 x4 x5 x6 => Sys2Proof.Machine.execScAmoMin x1 x2 x3 x4 x5 x6 s
  | .scAmoMaxu x1 x2 x3 x4 x5 x6 => Sys2Proof.Machine.execScAmoMaxu x1 x2 x3 x4 x5 x6 s
  | .scAmoMinu x1 x2 x3 x4 x5 x6 => Sys2Proof.Machine.execScAmoMinu x1 x2 x3 x4 x5 x6 s
  | .scAmoSwap x1 x2 x3 x4 x5 x6 => Sys2Proof.Machine.execScAmoSwap x1 x2 x3 x4 x5 x6 s
  | .scAmoCas x1 x2 x3 x4 x5 x6 => Sys2Proof.Machine.execScAmoCas x1 x2 x3 x4 x5 x6 s
  | .scMfc x1 x2 x3 => Sys2Proof.Machine.execScMfc x1 x2 x3 s
  | .scMtc x1 x2 x3 => Sys2Proof.Machine.execScMtc x1 x2 x3 s
  | .scShw x1 x2 x3 => Sys2Proof.Machine.execScShw x1 x2 x3 s
  | .scCtv x1 x2 => Sys2Proof.Machine.execScCtv x1 x2 s
  | .scSvc x1 x2 => Sys2Proof.Machine.execScSvc x1 x2 s
  | .scTrap x1 x2 => Sys2Proof.Machine.execScTrap x1 x2 s
  | .scBrk x1 x2 => Sys2Proof.Machine.execScBrk x1 x2 s
  | .scStqpop x1 x2 => Sys2Proof.Machine.execScStqpop x1 x2 s
  | .scEret x1 => Sys2Proof.Machine.execScEret x1 s
  | .scZdef x1 x2 x3 x4 => Sys2Proof.Machine.execScZdef x1 x2 x3 x4 s
  | .scZdefh x1 x2 x3 x4 => Sys2Proof.Machine.execScZdefh x1 x2 x3 x4 s
  | .scHdef x1 x2 x3 x4 => Sys2Proof.Machine.execScHdef x1 x2 x3 x4 s
  | .scCmpx x1 x2 x3 x4 => Sys2Proof.Machine.execScCmpx x1 x2 x3 x4 s
  | .ctBr x1 x2 => Sys2Proof.Machine.execCtBr x1 x2 s
  | .ctCall x1 x2 => Sys2Proof.Machine.execCtCall x1 x2 s
  | .ctCallr x1 x2 => Sys2Proof.Machine.execCtCallr x1 x2 s
  | .ctJr x1 x2 => Sys2Proof.Machine.execCtJr x1 x2 s
  | .ctRet x1 x2 => Sys2Proof.Machine.execCtRet x1 x2 s
  | .ctLoop x1 x2 x3 x4 => Sys2Proof.Machine.execCtLoop x1 x2 x3 x4 s
  | .ctWait x1 x2 x3 x4 x5 => Sys2Proof.Machine.execCtWait x1 x2 x3 x4 x5 s
  | .ctBarArrive x1 x2 => Sys2Proof.Machine.execCtBarArrive x1 x2 s
  | .ctBarWait x1 x2 => Sys2Proof.Machine.execCtBarWait x1 x2 s
  | .ctBarSync x1 x2 => Sys2Proof.Machine.execCtBarSync x1 x2 s
  | .ctFenceRel x1 x2 => Sys2Proof.Machine.execCtFenceRel x1 x2 s
  | .ctFenceAcq x1 x2 => Sys2Proof.Machine.execCtFenceAcq x1 x2 s
  | .ctFenceVis x1 x2 => Sys2Proof.Machine.execCtFenceVis x1 x2 s
  | .ctFenceFull x1 => Sys2Proof.Machine.execCtFenceFull x1 s
  | .ctArm x1 x2 x3 => Sys2Proof.Machine.execCtArm x1 x2 x3 s
  | .ctMwait x1 x2 => Sys2Proof.Machine.execCtMwait x1 x2 s
  | .ctDawn x1 x2 => Sys2Proof.Machine.execCtDawn x1 x2 s
  | .ctDusk x1 => Sys2Proof.Machine.execCtDusk x1 s
  | .ctCheck x1 x2 => Sys2Proof.Machine.execCtCheck x1 x2 s
  | .ctAbort x1 => Sys2Proof.Machine.execCtAbort x1 s
  | .ctPand x1 x2 x3 x4 => Sys2Proof.Machine.execCtPand x1 x2 x3 x4 s
  | .ctPor x1 x2 x3 x4 => Sys2Proof.Machine.execCtPor x1 x2 x3 x4 s
  | .ctPxor x1 x2 x3 x4 => Sys2Proof.Machine.execCtPxor x1 x2 x3 x4 s
  | .ctPandn x1 x2 x3 x4 => Sys2Proof.Machine.execCtPandn x1 x2 x3 x4 s
  | .ctPnot x1 x2 x3 => Sys2Proof.Machine.execCtPnot x1 x2 x3 s
  | .ctPset x1 x2 => Sys2Proof.Machine.execCtPset x1 x2 s
  | .ctPclr x1 x2 => Sys2Proof.Machine.execCtPclr x1 x2 s
  | .ctRoff x1 x2 => Sys2Proof.Machine.execCtRoff x1 x2 s
  | .ctIdle x1 x2 => Sys2Proof.Machine.execCtIdle x1 x2 s
  | .ctEnd x1 => Sys2Proof.Machine.execCtEnd x1 s
  | .vFadd x1 x2 x3 x4 x5 x6 => Sys2Proof.Machine.execVFadd x1 x2 x3 x4 x5 x6 s
  | .vFsub x1 x2 x3 x4 x5 x6 => Sys2Proof.Machine.execVFsub x1 x2 x3 x4 x5 x6 s
  | .vFmul x1 x2 x3 x4 x5 x6 => Sys2Proof.Machine.execVFmul x1 x2 x3 x4 x5 x6 s
  | .vFma x1 x2 x3 x4 x5 x6 => Sys2Proof.Machine.execVFma x1 x2 x3 x4 x5 x6 s
  | .vFms x1 x2 x3 x4 x5 x6 => Sys2Proof.Machine.execVFms x1 x2 x3 x4 x5 x6 s
  | .vFmin x1 x2 x3 x4 x5 x6 => Sys2Proof.Machine.execVFmin x1 x2 x3 x4 x5 x6 s
  | .vFmax x1 x2 x3 x4 x5 x6 => Sys2Proof.Machine.execVFmax x1 x2 x3 x4 x5 x6 s
  | .vFabs x1 x2 x3 x4 x5 x6 => Sys2Proof.Machine.execVFabs x1 x2 x3 x4 x5 x6 s
  | .vFneg x1 x2 x3 x4 x5 x6 => Sys2Proof.Machine.execVFneg x1 x2 x3 x4 x5 x6 s
  | .vFscale x1 x2 x3 x4 x5 x6 => Sys2Proof.Machine.execVFscale x1 x2 x3 x4 x5 x6 s
  | .vFaddS x1 x2 x3 x4 x5 x6 => Sys2Proof.Machine.execVFaddS x1 x2 x3 x4 x5 x6 s
  | .vFsubS x1 x2 x3 x4 x5 x6 => Sys2Proof.Machine.execVFsubS x1 x2 x3 x4 x5 x6 s
  | .vFmulS x1 x2 x3 x4 x5 x6 => Sys2Proof.Machine.execVFmulS x1 x2 x3 x4 x5 x6 s
  | .vFmaS x1 x2 x3 x4 x5 x6 => Sys2Proof.Machine.execVFmaS x1 x2 x3 x4 x5 x6 s
  | .vFminS x1 x2 x3 x4 x5 x6 => Sys2Proof.Machine.execVFminS x1 x2 x3 x4 x5 x6 s
  | .vFmaxS x1 x2 x3 x4 x5 x6 => Sys2Proof.Machine.execVFmaxS x1 x2 x3 x4 x5 x6 s
  | .vFscaleS x1 x2 x3 x4 x5 x6 => Sys2Proof.Machine.execVFscaleS x1 x2 x3 x4 x5 x6 s
  | .vIadd x1 x2 x3 x4 x5 x6 => Sys2Proof.Machine.execVIadd x1 x2 x3 x4 x5 x6 s
  | .vIsub x1 x2 x3 x4 x5 x6 => Sys2Proof.Machine.execVIsub x1 x2 x3 x4 x5 x6 s
  | .vImul x1 x2 x3 x4 x5 x6 => Sys2Proof.Machine.execVImul x1 x2 x3 x4 x5 x6 s
  | .vImulh x1 x2 x3 x4 x5 x6 => Sys2Proof.Machine.execVImulh x1 x2 x3 x4 x5 x6 s
  | .vIand x1 x2 x3 x4 x5 x6 => Sys2Proof.Machine.execVIand x1 x2 x3 x4 x5 x6 s
  | .vIor x1 x2 x3 x4 x5 x6 => Sys2Proof.Machine.execVIor x1 x2 x3 x4 x5 x6 s
  | .vIxor x1 x2 x3 x4 x5 x6 => Sys2Proof.Machine.execVIxor x1 x2 x3 x4 x5 x6 s
  | .vIshl x1 x2 x3 x4 x5 x6 => Sys2Proof.Machine.execVIshl x1 x2 x3 x4 x5 x6 s
  | .vIshr x1 x2 x3 x4 x5 x6 => Sys2Proof.Machine.execVIshr x1 x2 x3 x4 x5 x6 s
  | .vIsra x1 x2 x3 x4 x5 x6 => Sys2Proof.Machine.execVIsra x1 x2 x3 x4 x5 x6 s
  | .vImin x1 x2 x3 x4 x5 x6 => Sys2Proof.Machine.execVImin x1 x2 x3 x4 x5 x6 s
  | .vImax x1 x2 x3 x4 x5 x6 => Sys2Proof.Machine.execVImax x1 x2 x3 x4 x5 x6 s
  | .vIminu x1 x2 x3 x4 x5 x6 => Sys2Proof.Machine.execVIminu x1 x2 x3 x4 x5 x6 s
  | .vImaxu x1 x2 x3 x4 x5 x6 => Sys2Proof.Machine.execVImaxu x1 x2 x3 x4 x5 x6 s
  | .vIaddS x1 x2 x3 x4 x5 x6 => Sys2Proof.Machine.execVIaddS x1 x2 x3 x4 x5 x6 s
  | .vIsubS x1 x2 x3 x4 x5 x6 => Sys2Proof.Machine.execVIsubS x1 x2 x3 x4 x5 x6 s
  | .vImulS x1 x2 x3 x4 x5 x6 => Sys2Proof.Machine.execVImulS x1 x2 x3 x4 x5 x6 s
  | .vIandS x1 x2 x3 x4 x5 x6 => Sys2Proof.Machine.execVIandS x1 x2 x3 x4 x5 x6 s
  | .vIorS x1 x2 x3 x4 x5 x6 => Sys2Proof.Machine.execVIorS x1 x2 x3 x4 x5 x6 s
  | .vIxorS x1 x2 x3 x4 x5 x6 => Sys2Proof.Machine.execVIxorS x1 x2 x3 x4 x5 x6 s
  | .vIshlS x1 x2 x3 x4 x5 x6 => Sys2Proof.Machine.execVIshlS x1 x2 x3 x4 x5 x6 s
  | .vIshrS x1 x2 x3 x4 x5 x6 => Sys2Proof.Machine.execVIshrS x1 x2 x3 x4 x5 x6 s
  | .vIsraS x1 x2 x3 x4 x5 x6 => Sys2Proof.Machine.execVIsraS x1 x2 x3 x4 x5 x6 s
  | .vIminS x1 x2 x3 x4 x5 x6 => Sys2Proof.Machine.execVIminS x1 x2 x3 x4 x5 x6 s
  | .vImaxS x1 x2 x3 x4 x5 x6 => Sys2Proof.Machine.execVImaxS x1 x2 x3 x4 x5 x6 s
  | .vIaddsS x1 x2 x3 x4 x5 x6 => Sys2Proof.Machine.execVIaddsS x1 x2 x3 x4 x5 x6 s
  | .vIsubsS x1 x2 x3 x4 x5 x6 => Sys2Proof.Machine.execVIsubsS x1 x2 x3 x4 x5 x6 s
  | .vIadds x1 x2 x3 x4 x5 x6 => Sys2Proof.Machine.execVIadds x1 x2 x3 x4 x5 x6 s
  | .vIsubs x1 x2 x3 x4 x5 x6 => Sys2Proof.Machine.execVIsubs x1 x2 x3 x4 x5 x6 s
  | .vIabsd x1 x2 x3 x4 x5 x6 => Sys2Proof.Machine.execVIabsd x1 x2 x3 x4 x5 x6 s
  | .vIavg x1 x2 x3 x4 x5 x6 => Sys2Proof.Machine.execVIavg x1 x2 x3 x4 x5 x6 s
  | .vImad16 x1 x2 x3 x4 x5 x6 => Sys2Proof.Machine.execVImad16 x1 x2 x3 x4 x5 x6 s
  | .vFcmpEq x1 x2 x3 x4 x5 x6 x7 => Sys2Proof.Machine.execVFcmpEq x1 x2 x3 x4 x5 x6 x7 s
  | .vFcmpLt x1 x2 x3 x4 x5 x6 x7 => Sys2Proof.Machine.execVFcmpLt x1 x2 x3 x4 x5 x6 x7 s
  | .vFcmpLe x1 x2 x3 x4 x5 x6 x7 => Sys2Proof.Machine.execVFcmpLe x1 x2 x3 x4 x5 x6 x7 s
  | .vFcmpUn x1 x2 x3 x4 x5 x6 x7 => Sys2Proof.Machine.execVFcmpUn x1 x2 x3 x4 x5 x6 x7 s
  | .vIcmpEq x1 x2 x3 x4 x5 x6 x7 => Sys2Proof.Machine.execVIcmpEq x1 x2 x3 x4 x5 x6 x7 s
  | .vIcmpLt x1 x2 x3 x4 x5 x6 x7 => Sys2Proof.Machine.execVIcmpLt x1 x2 x3 x4 x5 x6 x7 s
  | .vIcmpLtu x1 x2 x3 x4 x5 x6 x7 => Sys2Proof.Machine.execVIcmpLtu x1 x2 x3 x4 x5 x6 x7 s
  | .vFsum x1 x2 x3 x4 x5 => Sys2Proof.Machine.execVFsum x1 x2 x3 x4 x5 s
  | .vFmaxr x1 x2 x3 x4 x5 => Sys2Proof.Machine.execVFmaxr x1 x2 x3 x4 x5 s
  | .vImaxr x1 x2 x3 x4 x5 => Sys2Proof.Machine.execVImaxr x1 x2 x3 x4 x5 s
  | .vIminr x1 x2 x3 x4 x5 => Sys2Proof.Machine.execVIminr x1 x2 x3 x4 x5 s
  | .vIsumr x1 x2 x3 x4 x5 => Sys2Proof.Machine.execVIsumr x1 x2 x3 x4 x5 s
  | .vBcast x1 x2 x3 x4 x5 => Sys2Proof.Machine.execVBcast x1 x2 x3 x4 x5 s
  | .vSlideUp x1 x2 x3 x4 x5 x6 => Sys2Proof.Machine.execVSlideUp x1 x2 x3 x4 x5 x6 s
  | .vSlideDn x1 x2 x3 x4 x5 x6 => Sys2Proof.Machine.execVSlideDn x1 x2 x3 x4 x5 x6 s
  | .vMov x1 x2 x3 x4 x5 => Sys2Proof.Machine.execVMov x1 x2 x3 x4 x5 s
  | .vSel x1 x2 x3 x4 x5 x6 => Sys2Proof.Machine.execVSel x1 x2 x3 x4 x5 x6 s
  | .vPerm x1 x2 x3 x4 x5 x6 => Sys2Proof.Machine.execVPerm x1 x2 x3 x4 x5 x6 s
  | .vLidx x1 x2 x3 x4 => Sys2Proof.Machine.execVLidx x1 x2 x3 x4 s
  | .vCvt x1 x2 x3 x4 x5 x6 x7 => Sys2Proof.Machine.execVCvt x1 x2 x3 x4 x5 x6 x7 s
  | .vRetag x1 x2 x3 x4 x5 x6 => Sys2Proof.Machine.execVRetag x1 x2 x3 x4 x5 x6 s
  | .vLdL x1 x2 x3 x4 x5 x6 x7 => Sys2Proof.Machine.execVLdL x1 x2 x3 x4 x5 x6 x7 s
  | .vStL x1 x2 x3 x4 x5 x6 => Sys2Proof.Machine.execVStL x1 x2 x3 x4 x5 x6 s
  | .vLdC x1 x2 x3 x4 x5 x6 x7 => Sys2Proof.Machine.execVLdC x1 x2 x3 x4 x5 x6 x7 s
  | .vLdCFe x1 x2 x3 x4 x5 x6 x7 => Sys2Proof.Machine.execVLdCFe x1 x2 x3 x4 x5 x6 x7 s
  | .vLdCTake x1 x2 x3 x4 x5 x6 x7 => Sys2Proof.Machine.execVLdCTake x1 x2 x3 x4 x5 x6 x7 s
  | .vStC x1 x2 x3 x4 x5 x6 => Sys2Proof.Machine.execVStC x1 x2 x3 x4 x5 x6 s
  | .vStCSet x1 x2 x3 x4 x5 x6 => Sys2Proof.Machine.execVStCSet x1 x2 x3 x4 x5 x6 s
  | .vLdG x1 x2 x3 x4 x5 x6 x7 => Sys2Proof.Machine.execVLdG x1 x2 x3 x4 x5 x6 x7 s
  | .vStG x1 x2 x3 x4 x5 x6 => Sys2Proof.Machine.execVStG x1 x2 x3 x4 x5 x6 s
  | .vGather x1 x2 x3 x4 x5 x6 x7 => Sys2Proof.Machine.execVGather x1 x2 x3 x4 x5 x6 x7 s
  | .vScatter x1 x2 x3 x4 x5 x6 x7 => Sys2Proof.Machine.execVScatter x1 x2 x3 x4 x5 x6 x7 s
  | .mxMma x1 x2 x3 x4 x5 x6 x7 => Sys2Proof.Machine.execMxMma x1 x2 x3 x4 x5 x6 x7 s
  | .mxMmaz x1 x2 x3 x4 x5 x6 x7 => Sys2Proof.Machine.execMxMmaz x1 x2 x3 x4 x5 x6 x7 s
  | .mxHrot16 x1 x2 x3 x4 x5 => Sys2Proof.Machine.execMxHrot16 x1 x2 x3 x4 x5 s
  | .mxHrot64 x1 x2 x3 x4 x5 => Sys2Proof.Machine.execMxHrot64 x1 x2 x3 x4 x5 s
  | .mxDrain x1 x2 x3 x4 x5 x6 x7 => Sys2Proof.Machine.execMxDrain x1 x2 x3 x4 x5 x6 x7 s
  | .mxDrainH16 x1 x2 x3 x4 x5 x6 x7 => Sys2Proof.Machine.execMxDrainH16 x1 x2 x3 x4 x5 x6 x7 s
  | .mxDrainH64 x1 x2 x3 x4 x5 x6 x7 => Sys2Proof.Machine.execMxDrainH64 x1 x2 x3 x4 x5 x6 x7 s
  | .mxCprog x1 x2 x3 x4 => Sys2Proof.Machine.execMxCprog x1 x2 x3 x4 s
  | .mxMclr x1 x2 => Sys2Proof.Machine.execMxMclr x1 x2 s
  | .mxMtag x1 x2 x3 => Sys2Proof.Machine.execMxMtag x1 x2 x3 s
  | .mxMstat x1 x2 x3 => Sys2Proof.Machine.execMxMstat x1 x2 x3 s
  | .xCp x1 x2 x3 x4 x5 x6 x7 x8 => Sys2Proof.Machine.execXCp x1 x2 x3 x4 x5 x6 x7 x8 s
  | .xCpBs x1 x2 x3 x4 x5 x6 x7 x8 => Sys2Proof.Machine.execXCpBs x1 x2 x3 x4 x5 x6 x7 x8 s
  | .xCpSh x1 x2 x3 x4 x5 x6 x7 => Sys2Proof.Machine.execXCpSh x1 x2 x3 x4 x5 x6 x7 s
  | .xCpBcast x1 x2 x3 x4 x5 x6 x7 x8 => Sys2Proof.Machine.execXCpBcast x1 x2 x3 x4 x5 x6 x7 x8 s
  | .xCpDz x1 x2 x3 x4 x5 x6 x7 x8 => Sys2Proof.Machine.execXCpDz x1 x2 x3 x4 x5 x6 x7 x8 s
  | .xSread x1 x2 x3 x4 x5 x6 x7 => Sys2Proof.Machine.execXSread x1 x2 x3 x4 x5 x6 x7 s
  | .xPub x1 x2 x3 => Sys2Proof.Machine.execXPub x1 x2 x3 s
  | .xCancel x1 x2 x3 => Sys2Proof.Machine.execXCancel x1 x2 x3 s
  | .pfTrn8 x1 x2 x3 x4 => Sys2Proof.Machine.execPfTrn8 x1 x2 x3 x4 s
  | .pfTrn16 x1 x2 x3 x4 => Sys2Proof.Machine.execPfTrn16 x1 x2 x3 x4 s
  | .pfTrn32 x1 x2 x3 x4 => Sys2Proof.Machine.execPfTrn32 x1 x2 x3 x4 s
  | .pfFill x1 x2 x3 x4 => Sys2Proof.Machine.execPfFill x1 x2 x3 x4 s
  | .pfQnt x1 x2 x3 x4 x5 x6 => Sys2Proof.Machine.execPfQnt x1 x2 x3 x4 x5 x6 s
  | .pfDqnt x1 x2 x3 x4 x5 x6 => Sys2Proof.Machine.execPfDqnt x1 x2 x3 x4 x5 x6 s
  | .pfUpx12 x1 x2 x3 x4 => Sys2Proof.Machine.execPfUpx12 x1 x2 x3 x4 s
  | .pfPkx12 x1 x2 x3 x4 => Sys2Proof.Machine.execPfPkx12 x1 x2 x3 x4 s
  | .pfShuf x1 x2 x3 x4 x5 => Sys2Proof.Machine.execPfShuf x1 x2 x3 x4 x5 s
  | .eClr x1 => Sys2Proof.Machine.execEClr x1 s
  | .eSet x1 x2 => Sys2Proof.Machine.execESet x1 x2 s
  | .eTpl x1 x2 => Sys2Proof.Machine.execETpl x1 x2 s
  | .ePatch x1 x2 => Sys2Proof.Machine.execEPatch x1 x2 s
  | .eProv x1 => Sys2Proof.Machine.execEProv x1 s
  | .eEmitP x1 => Sys2Proof.Machine.execEEmitP x1 s
  | .eEmitS x1 => Sys2Proof.Machine.execEEmitS x1 s
  | .eEmitA x1 => Sys2Proof.Machine.execEEmitA x1 s
  | .eEmitrP x1 x2 x3 => Sys2Proof.Machine.execEEmitrP x1 x2 x3 s
  | .eEmitrS x1 x2 x3 => Sys2Proof.Machine.execEEmitrS x1 x2 x3 s
  | .eQst x1 x2 x3 => Sys2Proof.Machine.execEQst x1 x2 x3 s
  | .eWait x1 x2 x3 => Sys2Proof.Machine.execEWait x1 x2 x3 s
  | .eBind x1 x2 => Sys2Proof.Machine.execEBind x1 x2 s
  | .rv64imacInstruction x1 x2 => Sys2Proof.Machine.execRv64imacInstruction x1 x2 s
  | .illegalEncoding x1 x2 x3 => Sys2Proof.Machine.execIllegalEncoding x1 x2 x3 s
  | .eClrAll => Sys2Proof.Machine.execEClrAll s
  | .ecallEnd => Sys2Proof.Machine.execEcallEnd s
  | .ecallLog => Sys2Proof.Machine.execEcallLog s
  | .ecallYield => Sys2Proof.Machine.execEcallYield s
  | .ecallUnknown => Sys2Proof.Machine.execEcallUnknown s
  | .residencyUpdate => Sys2Proof.Machine.execResidencyUpdate s
  | .fixedLatencyResult => Sys2Proof.Machine.execFixedLatencyResult s
  | .countedLoadDelivery => Sys2Proof.Machine.execCountedLoadDelivery s
  | .uncorrectableMemoryError => Sys2Proof.Machine.execUncorrectableMemoryError s
  | .storeTicketKnown => Sys2Proof.Machine.execStoreTicketKnown s
  | .farStorePerformed => Sys2Proof.Machine.execFarStorePerformed s
  | .remoteTickConfirmation => Sys2Proof.Machine.execRemoteTickConfirmation s
  | .vclkTick => Sys2Proof.Machine.execVclkTick s
  | .tickMarkedPassed => Sys2Proof.Machine.execTickMarkedPassed s
  | .leaseExpiry => Sys2Proof.Machine.execLeaseExpiry s
  | .mwaitTimeout => Sys2Proof.Machine.execMwaitTimeout s
  | .idleCountExpiry => Sys2Proof.Machine.execIdleCountExpiry s
  | .secondaryFairnessWithhold => Sys2Proof.Machine.execSecondaryFairnessWithhold s
  | .handleEntryRead => Sys2Proof.Machine.execHandleEntryRead s
  | .engineCommandStart => Sys2Proof.Machine.execEngineCommandStart s
  | .engineCommandComplete => Sys2Proof.Machine.execEngineCommandComplete s
  | .pubSwap => Sys2Proof.Machine.execPubSwap s
  | .sreadCompletion => Sys2Proof.Machine.execSreadCompletion s
  | .nvmeCommandTimeout => Sys2Proof.Machine.execNvmeCommandTimeout s
  | .regionRollback => Sys2Proof.Machine.execRegionRollback s
  | .dirRead => Sys2Proof.Machine.execDirRead s
  | .dirOwnedWrite => Sys2Proof.Machine.execDirOwnedWrite s
  | .evictionNoticeClean => Sys2Proof.Machine.execEvictionNoticeClean s
  | .evictionNoticeData => Sys2Proof.Machine.execEvictionNoticeData s
  | .invalidation => Sys2Proof.Machine.execInvalidation s
  | .recall => Sys2Proof.Machine.execRecall s
  | .acknowledgement => Sys2Proof.Machine.execAcknowledgement s
  | .l2Eviction => Sys2Proof.Machine.execL2Eviction s
  | .homeOwnedWrite => Sys2Proof.Machine.execHomeOwnedWrite s
  | .homeEntryEviction => Sys2Proof.Machine.execHomeEntryEviction s
  | .instructionPrefetch => Sys2Proof.Machine.execInstructionPrefetch s
  | .shootdownAck => Sys2Proof.Machine.execShootdownAck s
  | .keyRetirement => Sys2Proof.Machine.execKeyRetirement s
  | .trapReplay => Sys2Proof.Machine.execTrapReplay s
  | .fetchMissPaging => Sys2Proof.Machine.execFetchMissPaging s
  | .readDuplicateCollapse => Sys2Proof.Machine.execReadDuplicateCollapse s
  | .trapRecordFree => Sys2Proof.Machine.execTrapRecordFree s
  | .reap => Sys2Proof.Machine.execReap s
  | .remoteRouteTimeout => Sys2Proof.Machine.execRemoteRouteTimeout s
  | .stewardCrash => Sys2Proof.Machine.execStewardCrash s
  | .warmReadoption => Sys2Proof.Machine.execWarmReadoption s
  | .readoptionTimeout => Sys2Proof.Machine.execReadoptionTimeout s
  | .composerSlotSwitch => Sys2Proof.Machine.execComposerSlotSwitch s
  | .emitQueueRoom => Sys2Proof.Machine.execEmitQueueRoom s
  | .primaryBindingLapseEnd => Sys2Proof.Machine.execPrimaryBindingLapseEnd s
  | .mailboxDelivery => Sys2Proof.Machine.execMailboxDelivery s
  | .dbell => Sys2Proof.Machine.execDbell s
  | .ringConfigWrite => Sys2Proof.Machine.execRingConfigWrite s
  | .sequenceRereadTimeout => Sys2Proof.Machine.execSequenceRereadTimeout s
  | .launch => Sys2Proof.Machine.execLaunch s
  | .endLaunch => Sys2Proof.Machine.execEndLaunch s
  | .registerBuffer => Sys2Proof.Machine.execRegisterBuffer s
  | .unregisterBuffer => Sys2Proof.Machine.execUnregisterBuffer s
  | .configureOrdmode => Sys2Proof.Machine.execConfigureOrdmode s
  | .configureTelemetryPage => Sys2Proof.Machine.execConfigureTelemetryPage s
  | .configurePowerCap => Sys2Proof.Machine.execConfigurePowerCap s
  | .tearDownSpace => Sys2Proof.Machine.execTearDownSpace s
  | .launchClaim => Sys2Proof.Machine.execLaunchClaim s
  | .releaseTick => Sys2Proof.Machine.execReleaseTick s
  | .preemption => Sys2Proof.Machine.execPreemption s
  | .resume => Sys2Proof.Machine.execResume s
  | .launchCompletion => Sys2Proof.Machine.execLaunchCompletion s
  | .completionWordPassed => Sys2Proof.Machine.execCompletionWordPassed s
  | .faultEndLaunch => Sys2Proof.Machine.execFaultEndLaunch s
  | .imageLoad => Sys2Proof.Machine.execImageLoad s
  | .powerOn => Sys2Proof.Machine.execPowerOn s
  | .moduleReset => Sys2Proof.Machine.execModuleReset s
  | .lifecycleChange => Sys2Proof.Machine.execLifecycleChange s
  | .dieStageOnePassed => Sys2Proof.Machine.execDieStageOnePassed s
  | .fullServiceStart => Sys2Proof.Machine.execFullServiceStart s
  | .heartbeat => Sys2Proof.Machine.execHeartbeat s
  | .heartbeatMiss => Sys2Proof.Machine.execHeartbeatMiss s
  | .resetVote => Sys2Proof.Machine.execResetVote s
  | .telemetryRewrite => Sys2Proof.Machine.execTelemetryRewrite s
  | .powerCapLimiting => Sys2Proof.Machine.execPowerCapLimiting s
  | .junctionTemperature => Sys2Proof.Machine.execJunctionTemperature s
  | .thermalRecovery => Sys2Proof.Machine.execThermalRecovery s
  | .nop => Sys2Proof.Machine.execNop s
  | .hostMemoryAccess => Sys2Proof.Machine.execHostMemoryAccess s
  | .homeRead => Sys2Proof.Machine.execHomeRead s
  | .farLoadPerformed => Sys2Proof.Machine.execFarLoadPerformed s
  | .linkLevelRetry => Sys2Proof.Machine.execLinkLevelRetry s
  | .powerCapLimitingEnd => Sys2Proof.Machine.execPowerCapLimitingEnd s

end Sys2Proof.Machine
end

