-- ==== Sys2Proof/Machine/Loader.lean ====
section
/-! DEFINITION. A word placed where the next step fetches: a code page of core 0, or of generator slot 0 of composer 0 (log 25). -/

namespace Sys2Proof.Machine

/-- The tables of space 0, and one page at virtual address 0: kind code for a core, writable memory for a generator. -/
def loaderTables (leaf : BitVec 64) : List (Nat × BitVec 64) :=
  [(0x4000, 0x8001), (0x8000, 0xC001), (0xC000, 0x10001), (0x10000, 0x14001), (0x14000, leaf)]

/-- The module with a page of bytes at virtual address 0 of space 0. -/
def Mach.withPage (m : Mach) (leaf : BitVec 64) (bytes : List (BitVec 8)) : Mach :=
  let cells := (loaderTables leaf).flatMap (fun e => (toBytes 8 e.2.toNat).mapIdx (fun i b => (e.1 + i, b)))
    ++ bytes.mapIdx (fun i b => (0x20000 + i, b))
  { m with
    mem := Mem.writeAll m.mem cells,
    clusters := [],
    fw.spaces := Sparse.put m.fw.spaces 0 { roots := Sparse.put [] m.fleet.number.toNat 0x4000 },
    fw.retired := m.fw.retired.filter (fun k => k ≠ 0) }

/-- The bundle of a word in its slot. A copy word with fo set needs an MX word beside it (R70): mx.mclr m0. -/
def loaderBundle (s : Slot) (v : SlotWord) : Nat :=
  let fo : Bool := match decodeWord s v with
    | .ok i => hasFo i
    | .error _ => false
  v.toNat * 2 ^ (32 * s.num) + (if fo then 0x00800004 * 2 ^ (32 * Slot.mx.num) else 0)

/-- A core about to fetch at address 0 of space 0 in fetched mode. -/
def loaderCore (x : CoreState) : CoreState :=
  { x with
    reg.status := .running,
    ctl.space := 0,
    front := {},
    trap.monitor := false,
    region := none,
    releasing := [],
    replay := [],
    flight := {},
    caches := {} }

/-- A slot about to fetch at address 0 of space 0 in U-mode. -/
def loaderHart (h : Hart) : Hart :=
  { h with pc := 0, user := true, status := .ready, mgspace := 0, msip := false }

/-- A word stored where the next step fetches it, and that step's turn. -/
def placeWord (nbits w : Nat) (s : State) : State :=
  let v : SlotWord := BitVec.ofNat 32 (w % 2 ^ nbits)
  match tableSlot v with
  | some k =>
    { s with
      mach := (s.mach.withPage 0x20013 (toBytes 32 (loaderBundle k v))).modCore 0 loaderCore,
      agenda := [.cycle 0],
      iss := none }
  | none =>
    { s with
      mach := (s.mach.withPage 0x20223 (toBytes 4 v.toNat)).modComp 0 (fun c =>
        { c with current := 0, run := 0, harts := Sparse.put [] 0 (loaderHart (c.hart 0)) }),
      agenda := [.compose 0],
      iss := none }

end Sys2Proof.Machine
end

