-- ==== Sys2Proof/Machine/Scheduler.lean ====
section
/-! DEFINITION. Which agent moves next (log 1, log 2): the head of the agenda; an empty agenda is filled with one round. -/

namespace Sys2Proof.Machine

/-- The events of a store in flight: its ticket, now; one of an untracked page enters the L1 first, and has its ticket when its lines
are evicted (R363); a far one is performed at its space. -/
def storeEvents (now : Tick) (c : Nat) (s : StoreOp) : List Action :=
  if s.space ≠ .glob then [.event .farStorePerformed { agent := c, item := s.id, tick := now }]
  else if s.entered then
    (((s.bytes.filter (fun b => s.loose.contains b.1)).map (fun b => b.1 / 256)).eraseDups).map (fun l =>
      .event .evictionNoticeData { agent := c, item := l })
    ++ [.event .storeTicketKnown { agent := c, item := s.id, tick := now }]
  else [.event .storeTicketKnown { agent := c, item := s.id, tick := now }]

/-- The events that a core's operations in flight wait for, each with the tick now (log 2). -/
def coreEvents (now : Tick) (c : Nat) (x : CoreState) : List Action :=
  let ev := fun (i : Instr) (n : Nat) => Action.event i { agent := c, item := n, tick := now }
  (x.flight.fars.map (fun f => ev .farLoadPerformed f.id))
  ++ (x.flight.stores.flatMap (storeEvents now c))
  ++ (x.flight.loads.map (fun l => ev .countedLoadDelivery l.id))
  ++ (x.flight.cmds.filterMap (fun k => if !k.running then some (ev .engineCommandStart k.id) else match k.kind with
      | .sread .. => none
      | .pub _ => some (ev .pubSwap k.id)
      | _ => some (ev .engineCommandComplete k.id)))
  ++ ((x.flight.handles.filter (fun h => !h.read)).map (fun h =>
      Action.event .handleEntryRead { agent := c, word := h.addr, stream := h.stream }))
  ++ (x.flight.remotes.map (fun r => ev .remoteTickConfirmation r.1))
  ++ (match x.region with
      | some r => if r.roll.isSome then [ev .regionRollback 0] else []
      | none => [])

/-- The events that launches wait for (R255, R260, R387): the tick of release, the end of a stop, completion. -/
def launchEvents (now : Tick) (l : Launch) : List Action :=
  let ev := fun (i : Instr) => Action.event i { item := l.number.toNat, tick := now }
  match l.status with
  | .stopping => [ev .preemption]
  | .running => if l.cores.all (fun e => l.reported.contains e.core) then [ev .launchCompletion] else []
  | .completing => [ev .completionWordPassed]
  | .waiting | .claimed | .saved | .ended => []

/-- A message between an L1 and its slice, or between the home and a die, arrives. -/
def messageEvent : Msg → Action
  | .invalidate c l s => .event .invalidation { agent := c, item := l, part := s }
  | .recall c l s => .event .recall { agent := c, item := l, part := s }
  | .ack c l s => .event .acknowledgement { agent := c, item := l, part := s }
  | .notice c l w => .event (if w = [] then .evictionNoticeClean else .evictionNoticeData) { agent := c, item := l, flag := true }
  | .drop d l w => .event .invalidation { agent := d, item := l, part := w, flag := true }
  | .dropped d l w => .event .acknowledgement { agent := d, item := l, part := w, flag := true }

/-- What the firmware has asked of a die: residency registers reach its slices (R276), and a shootdown is acknowledged (R359). -/
def dieEvents (d : Nat) (x : Die) : List Action :=
  (if (List.range 16).all (fun k => Sparse.get [] x.rsvSlice k = x.rsv) then [] else [.event .residencyUpdate { agent := d }])
  ++ (if x.shootdown then [.event .shootdownAck { agent := d }] else [])

/-- The stores of a slot wait for their tickets. -/
def slotEvents (now : Tick) (n : Nat) (h : Hart) : List Action :=
  (h.stores.filter (fun k => k.ticket.isNone)).map (fun k =>
    Action.event .storeTicketKnown { agent := n, item := k.id, tick := now, flag := true })

/-- The launches that are released at the tick now. -/
def Mach.dueLaunches (m : Mach) : List Launch := m.fw.launches.filter (fun l => l.status = .claimed && l.tick = some m.vclk)

/-- One round: launches whose tick has come are released; a cycle of every core that runs, an instruction of every composer with a
slot in use, those released among them (R255); the events that operations in flight, launches, messages and dies wait for; a tick
of VCLK. DESIGN CHOICE (log 2): every tick that has then passed is marked passed in one move; R10 says only that the hardware does
so within 2^20 ticks. -/
def Mach.round (m : Mach) : List Action :=
  let due := m.dueLaunches
  let starts := fun (x : CoreState) => x.reg.status = .idle && due.any (fun l => l.number = x.reg.launch)
  let works := fun (h : Hart) => (h.status ≠ .free && h.status ≠ .stopped) || due.any (fun l => l.number = h.launch)
  (due.map (fun l => Action.event .releaseTick { item := l.number.toNat }))
  ++ ((m.cores.filter (fun e => e.2.running || starts e.2)).map (fun e => Action.cycle e.1))
  ++ ((m.comps.filter (fun e => e.2.harts.any (fun h => works h.2))).map (fun e => Action.compose e.1))
  ++ (m.cores.flatMap (fun e => coreEvents m.vclk e.1 e.2))
  ++ (m.comps.flatMap (fun e => e.2.harts.flatMap (fun h => slotEvents m.vclk (8 * e.1 + h.1) h.2)))
  ++ m.msgs.map messageEvent
  ++ (m.dies.flatMap (fun d => dieEvents d.1 d.2))
  ++ (m.fw.awaits.map (fun k => .event .shootdownAck { part := k, flag := true }))
  ++ (m.fw.launches.flatMap (launchEvents m.vclk))
  ++ [.event .vclkTick {}, .event .tickMarkedPassed {}]

/-- One move: the head of the agenda moves, or the next round is entered and its head moves. A module has 1,024 cores and 256
composers (R1, R201). -/
def move (ex : Exec) (compose : Exec → Nat → State → Host.Outcome State Fault Refusal) (s : State) :
    Host.Outcome State Fault Refusal :=
  let l := if s.agenda = [] then s.mach.round else s.agenda
  match l with
  | [] => .next s
  | .cycle c :: r => if 1024 ≤ c then .fault .noSuchAgent else coreCycle ex c { s with agenda := r }
  | .compose k :: r => if 256 ≤ k then .fault .noSuchAgent else compose ex k { s with agenda := r }
  | .event i a :: r => ex i { s with agenda := r, arg := a }

end Sys2Proof.Machine
end

