-- ==== Sys2Proof/Machine/Step.lean ====
section
/-! DEFINITION. One step of the module. -/

namespace Sys2Proof.Machine

/-- One step: the agent that is next moves (log 1). -/
def step (s : State) : Host.Outcome State Fault Refusal := move exec composeCycle s

/-- The state with an instruction of the opcode table where the next step fetches it (log 25). -/
def State.withFetchWord (s : State) (nbits w : Nat) : State := placeWord nbits w s

end Sys2Proof.Machine
end

