-- ==== Sys2Proof/Safety.lean ====
section
/-! DEFINITION. The terms in which claims are stated: a word that takes effect in an open issue, the answers of a word, what an
issue may not touch, and the invariant of the module. -/

namespace Sys2Proof.Machine

/-! ### A word in an open issue -/

/-- No rule before the word's own meaning stops it (R13, R81, R126, R377, R422): its guard reads true; fed, it is no word of the
fetched mode; it stands in no region that it rolls back; in service code it is a word that service code may hold; Twilight
service does not refuse it. -/
structure Takes (i : Instr) (iss : Issue) (s : State) : Prop where
  isOpen : s.iss = some iss
  guard : guarded iss.x i = true
  fetched : (fetchedOnly i && iss.origin.fed) = false
  outside : (unsupported i && (iss.x.region.isSome || (s.mach.core iss.core).region.isSome)) = false
  allowed : (iss.x.trap.monitor && !(serviceWord i)) = false
  service : (twilightRefused i && iss.x.twilight) = false

/-- The word answers with the module `m` and the issue `iss`. -/
def answer (s : State) (iss : Issue) (m : Mach) : Host.Outcome State Fault Refusal := .next { s with mach := m, iss := some iss }

/-- The word changes its own core only. -/
def onCore (s : State) (iss : Issue) (f : CoreState → CoreState) : Host.Outcome State Fault Refusal :=
  answer s iss (s.mach.modCore iss.core f)

/-- The word stops: nothing of it takes effect, and the issue notes why. -/
def stopped (s : State) (iss : Issue) (i : Instr) (e : Stop) : Host.Outcome State Fault Refusal :=
  answer s { iss with stops := iss.stops ++ [(iss.stream, slotNum i, e)] } s.mach

/-- Where the word takes effect, it completes and changes its own core only, by `f`. -/
def Gives (i : Instr) (iss : Issue) (s : State) (f : CoreState → CoreState) : Prop :=
  Takes i iss s → exec i s = onCore s iss f

/-- Where the word would take effect, it stops for `e`. -/
def Stops (i : Instr) (iss : Issue) (s : State) (e : Stop) : Prop := Takes i iss s → exec i s = stopped s iss i e

/-- The decoder refuses the word in its slot: it is an illegal encoding (R69). -/
def badWord (k : Slot) (w : SlotWord) : Prop := ∃ e, decodeWord k w = .error e

/-- A result of a class on its way from a slot to a register (R75). -/
def result (iss : Issue) (slot : Nat) (k : LatClass) (d : Option Dest) (v : VData) (x : CoreState) : CoreState :=
  pushResult x iss.stream slot k d v

/-- A scalar result on its way to g[d]; g0 discards it (R15). -/
def toG (iss : Issue) (k : LatClass) (d : BitVec 6) (v : Dword) : CoreState → CoreState :=
  result iss 0 k (iss.x.destG d) (v.setWidth 2048)

/-- A predicate on its way to p[d] in class A from a slot; p0 discards it (R15). -/
def toP (iss : Issue) (slot : Nat) (d : BitVec 4) (v : Bool) : CoreState → CoreState :=
  result iss slot .A (iss.x.destP d) (if v then 1 else 0)

/-- A comparison: pT takes the result and pF its negation; pT prevails where both are one register (R97). -/
def toPair (iss : Issue) (t f : BitVec 4) (v : Bool) (x : CoreState) : CoreState :=
  if t = f then toP iss 0 t v x else toP iss 0 t v (toP iss 0 f (!v) x)

/-! ### Accesses -/

/-- The trap that R99 gives an access of `n` bytes at A, its checks in their order (R99, R359). -/
def GlobalChecks (i : Instr) (iss : Issue) (s : State) (va : Dword) (n : Nat) (store : Bool) (rq : BitVec 2) : Prop :=
  let raises := fun (cause : BitVec 8) (fatal replay : Bool) =>
    Stops i iss s (.trap { cause := cause, fatal := fatal, replay := replay, taddr := va, tval := tvalOf i })
  let high := ∀ k, 57 ≤ k → k < 64 → va.getLsbD k = va.getLsbD 56
  (va.toNat % n ≠ 0 → raises 7 false false)
  ∧ (va.toNat % n = 0 → ¬high → raises 5 false false)
  ∧ (va.toNat % n = 0 → high → (∀ e k, iss.pre.translate iss.core va ≠ .leaf e k) → raises 3 true false)
  ∧ ∀ e k, va.toNat % n = 0 → high → iss.pre.translate iss.core va = .leaf e k →
      let barred := pteKind e = 2 ∨ (pteKind e = 1 ∧ rq ≠ 3) ∨ (store = true ∧ (pteWritable e = false ∨ pteKind e ≠ 0))
      (barred → raises 5 false false)
      ∧ (¬barred → store = true → pteRdup e = true → raises 6 false true)

/-- The byte that a local load reads: the latest own store not yet performed there, else the space. -/
def localByte (iss : Issue) (sp : Space) (a : Nat) : BitVec 8 :=
  overlayByte (pendingLocal iss.x sp) (iss.pre.bytesOf sp) a

/-- A local access that is performed at once, in a space that other cores reach, finds nothing that it must wait for (R295, R351).
-/
def nearFree (iss : Issue) (slot : Nat) (sp : Space) (cells : List Nat) (store : Bool) : Prop :=
  sp.sharedBits = true → iss.pre.canPerform iss.core (nearRef iss.x iss.stream slot sp cells store) = true

/-- A local load of `n` bytes at S into g[t] completes: its value in class D where it is read at once, later by a bank conflict
(R75) or, under .fe and .take, by the way to a far space, a far load otherwise; .take leaves the granule empty (R102, R103, R429).
One that is read at once waits till the accesses that come before it can be performed (R295, R351). -/
def LocalLoads (i : Instr) (iss : Issue) (s : State) (t : BitVec 6) (va : Dword) (n : Nat) (signed test take : Bool) : Prop :=
  Takes i iss s → iss.x.region = none → (s.mach.core iss.core).region = none → va.toNat % n = 0 → va.toNat < 2 ^ 32 →
  ∀ sp o, iss.pre.locate iss.core va.toNat n = some (sp, o) → (test = true → sp.hasBits = true ∧ iss.pre.isFull sp (o / 16) = true) →
    orderHold iss (localZones sp) false = false → interlocked iss.x sp o (o + n - 1) take = false →
    let cells := (List.range n).map (fun k => o + k)
    let place := nearRef iss.x iss.stream 0 sp cells false
    (test = true ∨ isFar iss.core sp o = false → nearFree iss 0 sp cells false) →
    let value := extendTo64 signed (8 * n) (ofBytes (cells.map (localByte iss sp)))
    let empty := fun (m : Mach) => if take then m.setFull sp [o / 16] false else m
    (test = true ∨ isFar iss.core sp o = false →
      exec i s = answer s iss (empty ((s.mach.beforeLocal iss.core place).modCore iss.core (fun y =>
        pushResult y iss.stream 0 .D (iss.x.destG t) (value.setWidth 2048) (load := true) (late := localDelay iss 0 sp cells test)))))
    ∧ (test = false → isFar iss.core sp o = true →
      exec i s = answer s iss (s.mach.modCore iss.core (fun y =>
        let z := y.charge (localZones sp)
        let far : FarLoad :=
          { id := y.flight.nextOp, space := sp, elems := [{ lane := 0, addr := o, size := n, signed := signed }],
            overlay := overlayFor (pendingLocal iss.x sp) cells, zones := z.2, issue := y.flight.issue, stream := iss.stream }
        pushResult { z.1 with flight.nextOp := y.flight.nextOp + 1, flight.fars := y.flight.fars ++ [far] }
          iss.stream 0 .D (iss.x.destG t) 0 (load := true) (far := some y.flight.nextOp))))

/-- In an open region a local load that is read at once completes with its guard set, over the region's held bytes; .take holds the
emptying of its granule and reserves it (R306, R307, R309, R311, R313). -/
def RegionLoads (i : Instr) (iss : Issue) (s : State) (t : BitVec 6) (va : Dword) (n : Nat) (signed test take : Bool) : Prop :=
  Takes i iss s → ∀ r, (s.mach.core iss.core).region = some r → va.toNat % n = 0 → va.toNat < 2 ^ 32 →
  ∀ sp o, iss.pre.locate iss.core va.toNat n = some (sp, o) → (test = true → sp.hasBits = true ∧ iss.pre.isFull sp (o / 16) = true) →
    orderHold iss (localZones sp) false = false → interlocked iss.x sp o (o + n - 1) take = false →
    let cells := (List.range n).map (fun k => o + k)
    (∀ a ∈ cells, heldCommandWrites r sp a a [] = false) → (take = true → r.entries < 128) →
    (test = true ∨ isFar iss.core sp o = false) → nearFree iss 0 sp cells false →
    let value := extendTo64 signed (8 * n) (ofBytes (cells.map (overlayByte (heldBytes iss.x sp ++ pendingLocal iss.x sp) (iss.pre.bytesOf sp))))
    let reserve := fun (m : Mach) => if take then m.modCore iss.core (fun y => { y with
        region := y.region.map (fun r => { r with held := r.held ++ [.take sp (o / 16)], reserved := r.reserved ++ [(sp, o / 16)] }) })
      else m
    exec i s = answer s iss (reserve ((s.mach.beforeLocal iss.core (nearRef iss.x iss.stream 0 sp cells false)).modCore iss.core (fun y =>
      pushResult (setGuard y (gPhys iss.x.regs.roff t) sp o (o + n - 1)) iss.stream 0 .D (iss.x.destG t) (value.setWidth 2048)
        (load := true) (late := localDelay iss 0 sp cells test))))

/-- Where a local access of `n` bytes at S does not complete (R102, R103). -/
def LocalChecks (i : Instr) (iss : Issue) (s : State) (va : Dword) (n : Nat) (bits store hold : Bool) : Prop :=
  (va.toNat % n ≠ 0 → Stops i iss s (slotTrap i 7 va))
  ∧ (va.toNat % n = 0 → 2 ^ 32 ≤ va.toNat → Stops i iss s (slotTrap i 5 va))
  ∧ (va.toNat % n = 0 → va.toNat < 2 ^ 32 → iss.pre.locate iss.core va.toNat n = none → Stops i iss s (slotTrap i 5 va))
  ∧ ∀ sp o, va.toNat % n = 0 → va.toNat < 2 ^ 32 → iss.pre.locate iss.core va.toNat n = some (sp, o) →
      (bits = true → sp.hasBits = false → Stops i iss s (slotTrap i 5 va))
      ∧ (store = true → (∃ c, sp = .const c) → Stops i iss s (slotTrap i 5 va))
      ∧ (hold = true → sp.hasBits = true → iss.pre.isFull sp (o / 16) = false → Stops i iss s (.hold .plain))

/-! ### Vector results -/

/-- A vector result: its lanes under a mask on their way to v[d] in a class, with their tag and the word's numerical events; where
the mask is not whole and v[d], as it stands without writes still on their way, carries another tag than the result's and is not
untyped, the word stops instead (R22, R132, R134). -/
def VectorGives (i : Instr) (iss : Issue) (s : State) (k : LatClass) (d : BitVec 5) (mask : BitVec 64) (tag : BitVec 5)
    (holds : VData → Tally → Prop) : Prop :=
  let fits := mask = BitVec.allOnes 64 ∨ (iss.standing.v d).tag = tag ∨ (iss.standing.v d).tag = tUntyped
  (¬fits → Stops i iss s (tagTrap i iss.standing d true))
  ∧ (fits → Takes i iss s → ∃ (v : VData) (t : Tally), holds v t
    ∧ exec i s = answer s { iss with events := iss.events ++ t.events (slotNum i) iss.stream } (s.mach.modCore iss.core (fun y =>
        pushResult y iss.stream (slotNum i) k (iss.x.destV d) v mask (some tag))))

/-- The first source of a list that carries a tag its operand does not accept stops the word (R134). -/
def TagChecks (i : Instr) (iss : Issue) (s : State) (sources : List (BitVec 5 × (BitVec 5 → Bool))) : Prop :=
  ∀ before r accepts after, sources = before ++ (r, accepts) :: after → (∀ e ∈ before, e.2 (iss.x.v e.1).tag = true) →
    accepts (iss.x.v r).tag = false → Stops i iss s (tagTrap i iss.x r false)

/-- A word with sources: the first bad tag stops it; behind them that of vd, where the word reads vd under `reads`, as it stands
without writes still on their way (R22, R134); else it gives its result. -/
def VectorWord (i : Instr) (iss : Issue) (s : State) (sources : List (BitVec 5 × (BitVec 5 → Bool))) (k : LatClass) (d : BitVec 5)
    (mask : BitVec 64) (tag : BitVec 5) (holds : VData → Tally → Prop) (reads : BitVec 5 → Bool := fun _ => true) : Prop :=
  TagChecks i iss s sources ∧ ((∀ e ∈ sources, e.2 (iss.x.v e.1).tag = true) →
    (reads (iss.standing.v d).tag = false → Stops i iss s (tagTrap i iss.standing d false))
    ∧ (reads (iss.standing.v d).tag = true → VectorGives i iss s k d mask tag holds))

/-! ### Engine words -/

/-- Nothing but the checks of its own word stands in the way of a command: no open region, no fence of its stream that waits, an
interval and a count to spare (R161, R162, R285). -/
structure Clear (iss : Issue) (s : State) (slot : Nat) (ivals : List Interval) : Prop where
  closed : iss.x.region = none
  still : (s.mach.core iss.core).region = none
  fences : ∀ zones write, orderHold iss zones write = false
  intervals : intervalsUsed (s.mach.core iss.core) + (mergeIntervals ivals).length ≤ 32
  counter : (if slot = 4 then (s.mach.core iss.core).cnt.mx else (s.mach.core iss.core).cnt.cp) ≠ 63

/-- Where the word takes effect and its way is clear, it completes by issuing its command (R160, R161), and `f` says what the
issue changes besides. In an open region, and nothing in the way, one that is no cp.sh is held instead: it joins the region's held
effects, unless a destination of it meets a guard in force or 16 commands are held already (R308, R311, R313). -/
def Commands (i : Instr) (iss : Issue) (s : State) (kind : CmdKind) (ivals : List Interval) (reads writes : List (Nat × Nat))
    (rq : BitVec 2) (f : Mach → Mach) : Prop :=
  let k : Command :=
    { id := 0, issue := 0, slot := slotNum i, stream := iss.stream, origin := iss.origin, word := (encode i).getD 0, kind := kind,
      ivals := mergeIntervals ivals, rq := rq,
      after := if slotNum i = 4 && copyBefore iss = some true then some 0 else none }
  (Clear iss s (slotNum i) ivals → Takes i iss s → exec i s = answer s iss (f (s.mach.issueCommand iss.core k reads writes)))
  ∧ ∀ r, (s.mach.core iss.core).region = some r → kind.intoShadow = false → (∀ zones write, orderHold iss zones write = false) →
    let guarded := ∃ g ∈ guardsOf iss, (∃ v ∈ k.ivals, v.write = true ∧ v.space = g.space ∧ meets v.lo v.hi g.lo g.hi = true)
      ∨ (g.space = .glob ∧ ∃ w ∈ writes, ∃ q ∈ iss.pre.cellRanges iss.core w.1 w.2, meets q.1 q.2 g.lo g.hi = true)
    let held : Held := .cmd k (reads.map (fun e => (e.1, e.2, false)) ++ writes.map (fun e => (e.1, e.2, true)))
    let keep := fun (y : CoreState) => ({ y with region := y.region.map (fun r => { r with held := r.held ++ [held] }) } : CoreState)
    (guarded → Stops i iss s (.roll 1))
    ∧ (¬guarded → 16 ≤ r.commands → Stops i iss s (.roll 4))
    ∧ (¬guarded → r.commands < 16 → Takes i iss s → exec i s = answer s iss (f (s.mach.modCore iss.core keep)))

/-! ### Events -/

/-- The event answers with this module, and changes nothing else. -/
def moves (i : Instr) (s : State) (m : Mach) : Prop := exec i s = .next { s with mach := m }

/-- The event answers with a module of which `p` holds, and changes nothing else. -/
def Becomes (i : Instr) (s : State) (p : Mach → Prop) : Prop := ∃ m : Mach, moves i s m ∧ p m

/-- The event changes one core only. -/
def turns (i : Instr) (s : State) (c : Nat) (f : CoreState → CoreState) : Prop := moves i s (s.mach.modCore c f)

/-- The agenda as a step finds it: a round where it was empty. -/
def State.turns (s : State) : List Action := if s.agenda = [] then s.mach.round else s.agenda

/-! ### What words leave as it is -/

/-- Two states of a core agree on everything but its operations in flight, its counters, the epochs of its zones and its caches. -/
def sameButOps (x y : CoreState) : Prop :=
  { x with flight := {}, cnt := {}, zones := [], caches := {} } = { y with flight := {}, cnt := {}, zones := [], caches := {} }

/-- Two modules agree on everything but one core. -/
def sameOutside (c : Nat) (m m' : Mach) : Prop := { m with cores := [] } = { m' with cores := [] } ∧ ∀ k, k ≠ c → m'.core k = m.core k

/-- Two states of a core agree on everything but the results on their way. -/
def sameButResults (x y : CoreState) : Prop := { x with flight.pend := [] } = { y with flight.pend := [] }

/-- Two modules agree on everything but one core, and on that core but for its results on their way. -/
def sameButCore (c : Nat) (m m' : Mach) : Prop :=
  { m with cores := [] } = { m' with cores := [] } ∧ (∀ k, k ≠ c → m'.core k = m.core k) ∧ sameButResults (m.core c) (m'.core c)

/-! ### The module as a whole -/

/-- The global memory is in its canonical form, and so it is in every module that an open issue holds. -/
def State.memWf (s : State) : Prop :=
  Mem.wf s.mach.mem = true ∧ (match s.iss with
    | some iss => Mem.wf iss.pre.mem = true ∧ Mem.wf iss.back.mem = true
    | none => True)

/-- The module between two steps: no issue is open, and the global memory is in its canonical form. -/
def State.Inv (s : State) : Prop := s.iss = none ∧ Mem.wf s.mach.mem = true

end Sys2Proof.Machine
end

