-- ==== Sys2Proof/Certificates/Slice0/Obligations.lean ====
section
/-! DEFINITION. What is claimed of the model: one proposition for each obligation of OBLIGATIONS.json. -/

open Sys2Proof Sys2Proof.Machine

/-- Integer arithmetic (R90), whole and with its frame. -/
def Obligations.ScalarArithmetic : Prop :=
  ∀ (s : State) (iss : Issue) (g : BitVec 4) (d a b : BitVec 6),
    let A := iss.x.g a
    let B := iss.x.g b
    let n := B.toNat % 64
    Gives (.scAdd g d a b) iss s (toG iss .A d (A + B))
    ∧ Gives (.scSub g d a b) iss s (toG iss .A d (A - B))
    ∧ Gives (.scAnd g d a b) iss s (toG iss .A d (A &&& B))
    ∧ Gives (.scOr g d a b) iss s (toG iss .A d (A ||| B))
    ∧ Gives (.scXor g d a b) iss s (toG iss .A d (A ^^^ B))
    ∧ Gives (.scAndn g d a b) iss s (toG iss .A d (A &&& ~~~B))
    ∧ Gives (.scShl g d a b) iss s (toG iss .A d (A <<< n))
    ∧ Gives (.scShr g d a b) iss s (toG iss .A d (A >>> n))
    ∧ Gives (.scSra g d a b) iss s (toG iss .A d (A.sshiftRight n))
    ∧ Gives (.scMin g d a b) iss s (toG iss .A d (if A.toInt ≤ B.toInt then A else B))
    ∧ Gives (.scMax g d a b) iss s (toG iss .A d (if A.toInt ≤ B.toInt then B else A))
    ∧ Gives (.scMinu g d a b) iss s (toG iss .A d (if A.toNat ≤ B.toNat then A else B))
    ∧ Gives (.scMaxu g d a b) iss s (toG iss .A d (if A.toNat ≤ B.toNat then B else A))
    ∧ ∀ w : SlotWord, bits w.toNat 22 6 = 1 → bits w.toNat 0 4 = 15 → badWord .sc w

/-- BitFieldExtract and BitFieldInsert (R91). -/
def Obligations.BitFieldsBitByBit : Prop :=
  ∀ (s : State) (iss : Issue) (g : BitVec 4) (d a b : BitVec 6),
    let A := iss.x.g a
    let B := iss.x.g b
    let D := iss.x.g d
    let pos := B.toNat % 64
    let wid := B.toNat / 256 % 64 + 1
    (Takes (.scBfx g d a b) iss s → ∃ v : Dword,
      exec (.scBfx g d a b) s = onCore s iss (toG iss .A d v)
      ∧ ∀ n, n < 64 → v.getLsbD n =
          if n < wid then A.getLsbD (pos + n)
          else B.getLsbD 15 && decide (pos + wid ≤ 64) && A.getLsbD (pos + wid - 1))
    ∧ (Takes (.scBfi g d a b) iss s → ∃ v : Dword,
      exec (.scBfi g d a b) s = onCore s iss (toG iss .A d v)
      ∧ ∀ n, n < 64 → v.getLsbD n = if pos ≤ n ∧ n < pos + wid then A.getLsbD (n - pos) else D.getLsbD n)

/-- Counts and extensions (R92). -/
def Obligations.CountsAndExtensions : Prop :=
  ∀ (s : State) (iss : Issue) (g : BitVec 4) (d a : BitVec 6),
    let A := iss.x.g a
    (Takes (.scClz g d a) iss s → ∃ n : Nat, n ≤ 64
      ∧ exec (.scClz g d a) s = onCore s iss (toG iss .A d (BitVec.ofNat 64 n))
      ∧ (n = 64 ↔ A = 0) ∧ (n < 64 → 2 ^ (63 - n) ≤ A.toNat ∧ A.toNat < 2 ^ (64 - n)))
    ∧ (Takes (.scCtz g d a) iss s → ∃ n : Nat, n ≤ 64
      ∧ exec (.scCtz g d a) s = onCore s iss (toG iss .A d (BitVec.ofNat 64 n))
      ∧ (n = 64 ↔ A = 0) ∧ (n < 64 → A.getLsbD n = true) ∧ ∀ k, k < n → A.getLsbD k = false)
    ∧ (Takes (.scPopc g d a) iss s →
      exec (.scPopc g d a) s = onCore s iss (toG iss .A d (BitVec.ofNat 64 (((List.range 64).map (fun n => (A.getLsbD n).toNat)).sum))))
    ∧ Gives (.scSextB g d a) iss s (toG iss .A d ((A.setWidth 8).signExtend 64))
    ∧ Gives (.scSextH g d a) iss s (toG iss .A d ((A.setWidth 16).signExtend 64))
    ∧ Gives (.scSextW g d a) iss s (toG iss .A d ((A.setWidth 32).signExtend 64))
    ∧ Gives (.scZextB g d a) iss s (toG iss .A d ((A.setWidth 8).setWidth 64))
    ∧ Gives (.scZextH g d a) iss s (toG iss .A d ((A.setWidth 16).setWidth 64))
    ∧ Gives (.scZextW g d a) iss s (toG iss .A d ((A.setWidth 32).setWidth 64))
    ∧ ∀ w : SlotWord, bits w.toNat 22 6 = 2 → 9 ≤ bits w.toNat 0 4 ∨ bits w.toNat 4 6 ≠ 0 → badWord .sc w

/-- Multiplication and division (R93). -/
def Obligations.ProductsAndQuotients : Prop :=
  ∀ (s : State) (iss : Issue) (g : BitVec 4) (d a b : BitVec 6),
    let A := iss.x.g a
    let B := iss.x.g b
    let big := A = BitVec.intMin 64 ∧ B = BitVec.allOnes 64
    Gives (.scMul g d a b) iss s (toG iss .B d (A * B))
    ∧ (Takes (.scMulh g d a b) iss s → ∃ v : Dword, exec (.scMulh g d a b) s = onCore s iss (toG iss .B d v)
      ∧ v.toInt * 2 ^ 64 + (A * B).toNat = A.toInt * B.toInt)
    ∧ (Takes (.scMulhu g d a b) iss s → ∃ v : Dword, exec (.scMulhu g d a b) s = onCore s iss (toG iss .B d v)
      ∧ v.toNat * 2 ^ 64 + (A * B).toNat = A.toNat * B.toNat)
    ∧ (Takes (.scDiv g d a b) iss s → ∃ v : Dword, exec (.scDiv g d a b) s = onCore s iss (toG iss .C d v)
      ∧ (B = 0 → v = 0xFFFFFFFFFFFFFFFF) ∧ (big → v = BitVec.intMin 64)
      ∧ (B ≠ 0 → ¬big → v.toInt = A.toInt.tdiv B.toInt))
    ∧ (Takes (.scDivu g d a b) iss s → ∃ v : Dword, exec (.scDivu g d a b) s = onCore s iss (toG iss .C d v)
      ∧ (B = 0 → v = 0xFFFFFFFFFFFFFFFF) ∧ (B ≠ 0 → v.toNat = A.toNat / B.toNat))
    ∧ (Takes (.scRem g d a b) iss s → ∃ v : Dword, exec (.scRem g d a b) s = onCore s iss (toG iss .C d v)
      ∧ (B = 0 → v = A) ∧ (big → v = 0) ∧ (B ≠ 0 → v.toInt = A.toInt.tmod B.toInt))
    ∧ (Takes (.scRemu g d a b) iss s → ∃ v : Dword, exec (.scRemu g d a b) s = onCore s iss (toG iss .C d v)
      ∧ (B = 0 → v = A) ∧ (B ≠ 0 → v.toNat = A.toNat % B.toNat))
    ∧ ∀ w : SlotWord, bits w.toNat 22 6 = 3 → 7 ≤ bits w.toNat 0 4 → badWord .sc w

/-- Immediates, constants and selection (R94 to R96). -/
def Obligations.ImmediatesAndSelection : Prop :=
  ∀ (s : State) (iss : Issue) (g p : BitVec 4) (d a b n : BitVec 6) (i : BitVec 10) (k : BitVec 16) (q : BitVec 2),
    let A := iss.x.g a
    let I := i.signExtend 64
    Gives (.scAddi g d a i) iss s (toG iss .A d (A + I))
    ∧ Gives (.scAndi g d a i) iss s (toG iss .A d (A &&& I))
    ∧ Gives (.scOri g d a i) iss s (toG iss .A d (A ||| I))
    ∧ Gives (.scXori g d a i) iss s (toG iss .A d (A ^^^ I))
    ∧ Gives (.scShli g d a n) iss s (toG iss .A d (A <<< n.toNat))
    ∧ Gives (.scShri g d a n) iss s (toG iss .A d (A >>> n.toNat))
    ∧ Gives (.scSrai g d a n) iss s (toG iss .A d (A.sshiftRight n.toNat))
    ∧ Gives (.scMini g d a i) iss s (toG iss .A d (if A.toInt ≤ I.toInt then A else I))
    ∧ Gives (.scMaxi g d a i) iss s (toG iss .A d (if A.toInt ≤ I.toInt then I else A))
    ∧ Gives (.scMinui g d a i) iss s (toG iss .A d (if A.toNat ≤ I.toNat then A else I))
    ∧ Gives (.scMaxui g d a i) iss s (toG iss .A d (if A.toNat ≤ I.toNat then I else A))
    ∧ Gives (.scImm g 0 d k) iss s (toG iss .A d (k.setWidth 64))
    ∧ (q ≠ 0 → Takes (.scImm g q d k) iss s → ∃ v : Dword, exec (.scImm g q d k) s = onCore s iss (toG iss .A d v)
      ∧ ∀ m, m < 64 → v.getLsbD m =
          if m / 16 = q.toNat then k.getLsbD (m % 16) else (iss.x.g d).getLsbD m)
    ∧ Gives (.scSel g d a b p) iss s (toG iss .A d (if iss.x.p p then iss.x.g a else iss.x.g b))
    ∧ ∀ w : SlotWord, 20 ≤ bits w.toNat 22 6 → bits w.toNat 22 6 ≤ 22 → bits w.toNat 6 4 ≠ 0 → badWord .sc w

/-- Comparisons (R97). -/
def Obligations.ScalarComparisons : Prop :=
  ∀ (s : State) (iss : Issue) (g t f : BitVec 4) (a b : BitVec 6) (i : BitVec 8),
    let A := iss.x.g a
    let B := iss.x.g b
    let I := i.signExtend 64
    Gives (.scCmpEq g t f a b) iss s (toPair iss t f (decide (A = B)))
    ∧ Gives (.scCmpNe g t f a b) iss s (toPair iss t f (decide (A ≠ B)))
    ∧ Gives (.scCmpLt g t f a b) iss s (toPair iss t f (decide (A.toInt < B.toInt)))
    ∧ Gives (.scCmpLtu g t f a b) iss s (toPair iss t f (decide (A.toNat < B.toNat)))
    ∧ Gives (.scCmpGe g t f a b) iss s (toPair iss t f (decide (B.toInt ≤ A.toInt)))
    ∧ Gives (.scCmpGeu g t f a b) iss s (toPair iss t f (decide (B.toNat ≤ A.toNat)))
    ∧ Gives (.scCmpiEq g t f a i) iss s (toPair iss t f (decide (A = I)))
    ∧ Gives (.scCmpiNe g t f a i) iss s (toPair iss t f (decide (A ≠ I)))
    ∧ Gives (.scCmpiLt g t f a i) iss s (toPair iss t f (decide (A.toInt < I.toInt)))
    ∧ Gives (.scCmpiLtu g t f a i) iss s (toPair iss t f (decide (A.toNat < I.toNat)))
    ∧ Gives (.scCmpiGe g t f a i) iss s (toPair iss t f (decide (I.toInt ≤ A.toInt)))
    ∧ Gives (.scCmpiGeu g t f a i) iss s (toPair iss t f (decide (I.toNat ≤ A.toNat)))
    ∧ ∀ w : SlotWord, bits w.toNat 22 6 = 6 → 2 ≤ bits w.toNat 0 2 → badWord .sc w

/-- The checks of R99 in their order. -/
def Obligations.GlobalAccessChecks : Prop :=
  ∀ (s : State) (iss : Issue) (g : BitVec 4) (t b v o : BitVec 6) (y z : BitVec 2) (w : BitVec 1),
    let n := 2 ^ z.toNat
    let A := iss.x.g b + o.signExtend 64 * BitVec.ofNat 64 n
    let k := if w = 0 then 4 else 8
    GlobalChecks (.scLd g t b y z o) iss s A n false y
    ∧ GlobalChecks (.scLdu g t b y z o) iss s A n false y
    ∧ GlobalChecks (.scSt g t b y z o) iss s A n true y
    ∧ GlobalChecks (.scAmoAdd g t b v y w) iss s (iss.x.g b) k true y
    ∧ GlobalChecks (.scAmoAnd g t b v y w) iss s (iss.x.g b) k true y
    ∧ GlobalChecks (.scAmoOr g t b v y w) iss s (iss.x.g b) k true y
    ∧ GlobalChecks (.scAmoXor g t b v y w) iss s (iss.x.g b) k true y
    ∧ GlobalChecks (.scAmoMax g t b v y w) iss s (iss.x.g b) k true y
    ∧ GlobalChecks (.scAmoMin g t b v y w) iss s (iss.x.g b) k true y
    ∧ GlobalChecks (.scAmoMaxu g t b v y w) iss s (iss.x.g b) k true y
    ∧ GlobalChecks (.scAmoMinu g t b v y w) iss s (iss.x.g b) k true y
    ∧ GlobalChecks (.scAmoSwap g t b v y w) iss s (iss.x.g b) k true y
    ∧ GlobalChecks (.scAmoCas g t b v y w) iss s (iss.x.g b) k true y

/-- Global loads and stores of the SC slot (R98 to R100). -/
def Obligations.ScalarGlobalLoadsAndStores : Prop :=
  ∀ (s : State) (iss : Issue) (g : BitVec 4) (t b o : BitVec 6) (y z : BitVec 2) (ph : Phys),
    let n := 2 ^ z.toNat
    let c := iss.core
    let x := s.mach.core c
    let A := iss.x.g b + o.signExtend 64 * BitVec.ofNat 64 n
    let lo := A.toNat % 2 ^ 57
    let cells := (List.range n).map (fun k => ph.cell + k)
    let load := fun (signed : Bool) (slot : Nat) =>
      ({ id := 0, issue := 0, stream := iss.stream, slot := slot, origin := iss.origin, va := A, dest := iss.x.destG t,
         elems := [{ lane := 0, addr := ph.cell, size := n, signed := signed }],
         overlay := overlayFor (heldBytes iss.x .glob) cells, rq := y, remote := cells.any (remoteCell s.mach),
         loose := if pteTracked ph.leaf then [] else cells, device := decide (pteKind ph.leaf = 1) } : LoadOp)
    let store : StoreOp :=
      { id := 0, issue := 0, stream := iss.stream, slot := 0, origin := iss.origin, space := .glob,
        bytes := cells.zip (toBytes n (iss.x.g t).toNat), rq := y, va := A, remote := cells.any (remoteCell s.mach),
        loose := if pteTracked ph.leaf then [] else cells }
    let st : Instr := .scSt g t b y z o
    let lines := (cells.map (· / 256)).eraseDups
    let filled := s.mach.fillTlb c A
    (x.region = none → iss.x.region = none →
    (iss.pre.checkGlobal c A n false y = .ok ph → x.cnt.ld ≠ 63 → orderHold iss (iss.x.zonesOf [(lo, lo + n - 1)]) false = false →
      (Takes (.scLd g t b y z o) iss s → exec (.scLd g t b y z o) s
        = answer s iss (filled.issueLoad c (load true 0) [(lo, lo + n - 1)]))
      ∧ (Takes (.scLdu g t b y z o) iss s → exec (.scLdu g t b y z o) s
        = answer s iss (filled.issueLoad c (load false 0) [(lo, lo + n - 1)])))
    ∧ (iss.pre.checkGlobal c A n true y = .ok ph → x.cnt.st ≠ 63 → orderHold iss (iss.x.zonesOf [(lo, lo + n - 1)]) true = false →
      interlocked iss.x .glob ph.cell (ph.cell + n - 1) true = false → Takes st iss s →
      exec st s = answer s iss (filled.issueStore c store [(lo, lo + n - 1)])))
    ∧ ∀ r, x.region = some r →
      let guarded := ∃ q ∈ guardsOf iss, q.space = .glob ∧ ∃ a ∈ cells, q.lo ≤ a ∧ a ≤ q.hi
      let inRegion := fun (f : Region → Region) (m : Mach) => m.modCore c (fun w => { w with region := w.region.map f })
      (iss.pre.checkGlobal c A n true y = .ok ph →
        (guarded → Stops st iss s (.roll 1))
        ∧ (¬guarded → 128 ≤ r.entries → Stops st iss s (.roll 4))
        ∧ (¬guarded → r.entries < 128 → Takes st iss s → exec st s = answer s iss (inRegion (fun r =>
            { r with held := r.held ++ [.write { store := store, entries := 1, ranges := [(lo, lo + n - 1)] }] }) filled)))
      ∧ (iss.pre.checkGlobal c A n false y = .ok ph → x.cnt.ld ≠ 63 → orderHold iss (iss.x.zonesOf [(lo, lo + n - 1)]) false = false →
        heldCommandWrites r .glob 1 0 [(lo, lo + n - 1)] = false →
        let marks := if y = 3 then r.marks else addMarks r.marks lines
        marksFit marks = true →
        let enters := fun (i : Instr) (signed : Bool) => Takes i iss s → exec i s = answer s iss
          (((s.mach.modCore c (fun w => setGuard { w with region := w.region.map (fun r => { r with marks := marks }) }
            (gPhys iss.x.regs.roff t) .glob (span cells).1 (span cells).2)).fillTlb c A).issueLoad c (load signed 0) [(lo, lo + n - 1)])
        enters (.scLd g t b y z o) true ∧ enters (.scLdu g t b y z o) false)

/-- Local loads and stores of the SC slot (R102, R103). -/
def Obligations.ScalarLocalLoadsAndStores : Prop :=
  ∀ (s : State) (iss : Issue) (g : BitVec 4) (t b o : BitVec 6) (z : BitVec 2),
    let n := 2 ^ z.toNat
    let S := iss.x.g b + o.signExtend 64 * BitVec.ofNat 64 n
    let stores := fun (i : Instr) (set : Bool) =>
      Takes i iss s → (s.mach.core iss.core).region = none → S.toNat % n = 0 → S.toNat < 2 ^ 32 →
      ∀ sp p, iss.pre.locate iss.core S.toNat n = some (sp, p) → (∀ c, sp ≠ .const c) → (set = true → sp.hasBits = true) →
        (s.mach.core iss.core).cnt.st ≠ 63 → orderHold iss (localZones sp) true = false →
        interlocked iss.x sp p (p + n - 1) true = false →
        (isFar iss.core sp p = false → nearFree iss 0 sp ((List.range n).map (fun k => p + k)) true) →
        exec i s = answer s iss (s.mach.issueStore iss.core
          { id := 0, issue := 0, stream := iss.stream, slot := 0, origin := iss.origin, space := sp,
            bytes := ((List.range n).map (fun k => p + k)).zip (toBytes n (iss.x.g t).toNat),
            sets := if set then [p / 16] else [] } [])
    -- in an open region a store is held, and a load reads under the held writes
    let keep := fun (h : Held) (x : CoreState) =>
      ({ x with region := x.region.map (fun r => { r with held := r.held ++ [h] }) } : CoreState)
    let holds := fun (i : Instr) (set : Bool) => ∀ r, (s.mach.core iss.core).region = some r → S.toNat % n = 0 → S.toNat < 2 ^ 32 →
      ∀ sp p, iss.pre.locate iss.core S.toNat n = some (sp, p) → (∀ c, sp ≠ .const c) → (set = true → sp.hasBits = true) →
        let cells := (List.range n).map (fun k => p + k)
        let guarded := ∃ q ∈ guardsOf iss, q.space = sp ∧ ∃ a ∈ cells, q.lo ≤ a ∧ a ≤ q.hi
        (guarded → Stops i iss s (.roll 1))
        ∧ (¬guarded → 128 ≤ r.entries → Stops i iss s (.roll 4))
        ∧ (¬guarded → r.entries < 128 → Gives i iss s (keep (.write { entries := 1, ranges := [], store :=
            { id := 0, issue := 0, stream := iss.stream, slot := 0, origin := iss.origin, space := sp,
              bytes := cells.zip (toBytes n (iss.x.g t).toNat), sets := if set then [p / 16] else [] } })))
    let region := fun (i : Instr) (signed test take : Bool) => RegionLoads i iss s t S n signed test take
    region (.scLdc g t b z o) true false false ∧ region (.scLdcFe g t b z o) true true false
    ∧ region (.scLdcTake g t b z o) true true true ∧ region (.scLdcu g t b z o) false false false
    ∧ region (.scLdcuFe g t b z o) false true false ∧ region (.scLdcuTake g t b z o) false true true
    ∧ holds (.scStc g t b z o) false ∧ holds (.scStcSet g t b z o) true
    ∧ (LocalChecks (.scLdc g t b z o) iss s S n false false false ∧ LocalLoads (.scLdc g t b z o) iss s t S n true false false)
    ∧ (LocalChecks (.scLdcFe g t b z o) iss s S n true false true ∧ LocalLoads (.scLdcFe g t b z o) iss s t S n true true false)
    ∧ (LocalChecks (.scLdcTake g t b z o) iss s S n true false true ∧ LocalLoads (.scLdcTake g t b z o) iss s t S n true true true)
    ∧ (LocalChecks (.scLdcu g t b z o) iss s S n false false false ∧ LocalLoads (.scLdcu g t b z o) iss s t S n false false false)
    ∧ (LocalChecks (.scLdcuFe g t b z o) iss s S n true false true ∧ LocalLoads (.scLdcuFe g t b z o) iss s t S n false true false)
    ∧ (LocalChecks (.scLdcuTake g t b z o) iss s S n true false true ∧ LocalLoads (.scLdcuTake g t b z o) iss s t S n false true true)
    ∧ (LocalChecks (.scStc g t b z o) iss s S n false true false ∧ stores (.scStc g t b z o) false)
    ∧ (LocalChecks (.scStcSet g t b z o) iss s S n true true false ∧ stores (.scStcSet g t b z o) true)

/-- An operation enters its core (R76, R100, R161). -/
def Obligations.EnteringOperations : Prop :=
  ∀ (m : Mach) (c : Nat),
    let x := m.core c
    (∀ (l : LoadOp) (r : List (Nat × Nat)),
      let m' := m.issueLoad c l r
      let z := x.charge (x.zonesOf r)
      sameOutside c m m' ∧ sameButOps x (m'.core c) ∧ (m'.core c).cnt = { x.cnt with ld := x.cnt.ld + 1 }
      ∧ (m'.core c).zones = z.1.zones
      ∧ (m'.core c).flight = { x.flight with
          nextOp := x.flight.nextOp + 1,
          loads := x.flight.loads ++ [{ l with id := x.flight.nextOp, issue := x.flight.issue, zones := z.2, inRegion := x.region.isSome }] })
    ∧ (∀ (k : StoreOp) (r : List (Nat × Nat)),
      let m' := m.issueStore c k r
      let z := x.charge (if k.space = .glob then x.zonesOf r else [0])
      (k.space = .glob ∨ (∃ a b l, k.bytes = (a, b) :: l ∧ isFar c k.space a = true)) →
      sameOutside c m m' ∧ sameButOps x (m'.core c) ∧ (m'.core c).cnt = { x.cnt with st := x.cnt.st + 1 }
      ∧ (m'.core c).zones = z.1.zones
      ∧ (m'.core c).flight = { x.flight with
          nextOp := x.flight.nextOp + 1,
          stores := x.flight.stores ++ [{ k with id := x.flight.nextOp, issue := x.flight.issue, zones := z.2 }] })
    ∧ (∀ (k : StoreOp) (r : List (Nat × Nat)), k.space = .csp c →
      let m' := m.issueStore c k r
      m'.mem = m.mem ∧ (m'.core c).cnt = x.cnt ∧ (m'.core c).regs = x.regs ∧ (m'.core c).flight = x.flight
      ∧ (∀ j, j ≠ c → (m'.core j).regs = (m.core j).regs ∧ (m'.core j).loc = (m.core j).loc)
      ∧ (m'.core c).loc.csp.bytes = x.loc.csp.bytes.writeAll k.bytes
      ∧ (∀ q, m'.isFull (.csp c) q = if k.clears.contains q then false else if k.sets.contains q then true else m.isFull (.csp c) q))
    ∧ ∀ (k : Command) (rd wr : List (Nat × Nat)),
      let m' := m.issueCommand c k rd wr
      sameOutside c m m' ∧ sameButOps x (m'.core c)
      ∧ (m'.core c).cnt = (if k.slot = 4 then { x.cnt with mx := x.cnt.mx + 1 } else { x.cnt with cp := x.cnt.cp + 1 })
      ∧ (m'.core c).flight.nextOp = x.flight.nextOp + 1 ∧ (m'.core c).flight.loads = x.flight.loads
      ∧ (m'.core c).flight.stores = x.flight.stores ∧ (m'.core c).flight.pend = x.flight.pend
      ∧ ∃ k' : Command, (m'.core c).flight.cmds = x.flight.cmds ++ [k'] ∧ k'.id = x.flight.nextOp ∧ k'.kind = k.kind ∧ k'.slot = k.slot
          ∧ k'.ivals = k.ivals ∧ k'.origin = k.origin ∧ (k'.after.isSome = k.after.isSome)

/-- The amo forms (R104, R105). -/
def Obligations.ScalarAtomicsEnter : Prop :=
  ∀ (s : State) (iss : Issue) (g : BitVec 4) (d b v : BitVec 6) (y : BitVec 2) (z : BitVec 1) (ph : Phys),
    let n := if z = 0 then 4 else 8
    let c := iss.core
    let x := s.mach.core c
    let A := iss.x.g b
    let r := [(A.toNat % 2 ^ 57, A.toNat % 2 ^ 57 + n - 1)]
    let cells := (List.range n).map (fun k => ph.cell + k)
    let enters := fun (i : Instr) (op : AmoOp) => Takes i iss s →
      exec i s = answer s iss (((s.mach.fillTlb c A).issueLoad c
        { id := 0, issue := 0, stream := iss.stream, slot := 0, origin := iss.origin, va := A, dest := iss.x.destG d,
          elems := [{ lane := 0, addr := ph.cell, size := n, signed := true }],
          amo := some { op := op, operand := iss.x.g v, expected := iss.x.g d, store := x.flight.nextOp + 1 },
          rq := y, remote := cells.any (remoteCell s.mach), loose := if pteTracked ph.leaf then [] else cells,
          device := decide (pteKind ph.leaf = 1) } r).issueStore c
        { id := 0, issue := 0, stream := iss.stream, slot := 0, origin := iss.origin, space := .glob, bytes := [], rq := y, va := A,
          waits := some x.flight.nextOp, remote := remoteCell s.mach ph.cell } r)
    iss.pre.checkGlobal c A n true y = .ok ph → x.cnt.ld ≠ 63 → x.cnt.st ≠ 63 → orderHold iss (iss.x.zonesOf r) true = false →
      enters (.scAmoAdd g d b v y z) .add ∧ enters (.scAmoAnd g d b v y z) .and ∧ enters (.scAmoOr g d b v y z) .or
      ∧ enters (.scAmoXor g d b v y z) .xor ∧ enters (.scAmoMax g d b v y z) .max ∧ enters (.scAmoMin g d b v y z) .min
      ∧ enters (.scAmoMaxu g d b v y z) .maxu ∧ enters (.scAmoMinu g d b v y z) .minu ∧ enters (.scAmoSwap g d b v y z) .swap
      ∧ enters (.scAmoCas g d b v y z) .cas

/-- The atomic step (R104). -/
def Obligations.AtomicStepOnMemory : Prop :=
  ∀ (m : Mach) (c cell n : Nat) (l : LoadOp) (a : Amo) (lane : Nat) (sg : Bool),
    n = 4 ∨ n = 8 → l.data = none → l.amo = some a → l.loose = [] → l.device = false → l.overlay = [] →
    l.pieces = [] → l.stale = false → (m.die (dieOf c)).early = [] →
    l.elems = [{ lane := lane, addr := cell, size := n, signed := sg }] →
    let cells := (List.range n).map (fun k => cell + k)
    let old : BitVec (8 * n) := BitVec.ofNat _ (ofBytes (cells.map m.mem.read))
    let v : BitVec (8 * n) := a.operand.setWidth _
    let new : BitVec (8 * n) := match a.op with
      | .add => old + v
      | .and => old &&& v
      | .or => old ||| v
      | .xor => old ^^^ v
      | .max => if old.toInt < v.toInt then v else old
      | .min => if v.toInt < old.toInt then v else old
      | .maxu => if old.toNat < v.toNat then v else old
      | .minu => if v.toNat < old.toNat then v else old
      | .swap => v
      | .cas => if old = a.expected.setWidth _ then v else old
    let m' := m.performLoad c l
    let fails := a.op = .cas ∧ old ≠ a.expected.setWidth _
    (∀ k, k ∉ cells → m'.mem.read k = m.mem.read k)
    ∧ ofBytes (cells.map m'.mem.read) = new.toNat
    ∧ (fails → m'.mem = m.mem)
    ∧ (l ∈ (m.core c).flight.loads → ∃ l' ∈ (m'.core c).flight.loads, l'.id = l.id ∧ l'.data.map (·.bytes) = some (cells.map m.mem.read))
    ∧ (fails → ∀ k ∈ (m'.core c).flight.stores, k.id ≠ a.store)

/-- The control registers as sc.mfc reads them (R27), and the writes that change nothing: of read-only and of unused ones. -/
def Obligations.ControlRegisterReads : Prop :=
  ∀ (s : State) (iss : Issue) (g : BitVec 4) (d : BitVec 6),
    let x := iss.x
    let c := iss.core
    let reads := fun (sel : BitVec 12) (v : Dword) => Gives (.scMfc g d sel) iss s (toG iss .E d v)
    let ignored := fun (sel : BitVec 12) => Takes (.scMtc g d sel) iss s → exec (.scMtc g d sel) s = answer s iss s.mach
    let used := fun (n : Nat) => n ≤ 2 ∨ (0x10 ≤ n ∧ n ≤ 0x12) ∨ n = 0x20 ∨ n = 0x21 ∨ n = 0x30 ∨ n = 0x31 ∨ (0x40 ≤ n ∧ n ≤ 0x44)
      ∨ n = 0x50 ∨ n = 0x51 ∨ n = 0x60 ∨ n = 0x61 ∨ n = 0x70 ∨ n = 0x71 ∨ n = 0x80 ∨ (0x90 ≤ n ∧ n ≤ 0x9B)
    reads 0x000 (BitVec.ofNat 64 c)
    ∧ reads 0x001 (BitVec.ofNat 64 (c % 4 + 4 * (c / 4 % 4) + 16 * (c / 16) + 1024 * iss.pre.fleet.number.toNat))
    ∧ reads 0x002 (x.ctl.dmem.setWidth 64)
    ∧ reads 0x010 (x.regs.roff.setWidth 64) ∧ reads 0x011 (x.ctl.lattab.setWidth 64) ∧ reads 0x012 (x.ctl.cover.setWidth 64)
    ∧ reads 0x020 (BitVec.ofNat 64 ((if x.region.isSome then 1 else 0) + 2 * x.ctl.reason.toNat + 65536 * x.ctl.rollTick.toNat))
    ∧ reads 0x021 x.ctl.regcnt ∧ reads 0x030 (x.queues.stqh.setWidth 64) ∧ reads 0x031 (x.queues.stqt.setWidth 64)
    ∧ reads 0x040 x.trap.tcause ∧ reads 0x041 x.trap.taddr ∧ reads 0x042 x.trap.tprov ∧ reads 0x043 x.trap.tval
    ∧ reads 0x044 x.trap.epc ∧ reads 0x050 (iss.pre.vclk.setWidth 64) ∧ reads 0x051 (x.ctl.lease.setWidth 64)
    ∧ reads 0x060 (x.ctl.seed.setWidth 64) ∧ reads 0x061 (x.ctl.frm.setWidth 64) ∧ reads 0x070 (x.ctl.keyid.setWidth 64)
    ∧ reads 0x071 (x.ctl.space.setWidth 64)
    ∧ reads 0x080 (BitVec.ofNat 64 ((if x.front.fed then 1 else 0) + (if x.front.bound then 2 else 0) + (if x.front.paused then 4 else 0)
        + 256 * x.front.primary.length + 65536 * x.front.secondary.length))
    ∧ (∀ n, n < 12 → reads (BitVec.ofNat 12 (0x090 + n)) (Sparse.get 0 (iss.pre.die (c / 16)).rsv n))
    ∧ (∀ sel : BitVec 12, ¬used sel.toNat → reads sel 0 ∧ ignored sel)
    ∧ ∀ sel : BitVec 12, sel ∈ [0x000, 0x001, 0x011, 0x012, 0x020, 0x021, 0x030, 0x031, 0x050] → ignored sel

/-- Writes of control registers (R27, R28). -/
def Obligations.ControlRegisterWrites : Prop :=
  ∀ (s : State) (iss : Issue) (g : BitVec 4) (d : BitVec 6),
    let v := iss.x.g d
    let writes := fun (sel : BitVec 12) (f : CoreState → CoreState) => Gives (.scMtc g d sel) iss s f
    let monitored := fun (sel : Nat) => sel = 0x002 ∨ (0x040 ≤ sel ∧ sel ≤ 0x044) ∨ sel = 0x070 ∨ sel = 0x071 ∨ (0x090 ≤ sel ∧ sel ≤ 0x09B)
    (∀ sel : BitVec 12, monitored sel.toNat → iss.x.trap.monitor = false → Stops (.scMtc g d sel) iss s (slotTrap (.scMtc g d sel) 5))
    ∧ writes 0x010 (fun x => { x with regs.roff := v.setWidth 4 })
    ∧ writes 0x051 (fun x => { x with ctl.lease := if v.toNat % 65536 = 0 then 1 else v.setWidth 16 })
    ∧ writes 0x060 (fun x => { x with ctl.seed := v.setWidth 32 })
    ∧ writes 0x061 (fun x => { x with ctl.frm := if v.toNat % 4 = 3 then x.ctl.frm else v.setWidth 2 })
    ∧ writes 0x080 (fun x => { x with front.paused := v.getLsbD 2 })
    ∧ (iss.x.trap.monitor = true →
      writes 0x040 (fun x => { x with trap.tcause := (v.setWidth 10).setWidth 64 })
      ∧ writes 0x041 (fun x => { x with trap.taddr := v }) ∧ writes 0x042 (fun x => { x with trap.tprov := v })
      ∧ writes 0x043 (fun x => { x with trap.tval := v })
      ∧ writes 0x044 (fun x => { x with trap.epc := v &&& ~~~(0x1E : Dword) })
      ∧ writes 0x070 (fun x => { x with ctl.keyid := v.setWidth 6 }) ∧ writes 0x071 (fun x => { x with ctl.space := v.setWidth 36 })
      ∧ (∀ n, n < 12 → Takes (.scMtc g d (BitVec.ofNat 12 (0x090 + n))) iss s → ∃ u : Dword,
        exec (.scMtc g d (BitVec.ofNat 12 (0x090 + n))) s = answer s iss (s.mach.modDie (dieOf iss.core) (fun e =>
          { e with rsv := Sparse.set 0 e.rsv n u }))
        ∧ (n < 8 → u = (v >>> 14) <<< 14)
        ∧ (8 ≤ n → u.getLsbD 0 = v.getLsbD 0 ∧ u.toNat / 2 % 16 = min 7 (v.toNat / 2 % 16) ∧ u.toNat / 256 = v.toNat / 256 % 256
            ∧ u.toNat / 32 % 8 = 0))
      ∧ (Takes (.scMtc g d 0x002) iss s → ∃ m, exec (.scMtc g d 0x002) s = answer s iss m ∧ m.mem = s.mach.mem
        ∧ (m.core iss.core).regs = (s.mach.core iss.core).regs
        ∧ ∀ n, n < 32 → (m.core iss.core).ctl.dmem.getLsbD n =
            ((s.mach.core iss.core).ctl.dmem.getLsbD n && (decide (5 ≤ n) || v.getLsbD n))))

/-- shw, ctv and cmpx (R107, R108, R114). -/
def Obligations.ShapesAndDeliveredValues : Prop :=
  ∀ (s : State) (iss : Issue) (g : BitVec 4) (d a b : BitVec 6) (n : BitVec 12),
    let e := n.toNat / 1024
    let r := n.toNat / 256 % 4
    let ct := ctOf iss
    (∀ lo len, shapeField e (n.toNat % 256) = some (lo, len) → Takes (.scShw g d n) iss s → ∃ w : BitVec 256,
      exec (.scShw g d n) s = onCore s iss (fun x => x.setShape e r { active := (x.regs.shape e r).active, shadow := w })
      ∧ ∀ k, k < 256 → w.getLsbD k = if lo ≤ k ∧ k < lo + len then (iss.x.g d).getLsbD (k - lo)
          else ((s.mach.core iss.core).regs.shape e r).shadow.getLsbD k)
    ∧ (shapeField e (n.toNat % 256) = none → Takes (.scShw g d n) iss s →
      exec (.scShw g d n) s = onCore s iss (fun x => x.setShape e r (x.regs.shape e r)))
    ∧ ((∃ h t, ct = some (.ctCall h t)) ∨ (∃ h t, ct = some (.ctCallr h t)) →
      Gives (.scCtv g d) iss s (toG iss .A d (iss.origin.addr + 128)))
    ∧ ((∃ h t u, ct = some (.ctArm h t u)) → Takes (.scCtv g d) iss s → exec (.scCtv g d) s = answer s iss s.mach)
    ∧ ((∀ h t, ct ≠ some (.ctCall h t)) → (∀ h t, ct ≠ some (.ctCallr h t)) → (∀ h t u, ct ≠ some (.ctArm h t u)) →
      Gives (.scCtv g d) iss s (toG iss .A d 0))
    ∧ (iss.x.g a = iss.x.g b → Takes (.scCmpx g d a b) iss s → exec (.scCmpx g d a b) s = answer s iss s.mach)
    ∧ (iss.x.g a ≠ iss.x.g b → Stops (.scCmpx g d a b) iss s (.trap { cause := 8, tval := iss.x.g a ^^^ iss.x.g b }))

/-- svc, trap and brk (R109). -/
def Obligations.SoftwareTrapsEnterService : Prop :=
  ∀ (s : State) (g : BitVec 4) (code : BitVec 12) (pre : Mach) (iss : Issue),
    let m := s.mach.modCore s.core passCycle
    let o := (m.core s.core).primaryOrigin
    let opens := fun (i : Instr) => openIssue m s.core [(.primary, i)] [(.primary, o)] = some (pre, iss)
      ∧ iss.stops = [] ∧ guarded iss.x i = true ∧ (pre.core s.core).region = none ∧ (m.core s.core).region = none
      ∧ iss.x.trap.monitor = false ∧ iss.x.queues.trapq.length < 31
    let follows := fun (i : Instr) (cause : BitVec 8) => ∃ m' : Mach, exec i s =
        .next { s with mach := m'.takeTrap s.core .primary o { cause := cause, tval := code.setWidth 64 }, iss := none }
      ∧ (m'.core s.core).regs = (pre.core s.core).regs ∧ (m'.core s.core).trap = (pre.core s.core).trap
    s.iss = none →
      (opens (.scSvc g code) → follows (.scSvc g code) 0x0A)
      ∧ (opens (.scBrk g code) → follows (.scBrk g code) 0x0B)
      ∧ (opens (.scTrap g code) → exec (.scTrap g code) s =
          .next { s with mach := m.takeTrap s.core .primary o { cause := 0x0A, fatal := true, tval := code.setWidth 64 }, iss := none })

/-- eret, stqpop, zdef, zdefh and hdef (R110 to R113). -/
def Obligations.ServiceReturnQueueAndZones : Prop :=
  ∀ (s : State) (iss : Issue) (g : BitVec 4) (d a b : BitVec 6) (ph : Phys),
    let x := iss.x
    let c := iss.core
    let zone := d.toNat
    let setRange := fun (base limit : Dword) (y : CoreState) => y.modZone zone (fun z => { z with base := base, limit := limit })
    let h : Instr := .scHdef g d a b
    let unmapped := fun (va : Dword) => ∀ e k, iss.pre.translate c va ≠ .leaf e k
    (x.trap.monitor = true → Takes (.scEret g) iss s → exec (.scEret g) s = answer s { iss with eret := true } s.mach)
    ∧ (x.trap.monitor = false → Stops (.scEret g) iss s (slotTrap (.scEret g) 5))
    ∧ (x.queues.stqh = x.queues.stqt → Gives (.scStqpop g d) iss s (toG iss .E d 0))
    ∧ (x.queues.stqh ≠ x.queues.stqt → Takes (.scStqpop g d) iss s → exec (.scStqpop g d) s = answer s iss
        ((s.mach.modCore c (fun y => { y with queues.stqh := y.queues.stqh + 1 })).modCore c
          (toG iss .E d (x.reg.statVa + BitVec.ofNat 64 (32 * x.queues.stqh.toNat)))))
    ∧ (1 ≤ zone → zone ≤ 7 → Gives (.scZdef g d a b) iss s (setRange (x.g a) (x.g b)))
    ∧ (zone = 0 ∨ 8 ≤ zone → Stops (.scZdef g d a b) iss s (slotTrap (.scZdef g d a b) 5)
        ∧ Stops (.scZdefh g d a b) iss s (slotTrap (.scZdefh g d a b) 5))
    ∧ (1 ≤ zone → zone ≤ 7 → iss.pre.checkGlobal c (x.g a) 32 false 3 = .ok ph →
        x.flight.handles.any (fun e => e.addr = x.g a && e.stream = iss.stream && e.read) = true →
        (∀ base limit flags, openEntry x (iss.pre.entryAt c ph.cell) = some (base, limit, flags) →
          Gives (.scZdefh g d a b) iss s (setRange base limit))
        ∧ (openEntry x (iss.pre.entryAt c ph.cell) = none →
          Stops (.scZdefh g d a b) iss s (slotTrap (.scZdefh g d a b) 5 (x.g a))))
    ∧ GlobalChecks h iss s (x.g d) 32 true 0
    ∧ (iss.pre.checkGlobal c (x.g d) 32 true 0 = .ok ph →
        ((x.g b).toNat < (x.g a).toNat → Stops h iss s (slotTrap h 5))
        ∧ ((x.g a).toNat ≤ (x.g b).toNat →
          (unmapped (x.g a) → Stops h iss s (.trap { cause := 3, fatal := true, taddr := x.g a, tval := tvalOf h }))
          ∧ (¬unmapped (x.g a) → unmapped (x.g b) →
              Stops h iss s (.trap { cause := 3, fatal := true, taddr := x.g b, tval := tvalOf h }))
          ∧ (¬unmapped (x.g a) → ¬unmapped (x.g b) → (s.mach.core c).region = none → (s.mach.core c).cnt.st ≠ 63 →
              let lo := (x.g d).toNat % 2 ^ 57
              let cells := (List.range 32).map (fun k => ph.cell + k)
              orderHold iss (x.zonesOf [(lo, lo + 31)]) true = false → interlocked x .glob ph.cell (ph.cell + 31) true = false →
              Takes h iss s → exec h s = answer s iss ((s.mach.fillTlb c (x.g d)).issueStore c
                { id := 0, issue := 0, stream := iss.stream, slot := 0, origin := iss.origin, space := .glob,
                  bytes := cells.zip (toBytes 8 (x.g a).toNat ++ toBytes 8 (x.g b).toNat ++ toBytes 8 0
                    ++ toBytes 8 (Config.handleSeal (x.g a) (x.g b) 0 x.ctl.space x.ctl.keyid).toNat),
                  va := x.g d, remote := cells.any (remoteCell s.mach), loose := if pteTracked ph.leaf then [] else cells } [(lo, lo + 31)]))))

/-- Transfers of control (R115 to R117). -/
def Obligations.TransfersOfControl : Prop :=
  ∀ (s : State) (iss : Issue) (g stg : BitVec 4) (a : BitVec 6) (x : BitVec 22) (y : BitVec 12),
    let goes := fun (i : Instr) (t : Dword) =>
      Takes i iss s → exec i s = answer s { iss with transfer := some t, ctWord := encode i } s.mach
    let far := fun (i : Instr) => (iss.x.g a).toNat % 32 ≠ 0 → Stops i iss s (slotTrap i 7 (iss.x.g a))
    let fed := fun (i : Instr) => s.iss = some iss → guarded iss.x i = true → iss.origin.fed = true →
      exec i s = stopped s iss i (slotTrap i 0x0C)
    let at' := fun (n : Nat) => iss.x.regs.pAt (pPhys (iss.x.regs.roff + 1) (BitVec.ofNat 4 n))
    let k := decide (0 < (iss.x.g a).toInt)
    let d := ∃ n, 9 ≤ n ∧ n < 9 + min 7 stg.toNat ∧ at' n = true
    let turned := s.mach.modCore iss.core (fun z =>
      result iss 1 .A (some (.p (pPhys (iss.x.regs.roff + 1) 8))) (if k then 1 else 0)
        (result iss 1 .A (some .roff) ((iss.x.regs.roff + 1).setWidth 2048) z))
    goes (.ctBr g x) (iss.origin.addr + 32 * x.signExtend 64)
    ∧ goes (.ctCall g x) (iss.origin.addr + 32 * x.signExtend 64)
    ∧ ((iss.x.g a).toNat % 32 = 0 →
      goes (.ctCallr g a) (iss.x.g a) ∧ goes (.ctJr g a) (iss.x.g a) ∧ goes (.ctRet g a) (iss.x.g a))
    ∧ far (.ctCallr g a) ∧ far (.ctJr g a) ∧ far (.ctRet g a)
    ∧ (k = true ∨ d → Takes (.ctLoop g a stg y) iss s → exec (.ctLoop g a stg y) s = answer s
        { iss with transfer := some (iss.origin.addr + 32 * y.signExtend 64), ctWord := encode (.ctLoop g a stg y) } turned)
    ∧ (¬(k = true ∨ d) → Takes (.ctLoop g a stg y) iss s → exec (.ctLoop g a stg y) s = answer s iss turned)
    ∧ fed (.ctBr g x) ∧ fed (.ctCall g x) ∧ fed (.ctCallr g a) ∧ fed (.ctJr g a) ∧ fed (.ctRet g a) ∧ fed (.ctLoop g a stg y)
    ∧ fed (.ctDawn g x)

/-- Predicates, rotation and idling (R127 to R129). -/
def Obligations.PredicatesRotationAndIdling : Prop :=
  ∀ (s : State) (iss : Issue) (g d a b n : BitVec 4) (k : BitVec 22),
    let x := iss.x
    -- the state in which the word has completed, its own core changed by `f`
    let after := fun (f : CoreState → CoreState) => ({ s with mach := s.mach.modCore iss.core f, iss := some iss } : State)
    (Takes (.ctPand g d a b) iss s → exec (.ctPand g d a b) s = .next (after (toP iss 1 d (x.p a && x.p b))))
    ∧ (Takes (.ctPor g d a b) iss s → exec (.ctPor g d a b) s = .next (after (toP iss 1 d (x.p a || x.p b))))
    ∧ (Takes (.ctPxor g d a b) iss s → exec (.ctPxor g d a b) s = .next (after (toP iss 1 d (xor (x.p a) (x.p b)))))
    ∧ (Takes (.ctPandn g d a b) iss s → exec (.ctPandn g d a b) s = .next (after (toP iss 1 d (x.p a && !(x.p b)))))
    ∧ (Takes (.ctPnot g d a) iss s → exec (.ctPnot g d a) s = .next (after (toP iss 1 d (!(x.p a)))))
    ∧ (Takes (.ctPset g d) iss s → exec (.ctPset g d) s = .next (after (toP iss 1 d true)))
    ∧ (Takes (.ctPclr g d) iss s → exec (.ctPclr g d) s = .next (after (toP iss 1 d false)))
    ∧ (Takes (.ctRoff g n) iss s → exec (.ctRoff g n) s = .next (after (result iss 1 .A (some .roff) (n.setWidth 2048))))
    ∧ (Takes (.ctIdle g k) iss s → exec (.ctIdle g k) s = .next (after (fun y =>
        y.modStream iss.stream (fun t => { t with idle := k.toNat }))))

/-- Waits and barriers (R119, R120). -/
def Obligations.WaitsAndBarriers : Prop :=
  ∀ (s : State) (iss : Issue) (g a b c d : BitVec 4) (l : BitVec 3),
    let n := iss.x.cnt
    let w : Instr := .ctWait g a b c d
    let met := (a = 15 ∨ n.ld.toNat ≤ a.toNat) ∧ (b = 15 ∨ n.st.toNat ≤ b.toNat) ∧ (c = 15 ∨ n.cp.toNat ≤ c.toNat)
      ∧ (d = 15 ∨ n.mx.toNat ≤ d.toNat)
    let member := iss.x.ctl.dmem.getLsbD (l.toNat - 1)
    let flag := iss.x.arrive.getLsbD (l.toNat - 1)
    let bar := fun (i : Instr) (m : Mach) => (member = false → Stops i iss s (slotTrap i 5))
      ∧ (member = true → flag = true → Stops i iss s (.hold .plain))
      ∧ (member = true → flag = false → Takes i iss s → exec i s = answer s iss m)
    (met → Takes w iss s → exec w s = answer s iss s.mach)
    ∧ (¬met → Stops w iss s (.hold .plain))
    ∧ bar (.ctBarArrive g l) (s.mach.arrive iss.core l.toNat)
    ∧ bar (.ctBarWait g l) s.mach
    ∧ bar (.ctBarSync g l) ((s.mach.modCore iss.core (fun x =>
        x.modStream iss.stream (fun t => { t with barSync := l.toNat }))).arrive iss.core l.toNat)

/-- Arrivals (R245). -/
def Obligations.ArrivalsEndPhases : Prop :=
  ∀ (m : Mach) (c level : Nat) (l : Launch), 1 ≤ level → level ≤ 5 →
    let x := m.core c
    let u := domainUnit x c level
    let key := domainKey level u
    let m' := m.arrive c level
    let a := Sparse.get 0 l.arrived key
    let inDomain := fun (k : Nat) => (m.core k).reg.launch = x.reg.launch ∧ (m.core k).ctl.dmem.getLsbD (level - 1) = true
      ∧ domainUnit (m.core k) k level = u
    m.launch x.reg.launch = some l → x.ctl.dmem.getLsbD (level - 1) = true →
      m'.mem = m.mem
      ∧ (a + 1 < Sparse.get 0 l.members key →
        (m'.core c) = { x with arrive := setBit x.arrive (level - 1) true } ∧ (∀ k, k ≠ c → m'.core k = m.core k)
        ∧ (∃ l', m'.launch x.reg.launch = some l' ∧ Sparse.get 0 l'.arrived key = a + 1 ∧ l'.members = l.members))
      ∧ (a + 1 = Sparse.get 0 l.members key →
        (∃ l', m'.launch x.reg.launch = some l' ∧ Sparse.get 0 l'.arrived key = 0 ∧ l'.members = l.members)
        ∧ (∀ k, inDomain k → (m'.core k).arrive.getLsbD (level - 1) = false)
        ∧ (∀ k, k ≠ c → ¬inDomain k → m'.core k = m.core k)
        ∧ ∀ k, (m'.core k).regs = (m.core k).regs)

/-- Fences (R285 to R289). -/
def Obligations.FenceWords : Prop :=
  (∀ (s : State) (iss : Issue) (g : BitVec 4) (z : BitVec 8),
    let x := iss.x
    let now := iss.pre.vclk
    let c := iss.core
    let standing := (x.streamState iss.stream).fence
    let holding := fun (i : Instr) =>
      (∀ k, standing = some k → x.fenceMet now k = true → Takes i iss s → exec i s = answer s iss s.mach)
      ∧ (∀ k, standing = some k → x.fenceMet now k = false → Stops i iss s (.hold .plain))
      ∧ (standing = none → Stops i iss s (.hold .plain))
    let hold : AcqHold :=
      { zones := z, loads := (x.flight.loads.filter (fun l => l.stream = iss.stream)).map (·.id), before := x.flight.issue }
    let keep := fun (k : List (Nat × Nat)) (y : CoreState) => y.modStream iss.stream (fun t => { t with vis := t.vis ++ [k] })
    holding (.ctFenceRel g z)
    ∧ holding (.ctFenceFull g)
    ∧ (Takes (.ctFenceAcq g z) iss s → exec (.ctFenceAcq g z) s = answer s iss ((s.mach.fenceWriteBack c z).modCore c (fun y =>
        y.modStream iss.stream (fun t => { t with acq := t.acq ++ [hold] }))))
    ∧ (∀ k, standing = some k → Gives (.ctFenceVis g z) iss s (keep k))
    ∧ (standing = none → Stops (.ctFenceVis g z) iss s (.hold .plain)))
  ∧ (∀ (m : Mach) (c : Nat) (st : Stream) (g : BitVec 4) (z : BitVec 8),
    let x := m.core c
    let standing := (x.streamState st).fence
    let opens := fun (i : Instr) (z : BitVec 8) => x.region = none →
      guarded ((stepResults x [st]).1.seenBy st m.fresh) i = true →
      (standing ≠ none ∨ x.canOpen m.vclk z = false → m.standHead c st [i] = m)
      ∧ (standing = none → x.canOpen m.vclk z = true → m.standHead c st [i] = m.standFence c st z)
    opens (.ctFenceRel g z) z ∧ opens (.ctFenceVis g z) z ∧ opens (.ctFenceFull g) 0xFF)
  ∧ (∀ (x : CoreState) (now : Tick) (marks : List (Nat × Nat)), x.fenceMet now marks = true ↔
      ∀ e ∈ marks, ∀ z, x.zones[e.1]? = some z → ∀ p ∈ z.epochs, p.id < e.2 → p.count = 0 ∧ passed now p.ticket = true)
  ∧ ∀ (m : Mach) (c : Nat) (st : Stream) (z : BitVec 8) (k : Nat) (q : Zone), ((m.core c).zones[k]? = some q) → z.getLsbD k = true →
      k < 8 → ((m.core c).flight.stores = []) →
      ((m.standFence c st z).core c).zones[k]? = some { q with epochs := q.epochs ++ [{ id := q.nextId }], nextId := q.nextId + 1 }
      ∧ ∃ l, (((m.standFence c st z).core c).streamState st).fence = some l ∧ (k, q.nextId) ∈ l

/-- The monitor (R122, R123). -/
def Obligations.MonitorWords : Prop :=
  ∀ (s : State) (iss : Issue) (g : BitVec 4) (a : BitVec 6) (e : BitVec 16) (ph : Phys),
    let c := iss.core
    let x := s.mach.core c
    let A := iss.x.g a + e.signExtend 64
    let now := iss.pre.vclk
    let arm : Instr := .ctArm g a e
    let wait : Instr := .ctMwait g a
    let armed := ∃ k, iss.x.monitor = some k ∧ k.fired = false
    let ends := Takes wait iss s → exec wait s = onCore s iss (fun y => { y with monitor := none })
    let late := fun (d : Option Tick) => ∃ t, d = some t ∧ tickGe now t = true
    let since := (iss.x.streamState iss.stream).mwait
    let first : Option Tick := if 2 ^ 40 ≤ (iss.x.g a).toNat then none else some (now + (iss.x.g a).setWidth 48)
    let ref := fun (ph : Phys) =>
      ({ id := x.flight.nextOp, issue := iss.x.flight.issue, slot := 1, stream := iss.stream, load := true,
         cells := (List.range 8).map (fun k => ph.cell + k) } : OpRef)
    GlobalChecks arm iss s A 8 false 0
    ∧ (iss.pre.checkGlobal c A 8 false 0 = .ok ph → x.cnt.ld ≠ 63 → (∀ l ∈ x.flight.loads, l.id < x.flight.nextOp) →
        orderHold iss (iss.x.zonesOf [(A.toNat % 2 ^ 57, A.toNat % 2 ^ 57 + 7)]) false = false →
        iss.pre.canPerform c (ref ph) = true → Takes arm iss s →
        ∃ m, exec arm s = answer s iss m ∧ (m.core c).monitor = some { line := ph.cell / 256, fired := false }
          ∧ (m.core c).cnt.ld = x.cnt.ld + 1 ∧ (m.core c).regs = x.regs
          ∧ ∃ l ∈ (m.core c).flight.loads, l.id = x.flight.nextOp ∧ l.dest = ctvDest iss ∧ l.data.isSome = true
              ∧ l.elems = [{ lane := 0, addr := ph.cell, size := 8, signed := false }])
    ∧ (¬armed → ends)
    ∧ (armed → ∀ d, since = some d → (late d → ends) ∧ (¬late d → Stops wait iss s (.hold (.mwait d))))
    ∧ (armed → since = none → (late first → ends) ∧ (¬late first → Stops wait iss s (.hold (.mwait first))))

/-- Region words (R124 to R126). -/
def Obligations.RegionWords : Prop :=
  ∀ (s : State) (iss : Issue) (g p : BitVec 4) (x : BitVec 22),
    let c := iss.core
    let open' := iss.x.region.isSome = true
    let tag := fun (n : Nat) => ((s.mach.core c).tile n).tag
    let checkpoint : Region :=
      { recovery := iss.origin.addr + 32 * x.signExtend 64, regs := (s.mach.core c).regs, tags := [tag 0, tag 1, tag 2, tag 3] }
    let event := fun (i : Instr) => answer s { iss with events := iss.events ++
      [{ kind := 0x32, slot := 1, stream := iss.stream, count := 1, first := 0, detail := (encode i).getD 0 }] } s.mach
    let waits := iss.x.flight.loads.any (fun l => l.inRegion) = true ∨ iss.x.flight.cmds.any (fun k => k.inRegion) = true
    (¬open' → Gives (.ctDawn g x) iss s (fun y => { y with region := some checkpoint }))
    ∧ (open' → Stops (.ctDawn g x) iss s (.roll 8))
    ∧ (¬open' → Takes (.ctDusk g) iss s → exec (.ctDusk g) s = event (.ctDusk g))
    ∧ (open' → waits → Stops (.ctDusk g) iss s (.hold .plain))
    ∧ (open' → ¬waits → Takes (.ctDusk g) iss s → exec (.ctDusk g) s = answer s { iss with dusk := true } s.mach)
    ∧ (iss.x.p p = true → Takes (.ctCheck g p) iss s → exec (.ctCheck g p) s = answer s iss s.mach)
    ∧ (iss.x.p p = false → ¬open' → Takes (.ctCheck g p) iss s → exec (.ctCheck g p) s = event (.ctCheck g p))
    ∧ (iss.x.p p = false → open' → Stops (.ctCheck g p) iss s (.roll 2))
    ∧ (¬open' → Takes (.ctAbort g) iss s → exec (.ctAbort g) s = event (.ctAbort g))
    ∧ (open' → Stops (.ctAbort g) iss s (.roll 9))
    -- the words of R126, each written out
    ∧ (∀ (d b v : BitVec 6) (y : BitVec 2) (z : BitVec 1) (n : BitVec 12) (q : BitVec 8) (l : BitVec 3) (e : BitVec 16),
      let uns := fun (i : Instr) => s.iss = some iss → guarded iss.x i = true → open' → exec i s = stopped s iss i (.roll 7)
      uns (.scAmoAdd g d b v y z) ∧ uns (.scAmoAnd g d b v y z) ∧ uns (.scAmoOr g d b v y z) ∧ uns (.scAmoXor g d b v y z) ∧ uns (.scAmoMax g d b v y z)
      ∧ uns (.scAmoMin g d b v y z) ∧ uns (.scAmoMaxu g d b v y z) ∧ uns (.scAmoMinu g d b v y z) ∧ uns (.scAmoSwap g d b v y z) ∧ uns (.scAmoCas g d b v y z)
      ∧ uns (.scMtc g d n) ∧ uns (.scZdef g d b v) ∧ uns (.scZdefh g d b v) ∧ uns (.scSvc g n) ∧ uns (.scStqpop g d)
      ∧ uns (.ctFenceRel g q) ∧ uns (.ctFenceAcq g q) ∧ uns (.ctFenceVis g q) ∧ uns (.ctFenceFull g)
      ∧ uns (.ctBarArrive g l) ∧ uns (.ctBarWait g l) ∧ uns (.ctBarSync g l)
      ∧ uns (.ctArm g d e) ∧ uns (.ctMwait g d) ∧ uns (.ctEnd g))
  -- the commit of one held global store
  ∧ (∀ (m : Mach) (c : Nat) (r : Region) (w : HeldWrite),
    let x := m.core c
    let m' := m.commitRegion c
    let y := m'.core c
    let zones := x.zonesOf w.ranges
    x.region = some r → r.held = [.write w] → w.store.space = .glob → x.releasing = [] → x.shadows = [] → x.cnt.st ≠ 63 →
    x.orderHeld m.vclk w.store.stream zones true = false →
    (w.store.bytes = [] ∨ interlocked x .glob (span (w.store.bytes.map (·.1))).1 (span (w.store.bytes.map (·.1))).2 true = false) →
      y.region = none ∧ y.releasing = [] ∧ y.regs = x.regs ∧ y.cnt = { x.cnt with st := x.cnt.st + 1 }
      ∧ y.flight.stores = x.flight.stores ++ [{ w.store with
          id := x.flight.nextOp, issue := x.flight.issue + 1, group := x.flight.issue + 1, zones := (x.charge zones).2 }]
      ∧ y.flight.loads = x.flight.loads ∧ y.flight.cmds = x.flight.cmds ∧ y.zones = (x.charge zones).1.zones
      ∧ m'.mem = m.mem ∧ ∀ k, k ≠ c → m'.core k = m.core k)
  -- the rollback of an open region, after the drain
  ∧ ∀ (m : Mach) (c : Nat) (r : Region) (reason : BitVec 4),
    let d := m.drain c
    let m' := m.rollback c reason
    let x := d.core c
    let y := m'.core c
    x.region = some r →
      y.region = none ∧ y.regs = r.regs ∧ (∀ n, n < 4 → (y.tile n).tag = (r.tags[n]?).getD 0x11)
      ∧ y.flight.stores = x.flight.stores ∧ y.flight.cmds = x.flight.cmds.filter (fun k => !k.inRegion)
      ∧ y.releasing = x.releasing ∧ y.front.transfers = [] ∧ y.front.pc = r.recovery
      ∧ y.ctl.reason = reason ∧ y.ctl.rollTick = d.vclk ∧ y.ctl.regcnt = x.ctl.regcnt + 1
      ∧ m'.mem = d.mem ∧ ∀ k, k ≠ c → m'.core k = d.core k

/-- The end of a core (R130). -/
def Obligations.EndOfCoreWord : Prop :=
  (∀ (s : State) (iss : Issue) (g : BitVec 4),
    let x := iss.x
    let i : Instr := .ctEnd g
    let quiet := x.front.secondary = [] ∧ x.cnt = {} ∧ ∃ k, x.front.sp.fence = some k ∧ x.fenceMet iss.pre.vclk k = true
    (iss.stream = .secondary → Stops i iss s (slotTrap i 0x0C))
    ∧ (iss.stream = .primary → ¬quiet → Stops i iss s (.hold .ending))
    ∧ (iss.stream = .primary → quiet → Takes i iss s → exec i s = answer s { iss with ends := true } s.mach))
  ∧ (∀ (m : Mach) (c : Nat) (g : BitVec 4),
    let x := m.core c
    let m' := m.standHead c .primary [.ctEnd g]
    let y := m'.core c
    x.region = none → x.trap.monitor = false →
    guarded ((stepResults x [.primary]).1.seenBy .primary m.fresh) (.ctEnd g) = true →
      y.front.paused = false ∧ y.front.bound = false ∧ y.regs = x.regs
      ∧ (x.front.sp.fence = none → x.canOpen m.vclk 0xFF = true →
        y.front.sp.fence.isSome = true ∧ ∀ u ∈ y.caches.untracked, u.dirty = false))
  ∧ ∀ (m : Mach) (c : Nat), (m.core c).flight.pend = [] → (m.core c).flight.fars = [] →
      let m' := m.endCore c
      (m'.core c).reg.status = .ended ∧ (m'.core c).front.primary = [] ∧ (m'.core c).front.transfers = []
      ∧ (m'.core c).regs = (m.core c).regs ∧ m'.mem = m.mem ∧ (∀ k, k ≠ c → m'.core k = m.core k)
      ∧ ∀ l, m.launch (m.core c).reg.launch = some l → ∃ l', m'.launch (m.core c).reg.launch = some l' ∧ l'.reported = l.reported ++ [c]

/-- Guards (R13). -/
def Obligations.GuardFalseIsNop : Prop :=
  (∀ (i : Instr) (s : State) (iss : Issue), s.iss = some iss → guarded iss.x i = false → exec i s = .next s)
  ∧ ∀ (i : Instr) (x : CoreState), guardOf i = 0 → guarded x i = true

/-- Illegal encodings (R69 to R71). -/
def Obligations.IllegalEncodings : Prop :=
  (∀ (b : Bundle) (k : Slot), badWord k (b.word k) → (∀ j : Slot, j.num < k.num → ¬badWord j (b.word j)) →
    bundleWords b = [.illegalEncoding k (b.word k) false])
  ∧ (∀ b : Bundle, (∀ j : Slot, ¬badWord j (b.word j)) →
    let fo := fun (k : Slot) => ∃ i, decodeWord k (b.word k) = .ok i ∧ hasFo i = true
    (fo .ca → fo .cb ∨ b.word .mx = 0 → bundleWords b = [.illegalEncoding .ca (b.word .ca) true])
    ∧ (¬fo .ca → fo .cb → b.word .mx = 0 → bundleWords b = [.illegalEncoding .cb (b.word .cb) true])
    ∧ (¬(fo .ca ∧ (fo .cb ∨ b.word .mx = 0)) → ¬(fo .cb ∧ b.word .mx = 0) →
        bundleWords b = Slot.all.filterMap (fun k => match decodeWord k (b.word k) with
          | .ok i => if i = .nop then none else some i
          | .error _ => none)))
  ∧ (∀ (s : State) (iss : Issue) (k : Slot) (w : SlotWord) (whole : Bool), s.iss = some iss →
    ∃ v : Dword, exec (.illegalEncoding k w whole) s = stopped s iss (.illegalEncoding k w whole) (.trap { cause := 1, tval := v })
      ∧ v.toNat % 2 ^ 32 = w.toNat ∧ v.toNat / 2 ^ 32 % 8 = k.num ∧ v.getLsbD 40 = whole)
  ∧ (∀ w : SlotWord, bits w.toNat 22 6 = 29 → bits w.toNat 0 22 = 0 → badWord .ct w)
  ∧ (∀ w : SlotWord, bits w.toNat 22 6 = 24 → 7 ≤ bits w.toNat 6 4 → badWord .ct w)
  ∧ ∀ (s : State) (iss : Issue), s.iss = some iss → exec .nop s = answer s iss s.mach

/-- A step runs the decoded instruction of a core, and merges its streams. -/
def Obligations.StepRunsFetchedWord : Prop :=
  (∀ (s : State) (c : Nat) (r : List Action) (p : HeadBundle) (m : Mach) (i : Instr),
    let x := s.mach.core c
    let m1 := (s.mach.beginCycle c).withholdPrimary c
    s.agenda = .cycle c :: r → c < 1024 → s.iss = none → x.reg.status = .running → x.releasing = [] → x.replay = [] →
    s.mach.fleet.limit = 16 → s.mach.fleet.thermal = 16 → x.front.secondary = [] → x.front.sp.idle = 0 → x.front.ss.idle = 0 →
    x.front.withhold = false → x.front.waitCount < 64 →
    m1.primaryHead c = .ok (some p, m) → p.words = [i] →
    let m2 := (m.standHead c .primary [i]).countStretch c .primary
    step s = match openIssue m2 c [(.primary, i)] [(.primary, p.origin)] with
      | none => .next { s with mach := m2, agenda := r }
      | some (pre, iss) => match exec i { s with mach := pre, iss := some iss, agenda := r } with
        | .next t => .next (closeIssue t)
        | other => other)
  ∧ (∀ (m : Mach) (c : Nat),
    let x := m.core c
    let o := x.primaryOrigin
    (o.fed = false → ∀ b m', m.fetchBundle c x.front.pc = .ok (b, m') → m.primaryHead c = .ok (some { words := bundleWords b, origin := o }, m'))
    ∧ (o.fed = true → x.front.primary = [] → m.primaryHead c = .ok (none, m))
    ∧ (o.fed = true → ∀ e l, x.front.primary = e :: l → o.prov = e.prov
        ∧ m.primaryHead c = .ok (some { words := bundleWords e.bundle, origin := o }, m)))
  ∧ (∀ (b : Bundle) (k : Slot) (i : Instr), (∀ j : Slot, j ≠ k → b.word j = 0) → decodeWord k (b.word k) = .ok i → i ≠ .nop →
      hasFo i = false → bundleWords b = [i])
  -- the merge of the two streams
  ∧ ∀ (s : State) (c : Nat) (r : List Action) (p q : HeadBundle) (m : Mach),
    let x := s.mach.core c
    let m1 := ((s.mach.beginCycle c).withholdPrimary c).standSecondary c
    let m2 := m1.countStretch c .secondary
    s.agenda = .cycle c :: r → c < 1024 → s.iss = none → x.reg.status = .running → x.releasing = [] → x.replay = [] →
    s.mach.fleet.limit = 16 → s.mach.fleet.thermal = 16 → x.front.sp.idle = 0 → x.front.ss.idle = 0 →
    (m1.core c).secondaryHead = some q → (m1.core c).replay = [] → (m1.core c).front.sp.idle = 0 → (m2.core c).front.sp.idle = 0 →
    m2.primaryHead c = .ok (some p, m) →
    let stood := m.standHead c .primary p.words
    let t : State := { s with mach := stood.countStretch c .primary, agenda := r }
    let prim := evalIssue exec c [(.primary, p)] [] t
    let sec := evalIssue exec c [(.secondary, q)] [] t
    let both := evalIssue exec c [(.primary, p), (.secondary, q)] [] t
    let apart := disjointSlots p.words q.words
    let merged := apart = true ∧ opensRegion t c prim = false ∧ canIssue sec = true ∧ canIssue both = true
    let waited := (m1.core c).front.withhold
    (waited = false → canIssue prim = true → merged → step s = closeEval t both)
    ∧ (waited = false → canIssue prim = true → ¬merged → ∀ u, closeEval t prim = .next u → step s = .next (waitMarks c apart sec u))
    ∧ (waited = false → canIssue prim = false → ∀ u, closeEval t prim = .next u →
        (apart = true ∨ heldByEnd prim = true → step s = secondaryAlone exec c q u)
        ∧ (apart = false → heldByEnd prim = false → step s = .next (waitMarks c false (evalIssue exec c [(.secondary, q)] [] u) u)))
    ∧ (waited = true → canIssue (evalIssue exec c [(.secondary, q)] [] { s with mach := m2, agenda := r }) = true →
        step s = secondaryAlone exec c q { s with mach := stood, agenda := r })
    ∧ (∀ (n : Mach) (k : Nat), ((n.withholdPrimary k).core k).front.withhold
        = ((n.core k).front.withhold || decide (64 ≤ (n.core k).front.waitCount)))

/-- A step runs the instruction of a composer, or an event. -/
def Obligations.StepRunsComposersAndEvents : Prop :=
  (∀ (s : State) (i : Instr) (a : EventArgs) (r : List Action), s.agenda = .event i a :: r →
    step s = exec i { s with agenda := r, arg := a })
  ∧ (∀ (s : State) (k j : Nat) (r : List Action) (q : Composer), s.agenda = .compose k :: r → k < 256 → j < 8 →
    let m := s.mach.modComp k (fun c => { c with harts := c.harts.map (fun e => (e.1, wake s.mach { e.2 with cycle := e.2.cycle + 1 })) })
    let m' := m.modComp k (fun _ => q)
    let h := m'.hart (8 * k + j)
    (m.comp k).pick = some (j, q) → h.interrupted = false →
      (∀ w, rvFetch m' (8 * k + j) h = .ok w → step s = exec (slotInstr h w) { s with mach := m', agenda := r, hart := 8 * k + j })
      ∧ (∀ e, rvFetch m' (8 * k + j) h = .error e → step s = .next { s with mach := m'.rvTrap (8 * k + j) e, agenda := r }))
  ∧ ∀ (h : Hart) (w : BitVec 32),
      ((∀ sh, decodeComposer w ≠ .rv64imacInstruction .ecall sh) ∨ h.user = false → slotInstr h w = decodeComposer w)
      ∧ ∀ sh, decodeComposer w = .rv64imacInstruction .ecall sh → h.user = true →
          let a7 := (h.xAt 17).toNat
          slotInstr h w = if a7 = 0 then .ecallEnd else if a7 = 1 then .ecallLog else if a7 = 2 then .ecallYield else .ecallUnknown

/-- Every instruction answers. -/
def Obligations.StepNeverRefuses : Prop :=
  (∀ (i : Instr) (s : State), ∃ t, exec i s = .next t)
  ∧ ∀ s : State, (∃ t, step s = .next t)
      ∨ (step s = .fault .noSuchAgent ∧ ((∃ c r, s.turns = .cycle c :: r ∧ 1024 ≤ c) ∨ (∃ k r, s.turns = .compose k :: r ∧ 256 ≤ k)))

/-- The invariant of the module, kept by every step. -/
def Obligations.InvariantKeptByEveryStep : Prop := ∀ s t : State, s.Inv → step s = .next t → t.Inv

/-- The invariant holds at reset. -/
def Obligations.InvariantAtReset : Prop := State.reset.Inv

/-- Reset (R14, R27, R250). -/
def Obligations.ResetState : Prop :=
  let m := State.reset.mach
  m.vclk = 0
  ∧ (∀ a, m.mem.read a = 0)
  ∧ (∀ sp a, (m.bytesOf sp).read a = 0 ∧ m.isFull sp a = false)
  ∧ ∀ c,
      let x := m.core c
      (∀ n, x.g n = 0) ∧ (∀ n : BitVec 4, x.p n = decide (n = 0)) ∧ (∀ n, x.v n = { data := 0, tag := 0 })
      ∧ (∀ n : BitVec 3, x.q n = if n = 0 then BitVec.allOnes 64 else 0)
      ∧ (∀ n, x.tile n = { cells := [], tag := 0x11, groups := 0 }) ∧ (∀ e r, x.regs.shape e r = { active := 0, shadow := 0 })
      ∧ x.regs.roff = 0 ∧ x.ctl.lease = 256 ∧ x.ctl.seed = 0 ∧ x.ctl.frm = 0 ∧ x.ctl.regcnt = 0 ∧ x.ctl.reason = 0
      ∧ x.zones.length = 8 ∧ (∀ z ∈ x.zones, (∀ lo hi, z.holds lo hi = false) ∧ z.epochs = [{ id := 0, count := 0, ticket := none }])
      ∧ x.region = none ∧ x.monitor = none ∧ x.cnt = { ld := 0, st := 0, cp := 0, mx := 0 } ∧ x.arrive = 0
      ∧ x.trap.monitor = false ∧ x.reg.status = .idle ∧ x.queues.trapq = [] ∧ x.queues.stqh = x.queues.stqt

/-- How an issue closes without its effect (R74, R375). -/
def Obligations.HeldIssueLeavesNothing : Prop :=
  ∀ (s : State) (iss : Issue), s.iss = some iss →
    ((∃ e ∈ iss.stops, e.2.2 = .hold .plain) → (∀ e ∈ iss.stops, ∀ k, e.2.2 = .hold k → k = .plain) →
      closeIssue s = { s with mach := iss.back, iss := none })
    ∧ (∀ st n t, (st, n, Stop.trap t) ∈ iss.stops → (∀ e ∈ iss.stops, e = (st, n, .trap t) ∨ iss.stopRank (st, n, .trap t) < iss.stopRank e) →
        (∀ e ∈ iss.stops, ∃ u, e.2.2 = .trap u) → (iss.back.core iss.core).region = none → (s.mach.core iss.core).region = none →
        t.fatal = true ∨ (iss.back.core iss.core).trap.monitor = true ∨ (iss.back.core iss.core).queues.trapq.length < 31 →
        t.cause ≠ 9 →
        closeIssue s = { s with mach := iss.back.takeTrap iss.core st (iss.originOf st) t, iss := none })
    ∧ ∀ a b t u,
        (iss.illegal .primary = true → t.cause = 1 → u.cause ≠ 1 →
          iss.stopRank (.primary, a, .trap t) < iss.stopRank (.primary, b, .trap u))
        ∧ ((∀ st, iss.illegal st = false) → (a < 8 → iss.stopRank (.primary, a, .trap t) < iss.stopRank (.secondary, b, .trap u))
          ∧ (a < b → iss.stopRank (.primary, a, .trap t) < iss.stopRank (.primary, b, .trap u)
            ∧ iss.stopRank (.secondary, a, .trap t) < iss.stopRank (.secondary, b, .trap u)))

/-- Delay bundles (R82). -/
def Obligations.TransfersTakeFourBundles : Prop :=
  (∀ (iss : Issue) (m : Mach), iss.origins.map (·.1) = [.primary] → (iss.originOf .primary).fed = false → iss.eret = false →
    iss.after = none → iss.dusk = false → iss.ends = false →
    let x := m.core iss.core
    let y := (commitIssue iss m).core iss.core
    let all : List Transfer := match iss.transfer with
      | some t => x.front.transfers ++ [{ target := t, left := 4 }]
      | none => x.front.transfers
    let ts := all.map (fun t => { t with left := t.left - 1 })
    y.front.pc = (match ts.find? (fun t => t.left = 0) with
      | some t => t.target
      | none => x.front.pc + 32)
    ∧ y.regs = x.regs ∧ y.flight.pend = x.flight.pend ∧ y.trap = x.trap
    ∧ (ts.all (fun t => t.left ≠ 0) = true → y.front.transfers = ts))
  ∧ ∀ (pc t u : Dword),
      let a1 := advance pc [{ target := t, left := 4 }]
      let a2 := advance a1.1 a1.2
      let a3 := advance a2.1 (a2.2 ++ [{ target := u, left := 4 }])
      let a4 := advance a3.1 a3.2
      let a5 := advance a4.1 a4.2
      let a6 := advance a5.1 a5.2
      a1.1 = pc + 32 ∧ a2.1 = pc + 64 ∧ a3.1 = pc + 96 ∧ a4.1 = t ∧ a5.1 = t + 32 ∧ a6.1 = u ∧ a6.2 = []

/-- Taking a trap (R376). -/
def Obligations.TrapEntry : Prop :=
  ∀ (m : Mach) (c : Nat) (st : Stream) (o : Origin) (t : Trap),
    let x := (m.drain c).core c
    let m' := m.takeTrap c st o t
    let y := m'.core c
    let base := x.reg.trapRing + 64 * ((x.queues.trapHead + x.queues.trapq.length) % 32)
    t.fatal = false → t.replay = false → x.trap.monitor = false →
      y.trap = { tcause := t.cause.setWidth 64, taddr := t.taddr, tprov := if o.fed then o.prov else 0, tval := t.tval,
                 epc := if o.fed then 1 else o.addr, kept := x.front.transfers, resume := x.front.pc, stream := st,
                 monitor := true }
      ∧ y.front = { x.front with
          pc := (m.die (c / 16)).service,
          transfers := [],
          sp := { x.front.sp with fence := none, mwait := none },
          ss := if st = .secondary then { x.front.ss with fence := none, mwait := none } else x.front.ss }
      ∧ y.regs = x.regs ∧ y.flight = x.flight
      ∧ (∃ bits : BitVec 512, y.queues.trapq = x.queues.trapq ++ [{ bits := bits, fatal := false, replay := false }]
        ∧ (∀ k, k < 64 → m'.mem.read (base + k) = BitVec.ofNat 8 (bits.toNat / 2 ^ (8 * k)))
        ∧ bits.toNat % 2 ^ 64 = t.cause.toNat ∧ bits.toNat / 2 ^ 64 % 2 ^ 64 = t.taddr.toNat
        ∧ bits.toNat / 2 ^ 192 % 2 ^ 64 = t.tval.toNat ∧ bits.toNat / 2 ^ 320 % 2 ^ 48 = m.vclk.toNat
        ∧ (c < 1024 → bits.toNat / 2 ^ 384 % 2 ^ 16 = c ∧ bits.toNat / 2 ^ 416 % 2 ^ 32 = x.reg.launch.toNat))
      ∧ (∀ a, a < base ∨ base + 64 ≤ a → m'.mem.read a = (m.drain c).mem.read a)
      ∧ ∀ k, k ≠ c → (m'.core k).regs = (m.core k).regs ∧ (m'.core k).front = (m.core k).front

/-- The other ends of a trap (R377 to R381). -/
def Obligations.ReplayableFatalAndNestedTraps : Prop :=
  ∀ (m : Mach) (c : Nat) (st : Stream) (o : Origin) (t : Trap),
    let x := (m.drain c).core c
    let m' := m.takeTrap c st o t
    let y := m'.core c
    let flags := fun (b : BitVec 512) => b.toNat / 2 ^ 400 % 2 ^ 16
    c < 1024 →
    (t.fatal = false → t.replay = true → x.trap.monitor = false →
      y.trap = x.trap ∧ y.front = x.front ∧ y.regs = x.regs ∧ y.reg = x.reg ∧ y.replay = x.replay ++ [(st, t.cause, t.taddr)]
      ∧ ∃ b, y.queues.trapq = x.queues.trapq ++ [{ bits := b, fatal := false, replay := true }])
    ∧ (t.fatal = true ∨ x.trap.monitor = true → x.queues.trapq.length < 32 →
      y.reg.status = .faulted ∧ y.regs = x.regs ∧ y.trap = x.trap
      ∧ ∃ b, y.queues.trapq = x.queues.trapq ++ [{ bits := b, fatal := true, replay := false }]
        ∧ (x.trap.monitor = true → t.cause = 0x0A → t.fatal = true → b.toNat % 2 ^ 64 = (setBit x.trap.tcause 8 true).toNat
            ∧ b.toNat / 2 ^ 64 % 2 ^ 64 = x.trap.taddr.toNat ∧ flags b % 4096 = t.tval.toNat % 4096 ∧ (flags b / 4096) % 4 = 1)
        ∧ (x.trap.monitor = true → ¬(t.cause = 0x0A ∧ t.fatal = true) → b.toNat % 256 = t.cause.toNat ∧ (flags b / 4096) % 4 = 2))
    ∧ (t.fatal = true ∨ x.trap.monitor = true → 32 ≤ x.queues.trapq.length →
      y.reg.status = .exhausted ∧ y.queues = x.queues ∧ m'.mem = (m.drain c).mem)

/-- The return from a trap (R110). -/
def Obligations.ReturnFromTrap : Prop :=
  (∀ (m : Mach) (c : Nat),
    let x := (m.drain c).core c
    let y := (m.returnFromTrap c).core c
    let e := x.trap.epc
    let at' := e &&& ~~~(31 : Dword)
    let call := (x.trap.tcause.toNat % 256 = 0x0A ∨ x.trap.tcause.toNat % 256 = 0x0B) ∧ x.trap.tcause.getLsbD 8 = false
    let past := fun (st : Stream) (q : List Entry) => if call ∧ x.trap.stream = st then q.drop 1 else q
    y.trap = { x.trap with monitor := false, kept := [], resume := 0, stream := .primary } ∧ y.regs = x.regs
    ∧ (m.returnFromTrap c).mem = (m.drain c).mem
    ∧ (e.getLsbD 0 = true → y.front.pc = x.trap.resume ∧ y.front.transfers = x.trap.kept
      ∧ y.front.primary = past .primary x.front.primary ∧ y.front.secondary = past .secondary x.front.secondary)
    ∧ (e.getLsbD 0 = false → y.front.primary = x.front.primary ∧ y.front.secondary = x.front.secondary)
    ∧ (e.getLsbD 0 = false → ¬call → y.front.pc = at' ∧ y.front.transfers = x.trap.kept)
    ∧ (e.getLsbD 0 = false → call → x.trap.kept = [] → y.front.pc = at' + 32 ∧ y.front.transfers = [])
    ∧ (e.getLsbD 0 = false → call → (y.front.pc, y.front.transfers) = advance at' x.trap.kept))
  ∧ ∀ (s : State) (g : BitVec 4) (pre : Mach) (iss : Issue),
    let m := s.mach.modCore s.core passCycle
    let o := (m.core s.core).primaryOrigin
    s.iss = none → openIssue m s.core [(.primary, .scEret g)] [(.primary, o)] = some (pre, iss) → iss.stops = [] →
    guarded iss.x (.scEret g) = true → iss.x.trap.monitor = true → (pre.core s.core).region = none → (m.core s.core).region = none →
      ∃ m' : Mach, exec (.scEret g) s = .next { s with mach := m'.returnFromTrap s.core, iss := none }
        ∧ (m'.core s.core).regs = (pre.core s.core).regs ∧ (m'.core s.core).trap = (pre.core s.core).trap

/-- Fixed-latency results (R15, R16, R75). -/
def Obligations.ResultsBecomeVisible : Prop :=
  (∀ (x : CoreState) (st : Stream) (slot : Nat) (k : LatClass) (d : Dest) (v : VData),
    (pushResult x st slot k (some d) v).flight.pend = x.flight.pend ++
      [{ dest := d, value := v, lanes := BitVec.allOnes 64, stream := st, steps := latency x.ctl.lattab k, cycles := k.table2,
         slot := slot, issue := x.flight.issue }]
    ∧ pushResult x st slot k none v = x)
  ∧ ([LatClass.A, .B, .C, .D, .E, .F, .G, .H, .I, .J, .K].map (latency 1) = [1, 3, 18, 4, 2, 2, 3, 4, 6, 3, 6]
    ∧ [LatClass.A, .B, .C, .D, .E, .F, .G, .H, .I, .J, .K].map (latency 2) = [1, 4, 22, 5, 2, 2, 4, 5, 8, 4, 8])
  ∧ (∀ (x : CoreState) (p : Pending), x.flight.pend = [p] →
    (2 ≤ p.steps → (stepResults x [p.stream]).1 = { x with flight.pend := [{ p with steps := p.steps - 1 }] })
    ∧ (p.steps ≤ 1 → x.flight.landed = [] →
      (stepResults x [p.stream]).1 = landOne { x with flight.pend := [], flight.landed := [p] } p)
    ∧ (∀ st, st ≠ p.stream → (stepResults x [st]).1 = x))
  ∧ (∀ (x : CoreState) (p q : Pending), p.dest = q.dest → p.stream = q.stream → p.steps ≤ 1 → q.steps ≤ 1 →
    p.issue < q.issue ∨ (p.issue = q.issue ∧ p.slot < q.slot) →
    x.flight.pend = [p, q] ∨ x.flight.pend = [q, p] → x.flight.landed = [] →
      (stepResults x [p.stream]).1 = landOne (landOne { x with flight.pend := [], flight.landed := x.flight.pend } p) q
      ∧ (p.dest = .roff → (stepResults x [p.stream]).2 = [])
      ∧ (p.dest ≠ .roff → ∃ e, (stepResults x [p.stream]).2 = [e] ∧ e.kind = 0x33 ∧ e.slot = q.slot ∧ e.count = 1))
  ∧ (∀ (m : Mach) (c : Nat) (st : Stream), ((m.core c).streamState st).idle ≠ 0 → stretched (m.core c) st = false →
      (((m.idleStep c st).core c).streamState st).idle = ((m.core c).streamState st).idle - 1
      ∧ ((m.idleStep c st).core c).flight.pend.length ≤ (m.core c).flight.pend.length)
  ∧ (∀ (x : CoreState) (p : Pending) (n : Nat), p.dest = .g n → x.region = none → n ≠ 0 →
      (landOne x p).regs.gAt n = p.value.setWidth 64 ∧ (∀ k, k ≠ n → (landOne x p).regs.gAt k = x.regs.gAt k)
      ∧ (landOne x p).regs.v = x.regs.v ∧ (landOne x p).regs.p = x.regs.p ∧ (landOne x p).flight = x.flight)
  -- the names (R15, R17)
  ∧ (∀ x : CoreState, x.destG 0 = none ∧ x.destP 0 = none ∧ x.destQ 0 = none ∧ x.g 0 = 0 ∧ x.p 0 = true ∧ x.q 0 = BitVec.allOnes 64)
  ∧ (∀ (r : BitVec 4) (n : BitVec 6), (gPhys r n : Int)
      = if 32 ≤ n.toNat ∧ n.toNat ≤ 47 then 32 + ((n.toNat : Int) - 32 - (r.toNat : Int)) % 16 else (n.toNat : Int))
  ∧ (∀ (r : BitVec 4) (n : BitVec 5), (vPhys r n : Int)
      = if 16 ≤ n.toNat ∧ n.toNat ≤ 23 then 16 + ((n.toNat : Int) - 16 - (r.toNat : Int)) % 8 else (n.toNat : Int))
  ∧ (∀ r n : BitVec 4, (pPhys r n : Int) = if 8 ≤ n.toNat then 8 + ((n.toNat : Int) - 8 - (r.toNat : Int)) % 8 else (n.toNat : Int))
  ∧ (∀ x : CoreState,
      (∀ n, n ≠ 0 → x.destG n = some (if x.trap.monitor = true ∧ 48 ≤ n.toNat then .mon n.toNat else .g (gPhys x.regs.roff n)))
      ∧ (∀ n, n ≠ 0 → x.destP n = some (.p (pPhys x.regs.roff n))) ∧ (∀ n, x.destV n = some (.v (vPhys x.regs.roff n)))
      ∧ ∀ n, n ≠ 0 → x.destQ n = some (.q n.toNat))
  -- what lands in the other registers (R22)
  ∧ ∀ (x : CoreState) (p : Pending),
      let y := landOne x p
      (∀ n, p.dest = .p n → n ≠ 0 → n < 16 → y.regs.pAt n = p.value.getLsbD 0 ∧ (∀ k, k ≠ n → y.regs.pAt k = x.regs.pAt k)
        ∧ y.regs.g = x.regs.g ∧ y.regs.v = x.regs.v ∧ y.regs.q = x.regs.q)
      ∧ (∀ n, p.dest = .q n → n ≠ 0 → y.regs.qAt n = p.value.setWidth 64 ∧ (∀ k, k ≠ n → y.regs.qAt k = x.regs.qAt k)
        ∧ y.regs.g = x.regs.g ∧ y.regs.v = x.regs.v ∧ y.regs.p = x.regs.p)
      ∧ (∀ n, p.dest = .v n → (y.regs.vAt n).tag = p.tag.getD (x.regs.vAt n).tag
        ∧ (∀ l, l < 64 → lane (y.regs.vAt n).data l = if p.lanes.getLsbD l then lane p.value l else lane (x.regs.vAt n).data l)
        ∧ (∀ k, k ≠ n → y.regs.vAt k = x.regs.vAt k) ∧ y.regs.g = x.regs.g ∧ y.regs.p = x.regs.p ∧ y.regs.q = x.regs.q)
      ∧ (∀ n, p.dest = .mon n → Sparse.get 0 y.mon n = p.value.setWidth 64 ∧ (∀ k, k ≠ n → Sparse.get 0 y.mon k = Sparse.get 0 x.mon k)
        ∧ y.regs = x.regs)
      ∧ (p.dest = .roff → y.regs = { x.regs with roff := p.value.setWidth 4 })

/-- Decode after encode, SC. -/
def Obligations.ScalarWordsRoundTrip : Prop :=
  ∀ i : Instr, i.wf = true → slotOf i = some .sc → (∀ k w b, i ≠ .illegalEncoding k w b) →
    ∃ w, encode i = some w ∧ decodeWord .sc w = .ok i

/-- Decode after encode, VX and VY. -/
def Obligations.VectorWordsRoundTrip : Prop :=
  (∀ (i : Instr) (k : Slot), i.wf = true → k = .vx ∨ k = .vy → slotOf i = some k → (∀ j w b, i ≠ .illegalEncoding j w b) →
    ∃ w, encode i = some w ∧ decodeWord k w = .ok i)
  ∧ ∀ w : SlotWord, 0x28 ≤ bits w.toNat 22 6 → bits w.toNat 22 6 ≤ 0x37 → badWord .vx w

/-- Decode after encode, CT, engines and the emit extension. -/
def Obligations.ControlEngineAndEmitWordsRoundTrip : Prop :=
  (∀ (i : Instr) (k : Slot), i.wf = true → k ≠ .sc → k ≠ .vx → k ≠ .vy → slotOf i = some k →
    (∀ j w b, i ≠ .illegalEncoding j w b) → ∃ w, encode i = some w ∧ decodeWord k w = .ok i)
  ∧ ∀ (k : BitVec 3) (q : BitVec 1) (t : BitVec 12) (a b c d : BitVec 5),
      let back := fun (i : Instr) => ∃ w, encode i = some w ∧ decodeComposer w = i
      back (.eClr k) ∧ back .eClrAll ∧ back (.eSet k a) ∧ back (.eTpl t a) ∧ back (.ePatch b a) ∧ back (.eProv a)
      ∧ back (.eEmitP a) ∧ back (.eEmitS a) ∧ back (.eEmitA a) ∧ back (.eEmitrP c b a) ∧ back (.eEmitrS c b a)
      ∧ back (.eQst q a d) ∧ back (.eWait q b a) ∧ back (.eBind q a)

/-- Words written out in the spec. -/
def Obligations.WordsOfTheSpec : Prop :=
  let reads := fun (k : Slot) (w : SlotWord) (i : Instr) => decodeWord k w = .ok i
  reads .sc 0x070A0001 (.scImm 0 0 10 1)
  ∧ reads .sc 0x0C4950A3 (.scAmoCas 0 9 20 10 0 1)
  ∧ reads .sc 0x01C48900 (.scCmpiEq 0 1 2 9 0)
  ∧ reads .ct 0x207FFFFE (.ctBr 2 0x3FFFFE)
  ∧ reads .ct 0x02811000 (.ctFenceAcq 0 4)
  ∧ reads .ct 0x07800000 (.ctEnd 0)
  ∧ reads .vx 0x00D2A5B0 (.vIadds .vx 0 9 10 11 3)
  ∧ reads .vx 0x020A1901 (.vFcmpLt .vx 0 1 2 3 4 0)
  ∧ reads .vx 0x030A6100 (.vCvt .vx 0 5 6 2 0 0)
  ∧ reads .vy 0x0A883041 (.vLdG 0 2 4 6 0 1 1)
  ∧ reads .mx 0x00982002 (.mxDrainH64 0 1 2 0 2 0 0)
  ∧ reads .mx 0x00406A00 (.mxMma 0 0 0 0 3 20 0)
  ∧ reads .ca 0x00580320 (.xCp .ca 0 1 2 0 0 12 1)
  ∧ decodeComposer 0x0005702B = .eBind 0 10
  ∧ decodeComposer 0x0005A00B = .eTpl 0 11
  ∧ decodeComposer 0x68C5302B = .eEmitrP 13 12 10
  ∧ decodeComposer 0x0080000B = .eClrAll
  ∧ decodeComposer 0x0017100B = .eSet 1 14
  ∧ (∀ e ∈ ([(0xFFF30293, .opImm .add 5 6 (-1)), (0x002081B3, .op .add 3 1 2), (0x00813503, .load 3 true 10 2 8),
        (0x00A13423, .store 3 2 10 8), (0xFE208EE3, .branch .eq 1 2 (-4)), (0x02208133, .op .mul 2 1 2),
        (0x0220D1B3, .op .divu 3 1 2), (0x2020A1B3, .op .sh1add 3 1 2), (0x1003B2AF, .lr true false 5 7),
        (0x1A63A2AF, .sc false true 5 7 6), (0x0063A2AF, .amo .add false false 5 7 6), (0x34029073, .csr 1 false 0 5 0x340),
        (0x0330000F, .fence 3 3), (0x00000073, .ecall), (0x30200073, .mret), (0x10500073, .wfi)] : List (BitVec 32 × Rv)),
      decodeComposer e.1 = .rv64imacInstruction e.2 false)
  ∧ ∀ e ∈ ([(0x4505, .opImm .add 10 0 1), (0x952E, .op .add 10 10 11), (0x6510, .load 3 true 12 10 8), (0xE406, .store 3 2 1 8),
        (0xA001, .jal 0 0), (0x9002, .ebreak), (0x0000, .illegal 0)] : List (BitVec 32 × Rv)),
      decodeComposer e.1 = .rv64imacInstruction e.2 true

/-- Floating-point words (R136 to R138). -/
def Obligations.VectorFloatingPoint : Prop :=
  (∀ (s : State) (iss : Issue) (sl : VSlot) (g : BitVec 4) (d a b : BitVec 5) (r : BitVec 6) (q : BitVec 3),
    let x := iss.x
    let el := fun (r : BitVec 5) (n : Nat) => (lane (x.v r).data n).toNat
    let sc := fun (_ : Nat) => (x.g r).toNat % 2 ^ 32
    let none := fun (_ : Nat) => 0
    let fp := fun (t : BitVec 5) => decide (t = tFp32)
    let any := fun (_ : BitVec 5) => true
    let wordWith := fun (reads : BitVec 5 → Bool) (i : Instr) (src : List (BitVec 5)) (op : FpOp) (vb vc : Nat → Nat) =>
      let r := fun n => op (laneMode iss 3 n 0) (el a n) (vb n) (vc n)
      VectorWord i iss s (src.map (fun k => (k, fp))) .H d (x.q q) tFp32 (fun v t =>
        (∀ n, n < 64 → (x.q q).getLsbD n = true → lane v n = BitVec.ofNat 32 (r n).bits)
        ∧ t = tally ((selected (x.q q)).map (fun n => ((r n).events, n)))) reads
    let word := wordWith any
    word (.vFadd sl g d a b q) [a, b] fpAdd (el b) none
    ∧ word (.vFsub sl g d a b q) [a, b] fpSub (el b) none
    ∧ word (.vFmul sl g d a b q) [a, b] fpMul (el b) none
    ∧ wordWith fp (.vFma sl g d a b q) [a, b] fpFma (el b) (el d)
    ∧ wordWith fp (.vFms sl g d a b q) [a, b] fpFms (el b) (el d)
    ∧ word (.vFmin sl g d a b q) [a, b] fpMin (el b) none
    ∧ word (.vFmax sl g d a b q) [a, b] fpMax (el b) none
    ∧ word (.vFabs sl g d a b q) [a] fpAbs none none
    ∧ word (.vFneg sl g d a b q) [a] fpNeg none none
    ∧ word (.vFscale sl g d a b q) [a, b] fpScale (el b) none
    ∧ word (.vFaddS sl g d a r q) [a] fpAdd sc none
    ∧ word (.vFsubS sl g d a r q) [a] fpSub sc none
    ∧ word (.vFmulS sl g d a r q) [a] fpMul sc none
    ∧ wordWith fp (.vFmaS sl g d a r q) [a] fpFma sc (el d)
    ∧ word (.vFminS sl g d a r q) [a] fpMin sc none
    ∧ word (.vFmaxS sl g d a r q) [a] fpMax sc none
    ∧ word (.vFscaleS sl g d a r q) [a] fpScale sc none)
  ∧ ∀ (md : Mode) (a b c : Nat),
      let A := fp32.unpack a
      let B := fp32.unpack b
      let invalid : Scored := { bits := 0x7FC00000, events := [0x20] }
      (A.isZero = true → (∃ n, B = .inf n) → fpFma md a b c = invalid ∧ fpFms md a b c = invalid ∧ fpMul md a b c = invalid)
      ∧ (A.isNan = true → B.isNan = true → (fpMin md a b c).bits = 0x7FC00000 ∧ (fpMax md a b c).bits = 0x7FC00000)
      ∧ (A.isNan = true → B.isNan = false → (fpMin md a b c).bits = b ∧ (fpMax md a b c).bits = b)
      ∧ (A.isNan = false → B.isNan = true → (fpMin md a b c).bits = a ∧ (fpMax md a b c).bits = a)
      ∧ (A.isNan = false → B.isNan = false → A.below B = true → (fpMin md a b c).bits = a ∧ (fpMax md a b c).bits = b)
      ∧ (A.isNan = false → B.isNan = false → B.below A = true → (fpMin md a b c).bits = b ∧ (fpMax md a b c).bits = a)
      ∧ (A.isNan = true → (fpAbs md a b c).bits = 0x7FC00000 ∧ (fpNeg md a b c).bits = 0x7FC00000)
      ∧ (A.isNan = false → a < 2 ^ 32 → (fpAbs md a b c).bits = a % 2 ^ 31 ∧ ((fpNeg md a b c).bits + 2 ^ 31) % 2 ^ 32 = a)
      ∧ Machine.Num.below (fp32.unpack 0x80000000) (fp32.unpack 0) = true
      -- the exact value, rounded once (R36, R136)
      ∧ (∀ m x e n y g, A = .fin m x e → B = .fin n y g →
        let sg := fun (neg : Bool) (v : Nat) => if neg then -(v : Int) else (v : Int)
        let rounds := fun (r : Scored) (n' : Bool) (c' : Nat) (h : Int) (p : Bool) (z : Nat) (k : Int) =>
          -- (−1)^p · z · 2^k plus (−1)^n' · c' · 2^h
          let low := min k h
          let sum := sg p (z * 2 ^ (k - low).toNat) + sg n' (c' * 2 ^ (h - low).toNat)
          r = fp32.round md (if sum = 0 then (p && n' && decide (z = 0) && decide (c' = 0)) else decide (sum < 0)) sum.natAbs low
        rounds (fpAdd md a b c) n y g m x e ∧ rounds (fpSub md a b c) (!n) y g m x e
        ∧ fpMul md a b c = fp32.round md (m != n) (x * y) (e + g)
        ∧ ∀ l z h, fp32.unpack c = .fin l z h →
            rounds (fpFma md a b c) l z h (m != n) (x * y) (e + g) ∧ rounds (fpFms md a b c) (!l) z h (m != n) (x * y) (e + g))
      ∧ (∀ m x e, A = .fin m x e →
        let N := signedOf 32 b
        (-600 ≤ N → N ≤ 600 → fpScale md a b c = fp32.round md m x (e + N))
        ∧ (600 < N → x ≠ 0 → fpScale md a b c = { bits := if md = .rz then fp32.largest m else fp32.inf m, events := [0x21] })
        ∧ (N < -600 → (∀ h, md = .rs h → h < 2 ^ 32) → fpScale md a b c = { bits := fp32.zero m }))
      -- the order (R137, R142)
      ∧ (∀ m x e n y g, A = .fin m x e → B = .fin n y g →
        let k := min e g
        let sg := fun (neg : Bool) (v : Nat) => if neg then -(v : Int) else (v : Int)
        let u := sg m (x * 2 ^ (e - k).toNat)
        let v := sg n (y * 2 ^ (g - k).toNat)
        (A.lt B = true ↔ u < v) ∧ (A.eqv B = true ↔ u = v)
        ∧ (A.below B = true ↔ u < v ∨ (x = 0 ∧ y = 0 ∧ m = true ∧ n = false)))
      ∧ (∀ m n y g, A = .inf m → (B = .fin n y g →
          A.lt B = m ∧ B.lt A = (!m) ∧ A.below B = m ∧ B.below A = (!m) ∧ A.eqv B = false)
        ∧ (B = .inf n → A.lt B = (m && !n) ∧ A.below B = (m && !n) ∧ A.eqv B = decide (m = n)))

/-- One rounding (R36 to R39). -/
def Obligations.RoundingErrorAndExactness : Prop :=
  ∀ (f : Fmt) (md : Mode), f = fp32 ∨ f = fp16 ∨ f = bf16 → (∀ h, md = .rs h → h < 2 ^ 32) →
    (∀ x n m e, x < 2 ^ (1 + f.ebits + f.fbits) → f.unpack x = .fin n m e → f.round md n m e = { bits := x })
    ∧ ∀ (n : Bool) (m : Nat) (e k : Int), m ≠ 0 → k ≤ e → k ≤ f.emin →
        let r := f.round md n m e
        let grid := max f.emin (Nat.log2 m + e - f.fbits)
        let unit := 2 ^ (grid - k).toNat
        let exact := m * 2 ^ (e - k).toNat
        let ulp := 2 ^ (f.emin + f.top - 2 - k).toNat
        let largest := (2 ^ (f.fbits + 1) - 1) * ulp
        (r.events = [0x21] ↔ match md with
          | .rz => largest + ulp ≤ exact
          | .rn => 2 * largest + ulp ≤ 2 * exact
          | .rs h => largest + ulp ≤ exact ∨ (largest ≤ exact ∧ 2 ^ 32 ≤ (exact - largest) * 2 ^ 32 / ulp + h))
        ∧ (r.events = [] ∨ (r.events = [0x21] ∧ r.bits = (if md = .rz then f.largest n else f.inf n)))
        ∧ (r.events = [] → ∃ m' e', f.unpack r.bits = .fin n m' e' ∧ k ≤ e' ∧
            let got := m' * 2 ^ (e' - k).toNat
            got < exact + unit ∧ exact < got + unit
            ∧ (md = .rn → 2 * got ≤ 2 * exact + unit ∧ 2 * exact ≤ 2 * got + unit)
            ∧ (md = .rz → got ≤ exact))

/-- Comparisons and reductions (R142 to R145). -/
def Obligations.VectorComparisonsAndReductions : Prop :=
  (∀ (s : State) (iss : Issue) (sl : VSlot) (g : BitVec 4) (t f : BitVec 3) (d a b : BitVec 5) (q : BitVec 3),
    let x := iss.x
    let M := x.q q
    let A := fun n => lane (x.v a).data n
    let B := fun n => lane (x.v b).data n
    let num := fun (v : BitVec 32) => fp32.unpack v.toNat
    let is := fun (k t : BitVec 5) => decide (t = k)
    let compare := fun (i : Instr) (k : BitVec 5) (c : Nat → Bool) (tl : Tally) =>
      let put := fun (r : BitVec 3) (v : BitVec 64) (y : CoreState) =>
        pushResult y iss.stream (slotNum i) .F (x.destQ r) (v.setWidth 2048)
      TagChecks i iss s [(a, is k), (b, is k)]
      ∧ ((x.v a).tag = k → (x.v b).tag = k → Takes i iss s → ∃ yes no : BitVec 64,
        (∀ n, n < 64 → yes.getLsbD n = (M.getLsbD n && c n) ∧ no.getLsbD n = (M.getLsbD n && !(c n)))
        ∧ exec i s = answer s { iss with events := iss.events ++ tl.events (slotNum i) iss.stream }
            (s.mach.modCore iss.core (fun y => put t yes (if t = f then y else put f no y))))
    let quiet := tally ((selected M).map (fun n => (readEvents [num (A n), num (B n)], n)))
    let reduce := fun (i : Instr) (k : BitVec 5) (good : BitVec 32 → Tally → Prop) =>
      TagChecks i iss s [(a, is k)]
      ∧ ((x.v a).tag = k → Takes i iss s → ∃ (v : BitVec 32) (w : VData) (tl : Tally), good v tl ∧ (∀ n, n < 64 → lane w n = v)
        ∧ exec i s = answer s { iss with events := iss.events ++ tl.events (slotNum i) iss.stream }
            (s.mach.modCore iss.core (fun y =>
              pushResult y iss.stream (slotNum i) .I (x.destV d) w (BitVec.allOnes 64) (some k))))
    let sel := fun n => n < 64 ∧ M.getLsbD n = true
    compare (.vFcmpEq sl g t f a b q) tFp32 (fun n => (num (A n)).eqv (num (B n))) quiet
    ∧ compare (.vFcmpLt sl g t f a b q) tFp32 (fun n => (num (A n)).lt (num (B n))) quiet
    ∧ compare (.vFcmpLe sl g t f a b q) tFp32 (fun n => (num (A n)).lt (num (B n)) || (num (A n)).eqv (num (B n))) quiet
    ∧ compare (.vFcmpUn sl g t f a b q) tFp32 (fun n => (num (A n)).isNan || (num (B n)).isNan) quiet
    ∧ compare (.vIcmpEq sl g t f a b q) tI32 (fun n => decide (A n = B n)) []
    ∧ compare (.vIcmpLt sl g t f a b q) tI32 (fun n => decide ((A n).toInt < (B n).toInt)) []
    ∧ compare (.vIcmpLtu sl g t f a b q) tI32 (fun n => decide ((A n).toNat < (B n).toNat)) []
    ∧ reduce (.vFsum sl g d a q) tFp32 (fun v _ => ∃ L : Nat → Nat → Nat,
        (∀ n, n < 64 → L 0 n = if M.getLsbD n then (A n).toNat else 0x80000000)
        ∧ (∀ k n, k < 6 → n < 2 ^ (5 - k) → L (k + 1) n = (fpAdd (laneMode iss 3 n (k + 1)) (L k (2 * n)) (L k (2 * n + 1)) 0).bits)
        ∧ v = BitVec.ofNat 32 (L 6 0))
    ∧ reduce (.vFmaxr sl g d a q) tFp32 (fun v _ =>
        ((∀ n, ¬sel n) → v = 0xFF800000)
        ∧ ((∃ n, sel n) → (∀ n, sel n → (num (A n)).isNan = true) → v = 0x7FC00000)
        ∧ ((∃ n, sel n ∧ (num (A n)).isNan = false) → (∃ n, sel n ∧ (num (A n)).isNan = false ∧ v = A n)
          ∧ ∀ n, sel n → (num v).below (num (A n)) = false))
    ∧ reduce (.vImaxr sl g d a q) tI32 (fun v tl => tl = [] ∧ (∀ n, sel n → (A n).toInt ≤ v.toInt)
        ∧ (v = 0x80000000 ∨ ∃ n, sel n ∧ v = A n))
    ∧ reduce (.vIminr sl g d a q) tI32 (fun v tl => tl = [] ∧ (∀ n, sel n → v.toInt ≤ (A n).toInt)
        ∧ (v = 0x7FFFFFFF ∨ ∃ n, sel n ∧ v = A n))
    ∧ reduce (.vIsumr sl g d a q) tI32 (fun v tl => tl = []
        ∧ v = BitVec.ofNat 32 (((List.range 64).map (fun n => if M.getLsbD n then (A n).toNat else 0)).sum)))
  ∧ ∀ X Y : Machine.Num, (X.isNan = true ∨ Y.isNan = true → X.eqv Y = false ∧ X.lt Y = false ∧ Y.lt X = false)
      ∧ (X.isNan = false → Y.isNan = false → (X.eqv Y = true ∨ X.lt Y = true ∨ Y.lt X = true) ∧ ¬(X.lt Y = true ∧ Y.lt X = true))

/-- Integer words (R139 to R141). -/
def Obligations.VectorIntegerElements : Prop :=
  ∀ (s : State) (iss : Issue) (sl : VSlot) (g : BitVec 4) (d a b : BitVec 5) (r : BitVec 6) (q : BitVec 3),
    let x := iss.x
    let T := (x.v a).tag
    let w := elemWidth T
    let E := perLane T
    let el := fun (k : BitVec 5) (p : Nat) => elementAt T (x.v k).data p
    let sc := fun (_ : Nat) => (x.g r).toNat % 2 ^ w
    let val := fun (v : Nat) => elementInt T v
    let int := fun (t : BitVec 5) => decide (t = tI32 ∨ t = tI16 ∨ t = tUi16 ∨ t = tI8)
    let half := fun (t : BitVec 5) => decide (t = tI16 ∨ t = tUi16)
    let same := fun (t : BitVec 5) => decide (t = T)
    let lo : Int := if tagSigned T then -(2 ^ (w - 1) : Nat) else 0
    let hi : Int := if tagSigned T then (2 ^ (w - 1) : Nat) - 1 else (2 ^ w : Nat) - 1
    let limit := fun (v : Int) => max lo (min hi v)
    let word := fun (i : Instr) (k : LatClass) (ok : BitVec 5 → Bool) (reg : Bool) (tag : BitVec 5) (op : Nat → Nat → Int) =>
      VectorWord i iss s ((a, ok) :: (if reg then [(b, same)] else [])) k d (x.q q) tag (fun v t => t = []
        ∧ ∀ p, p < 64 * E → (x.q q).getLsbD (p / E) = true →
            ((elementAt T v p : Nat) : Int) = op (el a p) (if reg then el b p else sc p) % (2 ^ w : Nat))
    let saturating := fun (i : Instr) (reg : Bool) (op : Int → Int → Int) =>
      let exact := fun p => op (val (el a p)) (val (if reg then el b p else sc p))
      VectorWord i iss s ((a, half) :: (if reg then [(b, same)] else [])) .F d (x.q q) T (fun v t =>
        t = tally ((selected (x.q q)).flatMap (fun n => (List.range 2).map (fun e =>
          ((if limit (exact (2 * n + e)) = exact (2 * n + e) then [] else [(0x23 : BitVec 8)]), 2 * n + e))))
        ∧ ∀ p, p < 128 → (x.q q).getLsbD (p / 2) = true →
            ((elementAt T v p : Nat) : Int) = limit (exact p) % (2 ^ w : Nat))
    let lanes := fun (i : Instr) (op : BitVec 32 → BitVec 32 → BitVec 32) (reg : Bool) =>
      VectorGives i iss s .F d (x.q q) T (fun v t => t = [] ∧ ∀ n, n < 64 →
        lane v n = op (lane (x.v a).data n) (if reg then lane (x.v b).data n else (x.g r).setWidth 32))
    let nat := fun (f : Nat → Nat → Nat) (u v : Nat) => ((f u v : Nat) : Int)
    let add := fun (u v : Nat) => (u : Int) + v
    let sub := fun (u v : Nat) => (u : Int) - v
    let mul := fun (u v : Nat) => (u : Int) * v
    let shl := nat (fun u v => u * 2 ^ (v % w))
    let shr := nat (fun u v => u / 2 ^ (v % w))
    let sra := fun (u v : Nat) => signedOf w u / (2 ^ (v % w) : Nat)
    let smin := fun (u v : Nat) => min (val u) (val v)
    let smax := fun (u v : Nat) => max (val u) (val v)
    word (.vIadd sl g d a b q) .F int true T add ∧ word (.vIaddS sl g d a r q) .F int false T add
    ∧ word (.vIsub sl g d a b q) .F int true T sub ∧ word (.vIsubS sl g d a r q) .F int false T sub
    ∧ word (.vImul sl g d a b q) .G int true T mul ∧ word (.vImulS sl g d a r q) .G int false T mul
    ∧ word (.vImulh sl g d a b q) .G int true T (fun u v => val u * val v / (2 ^ w : Nat))
    ∧ word (.vIshl sl g d a b q) .F int true T shl ∧ word (.vIshlS sl g d a r q) .F int false T shl
    ∧ word (.vIshr sl g d a b q) .F int true T shr ∧ word (.vIshrS sl g d a r q) .F int false T shr
    ∧ word (.vIsra sl g d a b q) .F int true T sra ∧ word (.vIsraS sl g d a r q) .F int false T sra
    ∧ word (.vImin sl g d a b q) .F int true T smin ∧ word (.vIminS sl g d a r q) .F int false T smin
    ∧ word (.vImax sl g d a b q) .F int true T smax ∧ word (.vImaxS sl g d a r q) .F int false T smax
    ∧ word (.vIminu sl g d a b q) .F int true T (nat min) ∧ word (.vImaxu sl g d a b q) .F int true T (nat max)
    ∧ word (.vIabsd sl g d a b q) .F half true tUi16 (fun u v => ((val u - val v).natAbs : Int))
    ∧ word (.vIavg sl g d a b q) .F int true T (fun u v => (val u + val v + 1) / 2)
    ∧ lanes (.vIand sl g d a b q) (fun u v => u &&& v) true ∧ lanes (.vIandS sl g d a r q) (fun u v => u &&& v) false
    ∧ lanes (.vIor sl g d a b q) (fun u v => u ||| v) true ∧ lanes (.vIorS sl g d a r q) (fun u v => u ||| v) false
    ∧ lanes (.vIxor sl g d a b q) (fun u v => u ^^^ v) true ∧ lanes (.vIxorS sl g d a r q) (fun u v => u ^^^ v) false
    ∧ saturating (.vIadds sl g d a b q) true (fun u v => u + v) ∧ saturating (.vIaddsS sl g d a r q) false (fun u v => u + v)
    ∧ saturating (.vIsubs sl g d a b q) true (fun u v => u - v) ∧ saturating (.vIsubsS sl g d a r q) false (fun u v => u - v)
    ∧ VectorWord (.vImad16 sl g d a b q) iss s [(a, half), (b, same)] .G d (x.q q) tI32
        (fun v t => t = [] ∧ ∀ n, n < 64 → (((lane v n).toNat : Nat) : Int) =
          (((lane (x.v d).data n).toNat : Nat) + val (el a (2 * n)) * val (el b (2 * n))
            + val (el a (2 * n + 1)) * val (el b (2 * n + 1))) % (2 ^ 32 : Nat)) (fun t => decide (t = tI32))

/-- Moves and conversions (R146 to R148). -/
def Obligations.VectorMovesAndConversions : Prop :=
  (∀ (s : State) (iss : Issue) (sl : VSlot) (g : BitVec 4) (d a b u : BitVec 5) (r : BitVec 6) (q : BitVec 3) (rnd : BitVec 2),
    let x := iss.x
    let A := fun n => lane (x.v a).data n
    let B := fun n => lane (x.v b).data n
    let S := (x.g r).toNat
    let T := (x.v a).tag
    let moves := fun (i : Instr) (tag : BitVec 5) (f : Nat → BitVec 32) =>
      VectorGives i iss s .F d (x.q q) tag (fun v t => t = [] ∧ ∀ n, n < 64 → lane v n = f n)
    moves (.vBcast sl g d r q) (iss.standing.v d).tag (fun _ => (x.g r).setWidth 32)
    ∧ moves (.vSlideUp sl g d a r q) T (fun n => if S ≤ n then A (n - S) else 0)
    ∧ moves (.vSlideDn sl g d a r q) T (fun n => if n + S ≤ 63 then A (n + S) else 0)
    ∧ moves (.vMov sl g d a q) T A
    ∧ moves (.vLidx sl g d q) tI32 (fun n => BitVec.ofNat 32 n)
    ∧ moves (.vRetag sl g d a u q) u A
    ∧ VectorWord (.vPerm sl g d a b q) iss s [(b, fun t => decide (t = tI32))] .F d (x.q q) T (fun v t => t = []
        ∧ ∀ n, n < 64 → lane v n = A ((B n).toNat % 64))
    ∧ VectorWord (.vSel sl g d a b q) iss s [(b, fun t => decide (t = T))] .F d (BitVec.allOnes 64) T (fun v t => t = []
        ∧ ∀ n, n < 64 → lane v n = if (x.q q).getLsbD n then A n else B n)
    ∧ (convertElement T u = none → Stops (.vCvt sl g d a u q rnd) iss s (tagTrap (.vCvt sl g d a u q rnd) x a false))
    ∧ ∀ f, convertElement T u = some f → VectorGives (.vCvt sl g d a u q rnd) iss s .H d (x.q q) u (fun v _ =>
        (∀ p, p < min (positions T) (positions u) → (∀ n, n < 64 → elemWidth u * p < 32 * n + 32 → 32 * n < elemWidth u * (p + 1) →
            (x.q q).getLsbD n = true) →
          elementAt u v p = (f (laneMode iss rnd (p / perLane u) (p % perLane u)) (elementAt T (x.v a).data p)).bits
            % 2 ^ elemWidth u)
        ∧ ∀ p, positions T ≤ p → p < positions u → elementAt u v p = 0))
  ∧ (∀ src dst, (convertElement src dst).isSome = true ↔ (src, dst) ∈ [(tFp32, tBf16), (tFp32, tFp16), (tFp32, tI32), (tFp32, tI16),
      (tFp32, tUi16), (tBf16, tFp32), (tFp16, tFp32), (tI32, tFp32), (tI32, tI16), (tI32, tUi16), (tI32, tI8), (tI16, tI32),
      (tI16, tUi16), (tUi16, tI32), (tUi16, tI16), (tUi16, tPx12), (tI8, tI32), (tPx12, tUi16)])
  ∧ (∀ f md v, convertElement tFp32 tBf16 = some f → f md v = bf16.finish md [fp32.unpack v] (some (fp32.unpack v)))
  ∧ (∀ f md v, convertElement tFp16 tFp32 = some f → f md v = fp32.finish md [fp16.unpack v] (some (fp16.unpack v)))
  ∧ (∀ f md v, convertElement tFp32 tI16 = some f → f md v = (fp32.unpack v).toInt md (-32768) 32767 16)
  ∧ (∀ f md v, convertElement tI32 tFp32 = some f → f md v = fp32.round md (decide (signedOf 32 v < 0)) (signedOf 32 v).natAbs 0)
  ∧ (∀ f md v, convertElement tUi16 tPx12 = some f → v < 4096 → f md v = { bits := v })
  ∧ (∀ f md v, convertElement tUi16 tPx12 = some f → 4096 ≤ v → f md v = { bits := 4095, events := [0x23] })

/-- Local vector memory (R149 to R152). -/
def Obligations.VectorLocalMemory : Prop :=
  (∀ (s : State) (iss : Issue) (sl : VSlot) (g : BitVec 4) (t : BitVec 5) (b : BitVec 6) (q : BitVec 3) (u : BitVec 2) (o : BitVec 6),
    let x := iss.x
    let c := iss.core
    let X := x.g b + o.signExtend 64 * 256
    let M := x.q q
    let vt := (iss.standing.v t).tag
    let tag := if u = 0 then vt else if u = 1 then tFp32 else if u = 2 then tI32 else tUntyped
    let fits := M = BitVec.allOnes 64 ∨ vt = tag ∨ vt = tUntyped
    let quiet := x.region = none ∧ (s.mach.core c).region = none
    let free := fun (sp : Space) (p : Nat) (w take : Bool) => orderHold iss (localZones sp) w = false
      ∧ let cells := (laneElems M p).flatMap Elem.cells
        cells ≠ [] → interlocked x sp (span cells).1 (span cells).2 take = false
    let loads := fun (i : Instr) (k : LatClass) (sp : Space) (p : Nat) (test take : Bool) =>
      quiet → free sp p false take → Takes i iss s →
      let far := test = false ∧ M ≠ 0 ∧ isFar c sp p = true
      let cells := (laneElems M p).flatMap Elem.cells
      (¬far → nearFree iss (slotNum i) sp cells false → ∃ v : VData,
        (∀ n, n < 64 → M.getLsbD n = true →
          lane v n = BitVec.ofNat 32 (ofBytes ((List.range 4).map (fun j => localByte iss sp (p + 4 * n + j)))))
        ∧ let m' := (s.mach.beforeLocal c (nearRef x iss.stream (slotNum i) sp cells false)).modCore c (fun y =>
            pushResult y iss.stream (slotNum i) k (x.destV t) v M (some tag) (load := true) (late := localDelay iss (slotNum i) sp cells test))
          exec i s = answer s iss (if take then m'.setFull sp (laneGranules M p) false else m'))
      ∧ (far → exec i s = answer s iss (s.mach.modCore c (fun y =>
          let z := y.charge (localZones sp)
          let f : FarLoad := { id := y.flight.nextOp, space := sp, elems := laneElems M p,
                               overlay := overlayFor (pendingLocal x sp) cells, zones := z.2,
                               issue := y.flight.issue, stream := iss.stream }
          pushResult { z.1 with flight.nextOp := y.flight.nextOp + 1, flight.fars := y.flight.fars ++ [f] }
            iss.stream (slotNum i) k (x.destV t) 0 M (some tag) (load := true) (far := some y.flight.nextOp))))
    let stores := fun (i : Instr) (sp : Space) (p : Nat) (set : Bool) =>
      let cells := (laneBytes M (x.v t).data p).map (·.1)
      quiet → free sp p true true → (cells.any (fun a => isFar c sp a) = false → nearFree iss (slotNum i) sp cells true) →
      (s.mach.core c).cnt.st ≠ 63 → Takes i iss s →
      exec i s = answer s iss (s.mach.issueStore c
        { id := 0, issue := 0, stream := iss.stream, slot := slotNum i, origin := iss.origin, space := sp,
          bytes := laneBytes M (x.v t).data p, sets := if set then laneGranules M p else [] } [])
    let row := fun (i : Instr) (ok : Prop) => (ok → X.toNat % 256 ≠ 0 → Stops i iss s (slotTrap i 7 X))
      ∧ (ok → X.toNat % 256 = 0 → 0x80000 ≤ X.toNat → Stops i iss s (slotTrap i 5 X))
    let fmt := fun (i : Instr) => ¬fits → Stops i iss s (tagTrap i iss.standing t true)
    let local' := fun (i : Instr) (test take : Bool) => fmt i ∧ (fits → LocalChecks i iss s X 256 test false false)
      ∧ (fits → X.toNat % 256 = 0 → X.toNat < 2 ^ 32 → ∀ sp p, iss.pre.locate c X.toNat 256 = some (sp, p) →
        (test = true → sp.hasBits = true) →
        (test = true → quiet → free sp p false take → (∃ n, n < 64 ∧ M.getLsbD n = true ∧ iss.pre.isFull sp (p / 16 + n / 4) = false) →
          Stops i iss s (.hold .plain))
        ∧ ((test = true → ∀ n, n < 64 → M.getLsbD n = true → iss.pre.isFull sp (p / 16 + n / 4) = true) → loads i .K sp p test take))
    (fmt (.vLdL sl g t b q u o) ∧ row (.vLdL sl g t b q u o) fits
      ∧ (fits → X.toNat % 256 = 0 → X.toNat < 0x80000 → loads (.vLdL sl g t b q u o) .J (.lanes c) X.toNat false false))
    ∧ (row (.vStL sl g t b q o) True ∧ (X.toNat % 256 = 0 → X.toNat < 0x80000 → stores (.vStL sl g t b q o) (.lanes c) X.toNat false))
    ∧ local' (.vLdC sl g t b q u o) false false ∧ local' (.vLdCFe sl g t b q u o) true false
    ∧ local' (.vLdCTake sl g t b q u o) true true
    ∧ (LocalChecks (.vStC sl g t b q o) iss s X 256 false true false ∧ LocalChecks (.vStCSet sl g t b q o) iss s X 256 true true false)
    ∧ ∀ sp p, X.toNat % 256 = 0 → X.toNat < 2 ^ 32 → iss.pre.locate c X.toNat 256 = some (sp, p) → (∀ k, sp ≠ .const k) →
        stores (.vStC sl g t b q o) sp p false ∧ (sp.hasBits = true → stores (.vStCSet sl g t b q o) sp p true))
  ∧ ∀ (M : BitVec 64) (d : VData) (p a : Nat) (v : BitVec 8),
      ((a, v) ∈ laneBytes M d p ↔ ∃ n j, n < 64 ∧ M.getLsbD n = true ∧ j < 4 ∧ a = p + 4 * n + j ∧ v = (lane d n).extractLsb' (8 * j) 8)
      ∧ (a ∈ laneGranules M p ↔ ∃ n, n < 64 ∧ M.getLsbD n = true ∧ a = p / 16 + n / 4)

/-- Global vector memory (R154 to R156). -/
def Obligations.VectorGlobalMemory : Prop :=
  (∀ (s : State) (iss : Issue) (g : BitVec 4) (y : BitVec 2) (t k : BitVec 5) (b : BitVec 6) (q z : BitVec 3) (u w : BitVec 2)
      (o : BitVec 6),
    let x := iss.x
    let c := iss.core
    let M := x.q q
    let A := x.g b + o.signExtend 64 * 256
    let at' := fun (n : Nat) => x.g b + (lane (x.v k).data n).signExtend 64
    let vt := (iss.standing.v t).tag
    let fits := fun (tag : BitVec 5) => M = BitVec.allOnes 64 ∨ vt = tag ∨ vt = tUntyped
    let quiet := x.region = none ∧ (s.mach.core c).region = none
    let op := fun (es : List (Elem × Dword × Phys)) (tag : BitVec 5) =>
      ({ id := 0, issue := 0, stream := iss.stream, slot := 3, origin := iss.origin, va := (es.head?.map (fun e => e.2.1)).getD 0,
         dest := x.destV t, elems := es.map (·.1), tag := some tag,
         rq := y, loose := looseOf es,
         remote := (es.flatMap (fun e => e.1.cells)).any (remoteCell s.mach),
         device := es.any (fun e => pteKind e.2.2.leaf = 1) } : LoadOp)
    let loads := fun (i : Instr) (es : List (Elem × Dword × Phys)) (tag : BitVec 5) => quiet → (s.mach.core c).cnt.ld ≠ 63 →
      orderHold iss (x.zonesOf (vaRanges es)) false = false → Takes i iss s →
      exec i s = answer s iss ((fillFor c es s.mach).issueLoad c (op es tag) (vaRanges es))
    let stores := fun (i : Instr) (es : List (Elem × Dword × Phys)) (bytes : List (Nat × BitVec 8)) => quiet →
      (s.mach.core c).cnt.st ≠ 63 → orderHold iss (x.zonesOf (vaRanges es)) true = false →
      (bytes ≠ [] → interlocked x .glob (span (bytes.map (·.1))).1 (span (bytes.map (·.1))).2 true = false) → Takes i iss s →
      exec i s = answer s iss ((fillFor c es s.mach).issueStore c
        { id := 0, issue := 0, stream := iss.stream, slot := 3, origin := iss.origin, space := .glob, bytes := bytes, rq := y,
          va := (es.head?.map (fun e => e.2.1)).getD 0, remote := (bytes.map (·.1)).any (remoteCell s.mach), loose := looseOf es } (vaRanges es))
    let run := fun (ph : Phys) => (selected M).map (fun n =>
      (({ lane := n, addr := ph.cell + 4 * n, size := 4, signed := false } : Elem), A + BitVec.ofNat 64 (4 * n), ph))
    let each := fun (P : Nat → Phys) (size : Nat) (signed : Bool) => (selected M).map (fun n =>
      (({ lane := n, addr := (P n).cell, size := size, signed := signed } : Elem), at' n, P n))
    let sel := fun n => n < 64 ∧ M.getLsbD n = true
    let lanes := fun (i : Instr) (ok : Prop) (size : Nat) (store : Bool) => ok → ∀ n e, sel n →
      (∀ j, sel j → j < n → ∃ ph, iss.pre.checkGlobal c (at' j) size store y = .ok ph) →
      iss.pre.checkGlobal c (at' n) size store y = .error e →
      Stops i iss s (.trap { e with tval := BitVec.ofNat 64 (n + 2 ^ 32 * 3) })
    let lt := if u = 0 then vt else if u = 1 then tFp32 else if u = 2 then tI32 else tUntyped
    let gt := if z = 4 then vt else tI32
    let ld := Instr.vLdG g y t b q u o
    let st := Instr.vStG g y t b q o
    let ga := Instr.vGather g y t k b q z
    let sc := Instr.vScatter g y t k b q w
    let size := 2 ^ (z.toNat / 2)
    let wide := 2 ^ w.toNat
    let typed := (x.v k).tag = tI32
    let data := (x.v t).tag ≠ tUntyped ∧ (x.v t).tag ≠ tSx
    (¬fits lt → Stops ld iss s (tagTrap ld iss.standing t true))
    ∧ (fits lt → GlobalChecks ld iss s A 256 false y)
    ∧ (fits lt → ∀ ph, iss.pre.checkGlobal c A 256 false y = .ok ph → loads ld (run ph) lt)
    ∧ GlobalChecks st iss s A 256 true y
    ∧ (∀ ph, iss.pre.checkGlobal c A 256 true y = .ok ph → stores st (run ph) (laneBytes M (x.v t).data ph.cell))
    ∧ (¬typed → Stops ga iss s (tagTrap ga x k false) ∧ Stops sc iss s (tagTrap sc x k false))
    ∧ (typed → ¬fits gt → Stops ga iss s (tagTrap ga iss.standing t true))
    ∧ (typed → ¬data → Stops sc iss s (tagTrap sc x t false))
    ∧ lanes ga (typed ∧ fits gt) size false
    ∧ lanes sc (typed ∧ data) wide true
    ∧ (typed → fits gt → ∀ P, (∀ n, sel n → iss.pre.checkGlobal c (at' n) size false y = .ok (P n)) →
        loads ga (each P size (decide (z.toNat % 2 = 1))) gt)
    ∧ (typed → data → ∀ P, (∀ n, sel n → iss.pre.checkGlobal c (at' n) wide true y = .ok (P n)) →
        let bytes := (each P wide false).flatMap (fun e => e.1.cells.zip (toBytes wide (lane (x.v t).data e.1.lane).toNat))
        stores sc (each P wide false) bytes
        ∧ ∀ (m : Mem) (a : Nat), ((∀ n, sel n → ¬((P n).cell ≤ a ∧ a < (P n).cell + wide)) → Mem.read (m.writeAll bytes) a = Mem.read m a)
          ∧ ∀ n j, sel n → j < wide → a = (P n).cell + j → (∀ k, sel k → n < k → ¬((P k).cell ≤ a ∧ a < (P k).cell + wide)) →
              Mem.read (m.writeAll bytes) a = BitVec.ofNat 8 ((lane (x.v t).data n).toNat / 2 ^ (8 * j))))

/-- The MX slot (R171 to R175). -/
def Obligations.MatrixWords : Prop :=
  ∀ (s : State) (iss : Issue) (g b : BitVec 4) (t : BitVec 5) (m a n : BitVec 2) (w c : BitVec 1) (r : BitVec 6),
    let x := iss.x
    let k := iss.core
    let alone := copyBefore iss ≠ some false
    let tag := (x.tile m.toNat).tag
    let shape := shapeFor x 0 a.toNat w
    let low := fun (n : Nat) => (x.g r).toNat % 2 ^ n
    let setTag := fun (v : BitVec 5) (q : Mach) => q.modCore k (fun y => y.setTileTag m.toNat v)
    let array := fun (i : Instr) (kind : CmdKind) (order seg : Nat) (cp any : Bool) =>
      let bad := arrayCheck iss.pre k a.toNat shape order seg (low 16) cp
      (alone → any = false → tag ≠ 0x10 → Stops i iss s (tileTrap tag m.toNat))
      ∧ (alone → (any = true ∨ tag = 0x10) → ∀ e, bad = some e → Stops i iss s (e.stop 4))
      ∧ (alone → (any = true ∨ tag = 0x10) → bad = none → Commands i iss s kind (arrayIntervals k shape order seg (low 16)) [] [] 0
          (fun q => setTag 0x10 (exchange iss 0 w [a.toNat] q)))
    let drain := fun (i : Instr) (factor : Nat) =>
      let dst := getField 0 shape 12 + low 32
      let stride := getField 0 shape 11
      let rows := getField 0 shape 8 + 1
      let len := (getField 0 shape 9 + 1) * drainBytes t
      let typed := t = 1 ∨ t = 2 ∨ t = 3 ∨ t = 4
      let out := rowsOutside iss.pre k dst stride rows len
      (alone → ¬typed → Stops i iss s (.trap { cause := 2, tval := BitVec.ofNat 64 (t.toNat + 2 ^ 32 * 4) }))
      ∧ (alone → typed → stride % 16 ≠ 0 → Stops i iss s (ShapeFail.stop { reg := a.toNat, fld := 11 } 4))
      ∧ (alone → typed → stride % 16 = 0 → dst % 16 ≠ 0 → Stops i iss s (ShapeFail.stop { reg := a.toNat, fld := 12 } 4))
      ∧ (alone → typed → stride % 16 = 0 → dst % 16 = 0 → ∀ v, out = some v → Stops i iss s ((placeFail a.toNat 12 v).stop 4))
      ∧ (alone → typed → stride % 16 = 0 → dst % 16 = 0 → out = none →
          Commands i iss s (.drain m.toNat shape factor t (if n = 3 then x.ctl.frm else n).toNat dst x.ctl.seed)
            [intervalOf k dst (dst + (rows - 1) * stride + len - 1) true] [] [] 0
            (fun q => setTag 0x11 (exchange iss 0 w [a.toNat] q)))
    let word := Mem.load x.loc.const (low 16) 4
    let code3 := ∃ j, j < 16 ∧ word / 4 ^ j % 4 = 3
    let cprog := Instr.mxCprog g a w r
    let stat := Instr.mxMstat g m r
    let off := iss.pre.firstOutside k [0, 1] (low 32 : Nat) ((low 32 + 31 : Nat) : Int)
    (copyBefore iss = some false → ∀ i, i ∈ [.mxMma g m a w b r c, .mxMmaz g m a w b r c, .mxHrot16 g m a w r, .mxHrot64 g m a w r,
        .mxDrain g m a w t n r, .mxDrainH16 g m a w t n r, .mxDrainH64 g m a w t n r, .mxCprog g a w r, .mxMclr g m, .mxMtag g m t,
        .mxMstat g m r] → Takes i iss s → exec i s = answer s iss s.mach)
    ∧ array (.mxMma g m a w b r c) (.mma false m.toNat shape b.toNat (low 16) (decide (c = 1))) 0 b.toNat (decide (c = 1)) false
    ∧ array (.mxMmaz g m a w b r c) (.mma true m.toNat shape b.toNat (low 16) (decide (c = 1))) 0 b.toNat (decide (c = 1)) true
    ∧ array (.mxHrot16 g m a w r) (.hrot 16 m.toNat shape (low 16)) 16 0 false false
    ∧ array (.mxHrot64 g m a w r) (.hrot 64 m.toNat shape (low 16)) 64 0 false false
    ∧ drain (.mxDrain g m a w t n r) 0 ∧ drain (.mxDrainH16 g m a w t n r) 2 ∧ drain (.mxDrainH64 g m a w t n r) 3
    ∧ (alone → low 16 % 4 ≠ 0 → Stops cprog iss s (slotTrap cprog 7 (BitVec.ofNat 64 (low 16))))
    ∧ (alone → low 16 % 4 = 0 → code3 → Stops cprog iss s
        (.trap { cause := 5, tval := BitVec.ofNat 64 (word + 2 ^ 32 * 4 + 2 ^ 42) }))
    ∧ (alone → low 16 % 4 = 0 → ¬code3 → Takes cprog iss s → exec cprog s = answer s iss
        ((exchange iss 0 w [a.toNat] s.mach).modCore k (fun y =>
          let p := y.regs.shape 0 a.toNat
          y.setShape 0 a.toNat { p with active := putField 0 p.active 13 word })))
    ∧ (alone → Commands (.mxMclr g m) iss s (.mclr m.toNat) [] [] [] 0 (setTag 0x10))
    ∧ (alone → Gives (.mxMtag g m t) iss s (fun y => y.setTileTag m.toNat t))
    ∧ (alone → low 32 % 32 ≠ 0 → Stops stat iss s (slotTrap stat 7 (BitVec.ofNat 64 (low 32))))
    ∧ (alone → low 32 % 32 = 0 → off ≠ none → Stops stat iss s (slotTrap stat 5 (BitVec.ofNat 64 (low 32))))
    ∧ (alone → low 32 % 32 = 0 → off = none → Commands stat iss s (.mstat m.toNat (low 32) x.cnt.mx.toNat)
        [intervalOf k (low 32) (low 32 + 31) true] [] [] 0 id)

/-- mma, mmaz, hrot16, hrot64 in the engine (R171, R172). -/
def Obligations.ArrayCellsByKGroup : Prop :=
  ∀ (m : Mach) (c : Nat) (zero cp : Bool) (tile : Tile) (shape : BitVec 256) (seg k0 order : Nat),
    let M := getField 0 shape 8 + 1
    let N := getField 0 shape 9 + 1
    let K := getField 0 shape 6 + 1
    let size := groupSize (getField 0 shape 7)
    let old := fun (t : Tile) (i j : Nat) => Sparse.get 0 t.cells (128 * i + j)
    let steps := fun (code : Nat → Nat) (products : Nat → List (Operand × Operand × Nat)) (v : BitVec 32) =>
      (List.range (K / size)).foldl (fun v n => (cellStep (code n) v (products n)).1) v
    let group := fun (n : Nat) => (List.range size).map (fun e => n * size + e)
    let r := (runMma m c zero tile shape seg k0 cp).1
    let h := (runHrot m c order tile shape k0).1
    let code := fun n => if cp then getField 0 shape 13 / 4 ^ (n % 16) % 4 else 0
    (∀ i j, i < M → j < N → old r i j = steps code
        (fun n => (group n).map (fun t => (operandA m c shape i (k0 + t), operandB m c shape seg t j, t)))
        (if zero then 0 else old tile i j))
    ∧ (∀ i j, i < M → j < N → old h i j = steps (fun _ => 0)
        (fun n => ((group n).filter (fun t => t / order = j / order)).map
          (fun t => (operandA m c shape i (k0 + t), operandH m c shape order t j, t))) (old tile i j))
    ∧ (∀ key, ¬(key / 128 < M ∧ key % 128 < N) → Sparse.get 0 r.cells key = Sparse.get 0 tile.cells key
        ∧ Sparse.get 0 h.cells key = Sparse.get 0 tile.cells key)
    ∧ r.tag = tile.tag ∧ h.tag = tile.tag
    ∧ r.groups = (if zero then 0 else tile.groups) + BitVec.ofNat 64 (K / size)
    ∧ h.groups = tile.groups + BitVec.ofNat 64 (K / size)
    -- one cell over one k-group (R47 to R52)
    ∧ (∀ (code : Nat) (v : BitVec 32) (pairs : List (Operand × Operand × Nat)), pairs ≠ [] → code ≠ 2 →
      let own := fp32.unpack v.toNat
      let after := cellStep code v pairs
      let sg := fun (neg : Bool) (a : Nat) => if neg then -(a : Int) else (a : Int)
      let finite := ∀ p ∈ pairs, ∃ s x f t y g, p.1.num = .fin s x f ∧ p.2.1.num = .fin t y g
      (own.isNan = true ∨ (∃ p ∈ pairs, p.1.num.isNan = true ∨ p.2.1.num.isNan = true) → after.1 = 0x7FC00000)
      ∧ (code ≠ 1 → (∃ p ∈ pairs, ∃ n, (p.1.num.isZero = true ∧ p.2.1.num = .inf n) ∨ (p.2.1.num.isZero = true ∧ p.1.num = .inf n)) →
          after.1 = 0x7FC00000 ∧ 0x20 ∈ after.2)
      ∧ (∀ n, own = .inf n → finite → after.1 = BitVec.ofNat 32 (fp32.inf n))
      ∧ (∀ n a e, own = .fin n a e → finite → ∃ k : Int, k ≤ e
        ∧ (∀ p ∈ pairs, ∀ s x f t y g, p.1.num = .fin s x f → p.2.1.num = .fin t y g →
            if code = 1 then k ≤ f ∧ k ≤ g else k ≤ f + g)
        ∧ let term := fun (p : Operand × Operand × Nat) => match p.1.num, p.2.1.num with
            | .fin s x f, .fin t y g =>
              if code = 1 then (((sg s (x * 2 ^ (f - k).toNat) - sg t (y * 2 ^ (g - k).toNat)).natAbs : Nat) : Int)
              else sg (s != t) (x * y * 2 ^ (f + g - k).toNat)
            | _, _ => 0
          let below := fun (p : Operand × Operand × Nat) => match p.1.num, p.2.1.num with
            | .fin s x _, .fin t y _ => code != 1 && (s != t) && decide (x * y = 0)
            | _, _ => false
          let sum := sg n (a * 2 ^ (e - k).toNat) + (pairs.map term).sum
          let neg := if sum = 0 then n && decide (a = 0) && pairs.all below else decide (sum < 0)
          let r : Nat := (fp32.round .rn neg sum.natAbs k).bits
          let low : Nat := r % 2 ^ 31
          let flushed : Nat := if sum < 0 then 2 ^ 31 else 0
          let kept : Nat := if 0 < low ∧ low < 2 ^ 23 then flushed else r
          after.1 = BitVec.ofNat 32 kept))
    -- CSL (R53)
    ∧ (∀ (v : BitVec 32) (a b : Operand) (k : Nat) (s t : Bool) (x y : Nat) (f g : Int), a.num = .fin s x f → b.num = .fin t y g →
      let r : Nat := (fp32.round .rn (s != t) (x * y) (f + g)).bits
      let flushed : Nat := if 0 < r % 2 ^ 31 ∧ r % 2 ^ 31 < 2 ^ 23 then (if s != t then 2 ^ 31 else 0) else r
      let capped : Nat := if 0x7F7FFF00 < flushed % 2 ^ 31 then flushed / 2 ^ 31 * 2 ^ 31 + 0x7F7FFF00 else flushed
      let key := fun (w : Nat) => if w / 2 ^ 31 = 1 then -((w % 2 ^ 31 / 256 * 256 : Nat) : Int) else ((w % 2 ^ 31 / 256 * 256 : Nat) : Int)
      (cellStep 2 v [(a, b, k)]).1 = if (fp32.unpack v.toNat).isNan = true ∨ key v.toNat < key capped
        then BitVec.ofNat 32 (capped / 256 * 256 + k % 256) else v)
    ∧ (∀ v p q l, (cellStep 2 v (p :: q :: l)).1 = (cellStep 2 (cellStep 2 v [p]).1 (q :: l)).1)
    -- a drain (R56, R174)
    ∧ (∀ (factor : Nat) (tag : BitVec 5) (rnd : Nat) (seed : BitVec 32),
      let w := if tag = 1 ∨ tag = 4 then 4 else 2
      let mode := fun (n : Nat) => modeOf (BitVec.ofNat 2 rnd) 0 (hash40 seed c 0 n)
      (runDrain c tile shape factor tag rnd seed).1 = (List.range M).flatMap (fun i => (List.range N).map (fun j =>
        (i * getField 0 shape 11 + j * w, toBytes w (drainElement (old tile i j) factor tag (mode (128 * i + j))).bits))))
    ∧ ∀ (v : BitVec 32) (factor : Nat) (md : Mode),
      let own := fp32.unpack v.toNat
      (∀ n a e, own = .fin n a e →
        let int := roundToInt md a (e - factor)
        drainElement v factor 1 md = fp32.round md n a (e - factor) ∧ drainElement v factor 2 md = bf16.round md n a (e - factor)
        ∧ drainElement v factor 3 md = fp16.round md n a (e - factor)
        ∧ drainElement v factor 4 md = clampTo (-(2 ^ 31)) (2 ^ 31 - 1) (if n then -(int : Int) else (int : Int)) 32)
      ∧ (own.isNan = true → (drainElement v factor 1 md).bits = 0x7FC00000 ∧ (drainElement v factor 2 md).bits = 0x7FC0
        ∧ (drainElement v factor 3 md).bits = 0x7E00 ∧ drainElement v factor 4 md = { bits := 0, events := [0x20] })
      ∧ (∀ n, own = .inf n → (drainElement v factor 1 md).bits = fp32.inf n ∧ (drainElement v factor 2 md).bits = bf16.inf n
        ∧ (drainElement v factor 3 md).bits = fp16.inf n
        ∧ drainElement v factor 4 md = { bits := if n then 2 ^ 31 else 2 ^ 31 - 1, events := [0x23] })

/-- The CA, CB and PF slots (R176 to R196). -/
def Obligations.CopyAndPermuteWords : Prop :=
  ∀ (s : State) (iss : Issue) (sl : XSlot) (g : BitVec 4) (a d e : BitVec 2) (w f : BitVec 1) (h v : BitVec 6) (u x : BitVec 5)
      (p : BitVec 3),
    let c := iss.core
    let H := iss.x.g h
    let slot := match sl with | .ca => 5 | .cb => 6
    let en := match sl with | .ca => 1 | .cb => 2
    let src0 := viewOf (shapeFor iss.x en a.toNat w)
    let dst0 := viewOf (shapeFor iss.x en d.toNat w)
    let swap := exchange iss en w [a.toNat, d.toNat]
    let after := fun (kind : CopyKind) (q : Mach) => if kind = .shadow then (swap q).afterShadow c H else swap q
    let copy := fun (i : Instr) (kind : CopyKind) (mode rq : Nat) =>
      let bad := copyCheck iss.pre c kind mode src0 dst0 a.toNat d.toNat
      (∀ q, bad = some q → Stops i iss s (q.stop slot))
      ∧ (bad = none → ∀ q, resolveViews i H [src0, dst0] iss = .error q → Stops i iss s q)
      ∧ (bad = none → ∀ src dst, resolveViews i H [src0, dst0] iss = .ok [src, dst] →
        let ready := fewMet iss.pre c src false = true ∧ copyDestReady iss.pre c kind dst = true
        (kind = .shadow → (s.mach.core c).region = none → ∀ va, s.mach.shadowExcess c H dst = some va →
          Stops i iss s (.trap { cause := 5, taddr := canonicalVa va, tval := 0x100 }))
        ∧ (kind ≠ .shadow → ¬ready → Stops i iss s (.hold .plain))
        ∧ (kind = .shadow → s.mach.shadowExcess c H dst = none → (s.mach.core c).region = none → ¬ready → Stops i iss s (.hold .plain))
        ∧ ((kind = .shadow → s.mach.shadowExcess c H dst = none) → ready →
          Commands i iss s (.copy kind src dst H mode) (src.interval c false ++ copyWrites c kind dst) src.ranges
            (if kind = .shadow then [] else dst.ranges) (BitVec.ofNat 2 rq) (after kind)))
    let sread := Instr.xSread sl g a d w p h
    let block := iss.pre.grantedBlock c p.toNat (field src0.shape 192 32)
    let early := firstFail [failIf (decide (src0.ext1 ≠ 0)) a.toNat 2, failIf (decide (src0.few ≠ 0)) a.toNat 7, ownLimits dst0 d.toNat true none [],
      placeOf iss.pre c dst0 d.toNat [0, 1, 2]]
    let S := localView (shapeFor iss.x 3 a.toNat w)
    let D := localView (shapeFor iss.x 3 d.toNat w)
    let at' : Nat := (iss.x.g v).toNat % 2 ^ 32
    let few := fewMet iss.pre c S false = true ∧ fewMet iss.pre c D true = true
    let pf := fun (i : Instr) (bad : Option ShapeFail) (plane : Option (Nat × Nat × Bool)) (kind : CmdKind) =>
      let out := fun (l : Nat) => iss.pre.firstOutside c [0, 1, 2] (at' : Int) ((at' + l - 1 : Nat) : Int)
      (∀ q, bad = some q → Stops i iss s (q.stop 7))
      ∧ (bad = none → ∀ al l wr, plane = some (al, l, wr) →
        (at' % al ≠ 0 → Stops i iss s (slotTrap i 7 (BitVec.ofNat 64 at')))
        ∧ (at' % al = 0 → out l ≠ none → Stops i iss s (slotTrap i 5 (BitVec.ofNat 64 at'))))
      ∧ (bad = none → (∀ al l wr, plane = some (al, l, wr) → at' % al = 0 ∧ out l = none) →
        (¬few → Stops i iss s (.hold .plain))
        ∧ (few → Commands i iss s kind (S.interval c false ++ D.interval c true
            ++ (plane.map (fun q => intervalOf c at' (at' + q.2.1 - 1) q.2.2)).toList) [] [] 0 (exchange iss 3 w [a.toNat, d.toNat])))
    let fillBad := firstFail [pfLimits D d.toNat true [], pfPlace iss.pre c D d.toNat]
    let fill := Instr.pfFill g d w v
    copy (.xCp sl g a d w e h f) .plain e.toNat e.toNat
    ∧ copy (.xCpBs sl g a d w e h f) .bstore e.toNat e.toNat
    ∧ copy (.xCpSh sl g a d w e h) .shadow e.toNat e.toNat
    ∧ copy (.xCpBcast sl g a d w e h f) .bcast e.toNat e.toNat
    ∧ copy (.xCpDz sl g a d w u h f) .rice u.toNat 2
    ∧ (∀ q, early = some q → Stops sread iss s (q.stop slot))
    ∧ (early = none → block = none → Stops sread iss s (.trap { cause := 5, tval := BitVec.ofNat 64 (field src0.shape 192 32) }))
    ∧ (early = none → ∀ b, block = some b →
      (dst0.count * dst0.size ≠ (src0.ext0 + 1) * b → Stops sread iss s (ShapeFail.stop { reg := d.toNat, fld := 1 } slot))
      ∧ (dst0.count * dst0.size = (src0.ext0 + 1) * b → ∀ dst, resolveViews sread H [dst0] iss = .ok [dst] →
        fewMet iss.pre c dst true = true →
        Commands sread iss s (.sread src0 dst H p.toNat b) (dst.interval c true) [] dst.ranges 0 swap))
    ∧ Commands (.xPub sl g h) iss s (.pub H) [] [] (s.mach.publishedRanges c H) 0 id
    ∧ Commands (.xCancel sl g h) iss s (.cancel H) [] [] [] 0 id
    ∧ pf (.pfTrn8 g a d w) (transposeCheck iss.pre c 1 S D a.toNat d.toNat) none (.transpose S D)
    ∧ pf (.pfTrn16 g a d w) (transposeCheck iss.pre c 2 S D a.toNat d.toNat) none (.transpose S D)
    ∧ pf (.pfTrn32 g a d w) (transposeCheck iss.pre c 4 S D a.toNat d.toNat) none (.transpose S D)
    ∧ pf (.pfQnt g a d w v x) (quantCheck iss.pre c x.toNat S D a.toNat d.toNat false)
        (some (4, 4 * ((S.ext1 + 1) * ((S.ext0 + 1) / 16)), true)) (.quantise S D at' x.toNat iss.x.ctl.seed iss.x.ctl.frm)
    ∧ pf (.pfDqnt g a d w v x) (quantCheck iss.pre c x.toNat D S d.toNat a.toNat true)
        (some (4, 4 * ((D.ext1 + 1) * ((D.ext0 + 1) / 16)), false)) (.dequantise S D at' x.toNat iss.x.ctl.seed iss.x.ctl.frm)
    ∧ pf (.pfUpx12 g a d w) (pixelCheck iss.pre c S D a.toNat d.toNat false) none (.unpack S D)
    ∧ pf (.pfPkx12 g a d w) (pixelCheck iss.pre c D S d.toNat a.toNat true) none (.pack S D)
    ∧ pf (.pfShuf g a d w v) (shuffleCheck iss.pre c S D a.toNat d.toNat) (some (2, 2 * D.count, false)) (.shuffle S D at')
    ∧ (∀ q, fillBad = some q → Stops fill iss s (q.stop 7))
    ∧ (fillBad = none → fewMet iss.pre c D true = false → Stops fill iss s (.hold .plain))
    ∧ (fillBad = none → fewMet iss.pre c D true = true →
        Commands fill iss s (.fill D (iss.x.g v)) (D.interval c true) [] [] 0 (exchange iss 3 w [d.toNat]))

/-- The work of the copy and PF engines on local views (R177, R190 to R196). -/
def Obligations.EngineBytesWritten : Prop :=
  ∀ (m : Mach) (env : EngineEnv) (src dst : View) (value : Dword) (table : Nat),
    env.mode = .plain → env.bad = [] → env.only = [] → env.skip = [] →
    let out := fun (t : Nat) (bytes : List (BitVec 8)) =>
      bytes.mapIdx (fun i v => (spaceAt env.c (dst.addr t).toNat, (dst.addr t).toNat % 2 ^ 28 + i, v))
    let elem := fun (t : Nat) => (List.range src.size).map (fun i => m.localByte env.c ((src.addr t).toNat + i))
    let number := fun (t : Nat) => localElem m env.c src t
    let writes := fun (k : Work) (f : Nat → List (BitVec 8)) =>
      k.cells.reverse = (List.range dst.count).flatMap (fun t => out t (f t)) ∧ k.fail = none ∧ k.read = [] ∧ k.tile = none
    let cols := dst.ext0 + 1
    let idx := fun (t : Nat) => Mem.load (m.bytesOf (spaceAt env.c (table + 2 * t))) ((table + 2 * t) % 2 ^ 28) 2
    let packed := fun (t : Nat) =>
      let first := t / cols * (src.ext0 + 1) + 3 * (t % cols / 2)
      number first + 256 * (number (first + 1) + 256 * number (first + 2))
    -- a copy between any two views, whose global bytes translate by S and by D
    let copies := ∀ S D : Nat → Nat, src.count = dst.count → src.size = dst.size →
      (src.isGlobal = true → ∀ t b, t < src.count → b < src.size → ∃ e k,
        m.engineCell env.c env.rq false ((src.addr t).toNat + b) = .ok (S ((src.addr t).toNat + b), e, k) ∧ pteKind e ≠ 1) →
      (dst.isGlobal = true → ∀ t b, t < dst.count → b < dst.size → ∃ e k,
        m.engineCell env.c env.rq true ((dst.addr t).toNat + b) = .ok (D ((dst.addr t).toNat + b), e, k) ∧ pteKind e = 0) →
      let from_ := fun (t b : Nat) => if src.isGlobal then overlayByte env.above env.mem (S ((src.addr t).toNat + b))
        else m.localByte env.c ((src.addr t).toNat + b)
      let to_ := fun (t b : Nat) => if dst.isGlobal then (Space.glob, D ((dst.addr t).toNat + b))
        else (spaceAt env.c (dst.addr t).toNat, (dst.addr t).toNat % 2 ^ 28 + b)
      let r := runCopy m env src dst
      r.cells.reverse = (List.range dst.count).flatMap (fun t => (List.range dst.size).map (fun b =>
        ((to_ t b).1, (to_ t b).2, from_ t b)))
      ∧ r.fail = none ∧ r.events = [] ∧ r.hit = false
    let plain := src.isGlobal = false ∧ dst.isGlobal = false
    let byteAt := fun (a : Int) (i : Nat) (v : BitVec 8) => (spaceAt env.c a.toNat, a.toNat % 2 ^ 28 + i, v)
    let pack := runPack m env src dst
    copies
    ∧ (plain →
      writes (runFill m env dst value) (fun _ => toBytes dst.size value.toNat)
      ∧ writes (runTranspose m env src dst) (fun t => elem (t % cols * (src.ext0 + 1) + t / cols))
      ∧ writes (runUnpack m env src dst) (fun t => toBytes 2 (packed t / 2 ^ (12 * (t % cols % 2)) % 4096))
      ∧ writes (runShuffle m env src dst table) (fun t =>
          if idx t < src.count then toBytes dst.size (number (idx t)) else List.replicate dst.size 0)
      ∧ (runShuffle m env src dst table).events.length = ((List.range dst.count).filter (fun t => src.count ≤ idx t)).length
      ∧ pack.cells.reverse = (List.range (src.count / 2)).flatMap (fun n =>
          let first := 2 * n / (src.ext0 + 1) * cols + 3 * (2 * n % (src.ext0 + 1) / 2)
          let word := min 4095 (number (2 * n)) + 4096 * min 4095 (number (2 * n + 1))
          [byteAt (dst.addr first) 0 (BitVec.ofNat 8 word), byteAt (dst.addr (first + 1)) 0 (BitVec.ofNat 8 (word / 256)),
           byteAt (dst.addr (first + 2)) 0 (BitVec.ofNat 8 (word / 65536))])
      ∧ (pack.events.flatMap (·.1)).length = ((List.range (2 * (src.count / 2))).filter (fun t => 4095 < number t)).length
      ∧ pack.fail = none
      -- qnt and dqnt, by the width code of aux (R192, R193)
      ∧ (∀ (aux : Nat) (seed : BitVec 32) (frm : BitVec 2), aux % 4 < 3 →
        let bb := if aux % 4 = 0 then 16 else if aux % 4 = 1 then 10 else 6
        let mw := if aux % 4 = 0 then 7 else if aux % 4 = 1 then 4 else 2
        let f := if aux / 16 % 2 = 1 then bf16 else fp32
        let mode := fun (n : Nat) => modeOf (BitVec.ofNat 2 (aux / 4 % 4)) frm (hash40 seed env.c 0 n)
        let q := runQuantise m env src dst table aux seed frm
        let nb := (src.ext0 + 1) / 16
        let block := fun (n : Nat) => sxQuantise ((List.range 16).map (fun e =>
          f.unpack (number (n / nb * (src.ext0 + 1) + 16 * (n % nb) + e)))) (aux % 4) (fun e => mode (16 * n + e))
        q.cells.reverse = (List.range ((src.ext1 + 1) * nb)).flatMap (fun n =>
          (List.range bb).map (fun i => byteAt (dst.addr (n / nb * cols + n % nb * bb)) i (BitVec.ofNat 8 ((block n).2.1 / 2 ^ (8 * i))))
          ++ (List.range 4).map (fun i => byteAt ((table + 4 * n : Nat) : Int) i (BitVec.ofNat 8 ((block n).1 / 2 ^ (8 * i)))))
        ∧ q.fail = none
        ∧ writes (runDequantise m env src dst table aux seed frm) (fun t =>
          let n := t / cols * (cols / 16) + t % cols / 16
          let e := t % cols % 16
          let h := Mem.load (m.bytesOf (spaceAt env.c (table + 4 * n))) ((table + 4 * n) % 2 ^ 28) 4
          let raw := (List.range bb).foldr (fun i acc => number (t / cols * (src.ext0 + 1) + n % (cols / 16) * bb + i) + 256 * acc) 0
            / 2 ^ (e * (1 + mw)) % 2 ^ (1 + mw)
          let p := h / 2 ^ (12 + e / 2) % 2
          if h % 256 = 255 ∨ h / 2 ^ 20 % 4 ≠ aux % 4 then toBytes dst.size (if aux / 16 % 2 = 1 then 0x7FC0 else 0x7FC00000)
          else toBytes dst.size (f.round (if aux / 16 % 2 = 1 then mode (16 * n + e) else .rn) (decide (raw / 2 ^ mw = 1))
            (raw % 2 ^ mw * (16 + h / 256 % 16)) (((h % 256 : Nat) : Int) - 131 - (p : Int))).bits))
      -- cp.dz (R187)
      ∧ (∀ n : Nat, src.count = n → src.size = 1 → ∀ mode : Nat,
        let bytes := (List.range n).map (fun t => m.localByte env.c (src.addr t).toNat)
        let d := riceDecode (riceParams src mode) bytes dst.count
        let r := runRice m env src dst mode
        r.cells.reverse = (List.range dst.count).flatMap (fun t => out t (toBytes 2 (unsignedOf 16 (d.1.getD t 0)))) ∧ r.fail = none
        ∧ (d.2.1 = none → r.events = []) ∧ (∀ k, d.2.1 = some k → r.events = [([0x40], k)] ∧ ∀ t, k ≤ t → d.1.getD t 0 = 0)))
    ∧ (∀ (v : View) (r e : Nat), e ≤ v.ext0 → v.addr (r * (v.ext0 + 1) + e) = (v.base : Int) + (r : Int) * v.str1 + (e : Int) * v.str0)
    -- a block of R46, on a grid K below every element and every scale
    ∧ (∀ (x : List Machine.Num) (code : Nat) (mode : Nat → Mode), code < 3 → x.length = 16 →
      let q := sxQuantise x code mode
      let mw := if code = 0 then 7 else if code = 1 then 4 else 2
      let qmax := 2 ^ mw - 1
      ((∃ v ∈ x, v.isNan = true) → q.1 = 255 + code * 2 ^ 20 ∧ q.2.1 = 0)
      ∧ ((∀ v ∈ x, v.isZero = true) → q.1 = code * 2 ^ 20 ∧ q.2.1 = 0)
      ∧ (∀ (sgn : Nat → Bool) (mag : Nat → Nat) (ex : Nat → Int) (K : Int), (∀ e, e < 16 → x[e]? = some (.fin (sgn e) (mag e) (ex e)) ∧ K ≤ ex e) →
        K ≤ -132 → (∃ e, e < 16 ∧ mag e ≠ 0) →
        let A := fun (e : Nat) => mag e * 2 ^ (ex e - K).toNat
        let scale := fun (E F : Nat) => (16 + F) * 2 ^ ((E : Int) - 131 - K).toNat
        let fits := fun (E F : Nat) => ∀ e, e < 16 → A e ≤ scale E F * qmax
        let E := q.1 % 256
        let F := q.1 / 256 % 16
        let pair := fun (j : Nat) => q.1 / 2 ^ (12 + j) % 2
        q.1 / 2 ^ 20 = code ∧ E ≤ 254 ∧ (fits E F ∨ (E = 254 ∧ F = 15))
        ∧ (∀ E' F', F' < 16 → E' < E ∨ (E' = E ∧ F' < F) → ¬fits E' F')
        ∧ (∀ j, j < 8 → (pair j = 1 ↔ 2 * A (2 * j) ≤ qmax * scale E F ∧ 2 * A (2 * j + 1) ≤ qmax * scale E F))
        ∧ ∀ e, e < 16 →
          let M := min qmax (roundQuotient (mode e) (A e * 2 ^ pair (e / 2)) (scale E F))
          q.2.1 / 2 ^ (e * (1 + mw)) % 2 ^ (1 + mw) = M + (if M ≠ 0 ∧ sgn e = true then 2 ^ mw else 0)))
    -- the coded data sets of log 9
    ∧ ∀ (p : RiceParams) (vs : List Nat) (rest : List Bool), 1 ≤ p.n → 1 ≤ p.idBits → vs.length = p.J →
      let bitsOf := fun (n v : Nat) => (List.range n).reverse.map (fun i => v.testBit i)
      ((∀ v ∈ vs, v < 2 ^ p.n) →
        readBlock p false (List.replicate p.idBits true ++ vs.flatMap (bitsOf p.n) ++ rest) = some { values := vs, rest := some rest })
      ∧ (∀ k, k < p.n → k + 1 < 2 ^ p.idBits - 1 →
        readBlock p false (bitsOf p.idBits (k + 1) ++ vs.flatMap (fun v => List.replicate (v / 2 ^ k) false ++ [true])
          ++ vs.flatMap (fun v => bitsOf k (v % 2 ^ k)) ++ rest) = some { values := vs, rest := some rest })
      ∧ (∀ a b : Int, p.range.1 ≤ a → a ≤ p.range.2 → p.range.1 ≤ b → b ≤ p.range.2 →
        let theta := min (a - p.range.1) (p.range.2 - a)
        let mapped := if 0 ≤ b - a ∧ b - a ≤ theta then 2 * (b - a) else if -theta ≤ b - a ∧ b - a < 0 then 2 * (a - b) - 1
          else theta + (b - a).natAbs
        p.unmap a mapped.toNat = b)

/-- The emit extension (R208 to R221). -/
def Obligations.EmitInstructions : Prop :=
  (∀ (s : State) (k : BitVec 3) (q : BitVec 1) (t : BitVec 12) (a b c d : BitVec 5),
    let n := s.hart
    let h := s.mach.hart n
    let m := s.mach
    let X := h.xAt a
    let retires := fun (i : Instr) (m' : Mach) (h' : Hart) =>
      exec i s = .next { s with mach := m'.modHart n (fun _ =>
        { h' with pc := h.pc + 4, instret := h'.instret + 1, status := .ready, waits := none }) }
    let raises := fun (i : Instr) (e : RvExc) => exec i s = .next { s with mach := ({ m with fresh := m.fresh + 1 }).rvTrap n e }
    let stays := fun (i : Instr) (st : HartStatus) (w : Nat × Nat × Nat) =>
      exec i s = .next { s with mach := m.modHart n (fun y => { y with status := st, waits := some w }) }
    let word := fun (g : BitVec 256) (j : Nat) => g.extractLsb' (32 * j) 32
    let C := targetCore n X
    let pushed := fun (z : Nat) => m.modCore C (fun x => { x with
      front := x.front.push z { bundle := h.stage, prov := provenance n h } })
    let emitted := { h with eseq := h.eseq + 1, lastProv := provenance n h }
    let A := X + t.signExtend 64
    let desc := h.xAt b
    let emits := fun (i : Instr) (z : Nat) => (∀ e, emitCheck h X z = some e → raises i e)
      ∧ (emitCheck h X z = none → 64 ≤ m.occupancy C z → stays i .waitRoom (C, z, 63))
      ∧ (emitCheck h X z = none → m.occupancy C z < 64 → retires i (pushed z) emitted)
    let repeats := fun (i : Instr) (z : Nat) => (patchOf desc = none → raises i { cause := 29, tval := desc })
      ∧ ∀ j lsb w copies, patchOf desc = some (j, lsb, w, copies) →
        let p := 32 * j + lsb
        let one : Hart := { emitted with stage := setField h.stage p w (field h.stage p w + (h.xAt c).toNat), eprog := h.eprog + 1 }
        (copies ≤ h.eprog.toNat → retires i m { h with eprog := 0 })
        ∧ (h.eprog.toNat < copies → (∀ e, emitCheck h X z = some e → raises i e)
          ∧ (emitCheck h X z = none → 64 ≤ m.occupancy C z → stays i .waitRoom (C, z, 63))
          ∧ (emitCheck h X z = none → m.occupancy C z < 64 → copies ≤ (h.eprog + 1).toNat → retires i (pushed z) { one with eprog := 0 })
          ∧ (emitCheck h X z = none → m.occupancy C z < 64 → (h.eprog + 1).toNat < copies →
            exec i s = .next { s with mach := (pushed z).modHart n (fun _ => { one with status := .ready, waits := none }) }))
    let B := queueBit X q.toNat
    let limit := min 64 (h.xAt b).toNat
    let target := X.toNat % 4 + 4 * q.toNat
    let all : List Instr := [.eClr k, .eClrAll, .eSet k a, .eTpl t a, .ePatch b a, .eProv a, .eEmitP a, .eEmitS a, .eEmitA a,
      .eEmitrP c b a, .eEmitrS c b a, .eQst q a d, .eWait q b a, .eBind q a]
    (h.user = false → ∀ i ∈ all, ∃ v, raises i { cause := 2, tval := v })
    ∧ (h.user = true →
      (∃ g : BitVec 256, (∀ j, j < 8 → word g j = if j = k.toNat then 0 else word h.stage j) ∧ retires (.eClr k) m { h with stage := g })
      ∧ retires .eClrAll m { h with stage := 0 }
      ∧ (∃ g : BitVec 256, (∀ j, j < 8 → word g j = if j = k.toNat then X.setWidth 32 else word h.stage j)
        ∧ retires (.eSet k a) m { h with stage := g })
      ∧ retires (.eProv a) m { h with eprov := X }
      ∧ (A.toNat % 32 ≠ 0 → raises (.eTpl t a) { cause := 4, tval := A })
      ∧ (A.toNat % 32 = 0 → ∀ e, rvCell m n h A .load = .error e → raises (.eTpl t a) e)
      ∧ (A.toNat % 32 = 0 → ∀ p, rvCell m n h A .load = .ok p →
        let m1 := m.beforeSlot n p 32
        retires (.eTpl t a) m1 { h with stage := BitVec.ofNat 256 (rvLoadAt m1 n h p 32) })
      ∧ (patchOf desc = none → raises (.ePatch b a) { cause := 29, tval := desc })
      ∧ (∀ j lsb w copies, patchOf desc = some (j, lsb, w, copies) → ∃ g : BitVec 256,
        (∀ p, p < 256 → g.getLsbD p = if 32 * j + lsb ≤ p ∧ p < 32 * j + lsb + w then X.getLsbD (p - (32 * j + lsb)) else h.stage.getLsbD p)
        ∧ retires (.ePatch b a) m { h with stage := g })
      ∧ emits (.eEmitP a) 0 ∧ emits (.eEmitS a) 1 ∧ repeats (.eEmitrP c b a) 0 ∧ repeats (.eEmitrS c b a) 1
      ∧ (X.toNat % 32 ≠ 0 → raises (.eEmitA a) { cause := 6, tval := X })
      ∧ (X.toNat % 32 = 0 → ∀ e, rvCell m n h X .emit = .error e → raises (.eEmitA a) e)
      ∧ (X.toNat % 32 = 0 → ∀ p, rvCell m n h X .emit = .ok p → retires (.eEmitA a) m
        (h.addStore ((toBytes 32 h.stage.toNat).mapIdx (fun i b => (p + i, b))) false true))
      ∧ retires (.eQst q a d) m (h.setX d (BitVec.ofNat 64 (m.occupancy C q.toNat + 256 * (h.mbind.getLsbD B).toNat
          + 512 * (boundElsewhere m n B).toNat + 1024 * (!(m.takesPart (m.core C))).toNat + 2048 * (m.core C).front.paused.toNat)))
      ∧ (h.mbind.getLsbD B = false → h.lapsed.getLsbD B = false →
        raises (.eWait q b a) { cause := 26, tval := BitVec.ofNat 64 B, target := target })
      ∧ (h.mbind.getLsbD B = true ∨ h.lapsed.getLsbD B = true →
        (m.occupancy C q.toNat ≤ limit → retires (.eWait q b a) m h)
        ∧ (limit < m.occupancy C q.toNat → stays (.eWait q b a) .waitOccupancy (C, q.toNat, limit)))
      ∧ (h.mbind.getLsbD B = true → retires (.eBind q a) m h)
      ∧ (h.mbind.getLsbD B = false → bindRefused m n h X q.toNat = true →
        raises (.eBind q a) { cause := 27, tval := BitVec.ofNat 64 B, target := target })
      ∧ (h.mbind.getLsbD B = false → bindRefused m n h X q.toNat = false → retires (.eBind q a)
        (if q = 1 then m.modCore C (fun x => { x with front := { x.front with bound := true } }) else m)
        { h with mbind := setBit h.mbind B true, lapsed := setBit h.lapsed B false })))
  ∧ ∀ (h : Hart) (v : Dword) (q : Nat),
      let e := emitCheck h v q
      let target := v.toNat % 4 + 4 * q
      (h.mbind.getLsbD (queueBit v q) = false → e = some { cause := 26, tval := BitVec.ofNat 64 (queueBit v q), target := target })
      ∧ (h.mbind.getLsbD (queueBit v q) = true →
        (∀ w, illegalWord h.stage = some w → e = some { cause := 24, tval := w, target := target })
        ∧ (illegalWord h.stage = none → q ≠ 1 → e = none)
        ∧ (illegalWord h.stage = none → q = 1 →
          e = (outsideWindow h.stage).map (fun w => { cause := 25, tval := w, target := target })))

/-- The base set (R202 to R207) and the calls (R401). -/
def Obligations.ComposerInstructions : Prop :=
  (∀ (s : State) (short : Bool) (rd a b : BitVec 5) (i : Dword) (o : RvAlu) (w : RvAluW) (u : RvUnary) (c : RvCond) (z : BitVec 2)
      (sg dbl rl : Bool) (f g : BitVec 4) (r : BitVec 12) (am : RvAmo) (word : BitVec 32),
    let n := s.hart
    let h := s.mach.hart n
    let m := s.mach
    let next := h.pc + (if short then 2 else 4)
    let x := h.xAt
    let rv := fun (op : Rv) => exec (.rv64imacInstruction op short) s
    let doneIn := fun (m' : Mach) (k : Hart) (pc : Dword) =>
      (.next { s with mach := m'.modHart n (fun _ => { k with pc := pc, instret := k.instret + 1, status := .ready, waits := none }) }
        : Host.Outcome State Fault Refusal)
    let done := doneIn m
    let raised := fun (e : RvExc) =>
      (.next { s with mach := ({ m with fresh := m.fresh + 1 }).rvTrap n e } : Host.Outcome State Fault Refusal)
    let stays := fun (st : HartStatus) =>
      (.next { s with mach := m.modHart n (fun y => { y with status := st, waits := none }) } : Host.Outcome State Fault Refusal)
    let illegal := fun (op : Rv) => ∃ v, rv op = raised { cause := 2, tval := v }
    let size := 2 ^ z.toNat
    let A := x a + i
    -- the A set: the address is that of a alone, W is the width
    let W := if dbl then 8 else 4
    let B := (x b).toNat % 2 ^ (8 * W)
    rv (.op o rd a b) = done (h.setX rd (rvAlu o (x a) (x b))) next
    ∧ rv (.opImm o rd a i) = done (h.setX rd (rvAlu o (x a) i)) next
    ∧ rv (.opW w rd a b) = done (h.setX rd (rvAluW w (x a) (x b))) next
    ∧ rv (.opImmW w rd a i) = done (h.setX rd (rvAluW w (x a) i)) next
    ∧ rv (.unary u rd a) = done (h.setX rd (rvUnary u (x a))) next
    ∧ rv (.sllIUw rd a i) = done (h.setX rd (((x a).setWidth 32).setWidth 64 <<< (i.toNat % 64))) next
    ∧ rv (.lui rd i) = done (h.setX rd i) next
    ∧ rv (.auipc rd i) = done (h.setX rd (h.pc + i)) next
    ∧ rv (.jal rd i) = done (h.setX rd next) (h.pc + i)
    ∧ (∃ t : Dword, t.getLsbD 0 = false ∧ (∀ j, 1 ≤ j → t.getLsbD j = A.getLsbD j) ∧ rv (.jalr rd a i) = done (h.setX rd next) t)
    ∧ (rvHolds c (x a) (x b) = true → rv (.branch c a b i) = done h (h.pc + i))
    ∧ (rvHolds c (x a) (x b) = false → rv (.branch c a b i) = done h next)
    ∧ (A.toNat % size ≠ 0 → rv (.load z sg rd a i) = raised { cause := 4, tval := A } ∧ rv (.store z a b i) = raised { cause := 6, tval := A })
    ∧ (A.toNat % size = 0 → (∀ e, rvCell m n h A .load = .error e → rv (.load z sg rd a i) = raised e)
      ∧ (∀ e, rvCell m n h A .store = .error e → rv (.store z a b i) = raised e)
      ∧ (∀ p, rvCell m n h A .load = .ok p → let m1 := m.beforeSlot n p size
        rv (.load z sg rd a i) = doneIn m1 (h.setX rd (extendTo64 sg (8 * size) (rvLoadAt m1 n h p size))) next)
      ∧ (∀ p, rvCell m n h A .store = .ok p →
        rv (.store z a b i) = done (h.addStore ((toBytes size (x b).toNat).mapIdx (fun i b => (p + i, b))) false false) next))
    ∧ ((x a).toNat % W ≠ 0 → rv (.lr dbl rl rd a) = raised { cause := 4, tval := x a }
      ∧ rv (.sc dbl rl rd a b) = raised { cause := 6, tval := x a } ∧ rv (.amo am dbl rl rd a b) = raised { cause := 6, tval := x a })
    ∧ ((x a).toNat % W = 0 → (∀ e, rvCell m n h (x a) .load = .error e → rv (.lr dbl rl rd a) = raised e)
      ∧ (∀ e, rvCell m n h (x a) .store = .error e → rv (.sc dbl rl rd a b) = raised e ∧ rv (.amo am dbl rl rd a b) = raised e)
      ∧ (∀ p, rvCell m n h (x a) .load = .ok p →
        let m1 := (m.performChain n rl (cellsAt p W)).beforeSlot n p W
        let k := m1.hart n
        rv (.lr dbl rl rd a) = doneIn m1 { k.setX rd (extendTo64 true (8 * W) (rvLoadAt m1 n k p W)) with resv := some (p, W) } next)
      ∧ ∀ p, rvCell m n h (x a) .store = .ok p →
        let cells := cellsAt p W
        let bytes := fun (v : Nat) => (toBytes W v).mapIdx (fun i b => (p + i, b))
        let m1 := m.performChain n rl cells
        let m2 := m1.slotWrite n (m1.hart n).nextOp (bytes (x b).toNat)
        let m3 := m1.forceSeen (dieOfSlot n) cells
        let old := rvLoadAt m3 n (m3.hart n) p W
        let new := rvAmoValue am (8 * W) old B
        let m4 := m3.slotWrite n (m3.hart n).nextOp (bytes new)
        (h.resv ≠ some (p, W) ∨ Config.scFails m.fresh = true →
          rv (.sc dbl rl rd a b) = doneIn { m with fresh := m.fresh + 1 } { h.setX rd 1 with resv := none } next)
        ∧ (h.resv = some (p, W) → Config.scFails m.fresh = false →
          rv (.sc dbl rl rd a b) = doneIn { m2 with fresh := m2.fresh + 1 }
            { ((m2.hart n).addStore (bytes (x b).toNat) true false).setX rd 0 with resv := none } next)
        ∧ rv (.amo am dbl rl rd a b) = doneIn m4
            (((m4.hart n).addStore (bytes new) true false).setX rd (extendTo64 true (8 * W) old)) next)
    ∧ (f.getLsbD 0 = true → h.fenced m.vclk = true → rv (.fence f g) = done { h with stores := [] } next)
    ∧ (f.getLsbD 0 = true → h.fenced m.vclk = false → rv (.fence f g) = stays .waitMemory)
    ∧ (f.getLsbD 0 = false → rv (.fence f g) = done h next)
    ∧ (let m1 := m.performHartWhere n (fun _ => true)
       rv .fenceI = doneIn m1 (m1.hart n) next)
    ∧ (0xCC0 ≤ r.toNat → r.toNat ≤ 0xCC3 →
      (∀ v, csrRead m n h r.toNat = some v → rv (.csr 2 false rd 0 r) = done (h.setX rd v) next) ∧ illegal (.csr 1 false rd a r))
    ∧ (h.user = true → 0x100 ≤ r.toNat % 1024 → illegal (.csr 2 false rd 0 r))
    ∧ (h.user = true → illegal .mret ∧ illegal .wfi)
    ∧ illegal (.illegal word)
    ∧ (h.user = false → rv .mret = done { h with mie := h.mpie, mpie := true, user := !h.mpp, mpp := false, pc := h.mepc } h.mepc)
    ∧ (h.user = false → rv .wfi = if h.msip = true ∧ h.msie = true then done h next else stays .wfi)
    ∧ (∃ v, rv .ebreak = raised { cause := 3, tval := v })
    ∧ (h.user = false → rv .ecall = raised { cause := 11 })
    ∧ (h.user = true → x 17 = 0 → rv .ecall = exec .ecallEnd s))
  ∧ (∀ x y : Dword,
    let X := x.setWidth 32
    let Y := y.setWidth 32
    let word := fun (o : RvAluW) (p : BitVec 32 → Prop) => ∃ r : BitVec 32, rvAluW o x y = r.signExtend 64 ∧ p r
    rvAlu .mulh x y ++ rvAlu .mul x y = BitVec.ofInt 128 (x.toInt * y.toInt)
    ∧ rvAlu .mulhsu x y ++ rvAlu .mul x y = BitVec.ofInt 128 (x.toInt * (y.toNat : Int))
    ∧ rvAlu .mulhu x y ++ rvAlu .mul x y = BitVec.ofNat 128 (x.toNat * y.toNat)
    ∧ (y = 0 → rvAlu .div x y = BitVec.allOnes 64 ∧ rvAlu .divu x y = BitVec.allOnes 64 ∧ rvAlu .rem x y = x ∧ rvAlu .remu x y = x)
    ∧ (y ≠ 0 → rvAlu .div x y = BitVec.ofInt 64 (x.toInt.tdiv y.toInt) ∧ rvAlu .rem x y = BitVec.ofInt 64 (x.toInt.tmod y.toInt)
      ∧ rvAlu .divu x y = BitVec.ofNat 64 (x.toNat / y.toNat) ∧ rvAlu .remu x y = BitVec.ofNat 64 (x.toNat % y.toNat))
    ∧ word .mulw (fun r => r = BitVec.ofInt 32 (X.toInt * Y.toInt))
    ∧ (Y = 0 → word .divw (fun r => r = BitVec.allOnes 32) ∧ word .divuw (fun r => r = BitVec.allOnes 32)
      ∧ word .remw (fun r => r = X) ∧ word .remuw (fun r => r = X))
    ∧ (Y ≠ 0 → word .divw (fun r => r = BitVec.ofInt 32 (X.toInt.tdiv Y.toInt)) ∧ word .remw (fun r => r = BitVec.ofInt 32 (X.toInt.tmod Y.toInt))
      ∧ word .divuw (fun r => r.toNat = X.toNat / Y.toNat) ∧ word .remuw (fun r => r.toNat = X.toNat % Y.toNat)))
  ∧ (∀ (w old v : Nat), 0 < w → old < 2 ^ w → v < 2 ^ w →
    let less := (BitVec.ofNat w old).toInt < (BitVec.ofNat w v).toInt
    rvAmoValue .swap w old v = v ∧ rvAmoValue .add w old v = (old + v) % 2 ^ w ∧ rvAmoValue .xor w old v = old ^^^ v
    ∧ rvAmoValue .and w old v = old &&& v ∧ rvAmoValue .or w old v = old ||| v
    ∧ rvAmoValue .minu w old v = min old v ∧ rvAmoValue .maxu w old v = max old v
    ∧ (less → rvAmoValue .min w old v = old ∧ rvAmoValue .max w old v = v)
    ∧ (¬less → rvAmoValue .min w old v = v ∧ rvAmoValue .max w old v = old))
  ∧ (∀ (s : State),
    let n := s.hart
    let h := s.mach.hart n
    let m := s.mach
    let box := Sparse.get [] m.fw.mailboxes 7
    h.user = true →
      (∃ m', exec .ecallEnd s = .next { s with mach := m' } ∧ (m'.hart n).status = .free ∧ (m'.hart n).mbind = 0 ∧ (m'.hart n).launch = 0
        ∧ m'.mem = m.mem)
      ∧ (32 ≤ box.length → exec .ecallLog s = .next { s with mach := m.modHart n (fun y => { y with status := .waitRoom, waits := none }) })
      ∧ (box.length < 32 → ∃ m', exec .ecallLog s = .next { s with mach := m' } ∧ (m'.hart n).xAt 10 = 0 ∧ (m'.hart n).pc = h.pc + 4
        ∧ ∃ r : BitVec 512, Sparse.get [] m'.fw.mailboxes 7 = box ++ [r] ∧ m'.fw.logs = m.fw.logs
          ∧ r.extractLsb' 0 16 = Config.logKind ∧ r.extractLsb' 16 16 = Config.monitorSender (n / 8)
          ∧ r.extractLsb' 32 64 = h.xAt 10 ∧ r.extractLsb' 96 64 = h.xAt 11
          ∧ r.extractLsb' 160 64 = h.xAt 12 ∧ r.extractLsb' 224 64 = h.lastProv)
      ∧ (∃ m', exec .ecallYield s = .next { s with mach := m' } ∧ (m'.hart n).xAt 10 = 0 ∧ (m'.hart n).pc = h.pc + 4
        ∧ (m'.comp (n / 8)).run = 64)
      ∧ (∃ m', exec .ecallUnknown s = .next { s with mach := m' } ∧ (m'.hart n).xAt 10 = BitVec.allOnes 64 ∧ (m'.hart n).pc = h.pc + 4
        ∧ m'.fw = m.fw))
  ∧ ∀ (m : Mach) (n : Nat) (e : RvExc),
      let h := m.hart n
      let k := (m.rvTrap n e).hart n
      k.mepc = h.pc ∧ k.mcause = BitVec.ofNat 64 e.cause ∧ k.mtval = e.tval ∧ k.x = h.x
      ∧ (h.user = true → k.status = .stopped ∧ k.mbind = 0 ∧ k.fault.isSome = true)
      ∧ (h.user = false → k.pc = h.mtvec ∧ k.status = h.status ∧ k.user = false)

/-- Events of cores, engines and composers. -/
def Obligations.CoreAndEngineEvents : Prop :=
  ∀ s : State,
    let m := s.mach
    let a := s.arg
    let c := a.agent
    let x := m.core c
    let due := fun (now t : Tick) => (now - t).toNat < 2 ^ 47
    let noLoad := fun (l : LoadOp) (y : CoreState) =>
      y.cnt.ld = x.cnt.ld - 1 ∧ y.flight.loads = x.flight.loads.filter (fun k => k.id ≠ l.id)
    let failed := fun (l : LoadOp) (m' : Mach) => let y := m'.core c
      noLoad l y ∧ y.regs = x.regs ∧ m'.mem = m.mem ∧ (∀ k, k ≠ c → m'.core k = m.core k)
      ∧ y.flight.errors = x.flight.errors ++ [{ stream := l.stream, taddr := m.failingAddress c l a.addrs, tval := l.origin.issuer }]
    let lost := fun (cell : Nat) => m.fw.unreachable.contains (cellModule cell)
    -- the access of this number may be performed now, with nothing before it
    let alone := fun (id : Nat) => ∀ r, m.refOf c id = some r → m.refsBefore c r = [] ∧ m.canPerform c r = true
    -- no die has seen a store ahead of the others
    let level := ∀ d ∈ m.dies, d.2.early = []
    (∀ p, x.flight.pend[a.item]? = some p → p.cycles ≤ 1 → p.far = none →
      turns .fixedLatencyResult s c (fun y => { y with flight.pend := x.flight.pend.set a.item { p with cycles := 0 } }))
    ∧ (∀ l b, x.flight.loads.find? (fun k => k.id = a.item) = some l → l.data = some b → l.remote = false → a.ranges = [] →
      m.refOf c l.id = none → Becomes .countedLoadDelivery s (fun m' => let y := m'.core c
        noLoad l y ∧ m'.mem = m.mem ∧ (∀ k, k ≠ c → m'.core k = m.core k) ∧ (l.dest = none → y.regs = x.regs)
        ∧ (∀ n, l.dest = some (.g n) → n ≠ 0 → y.regs.gAt n = (elemsValue l.elems b.bytes false).setWidth 64)
        ∧ ∀ n, l.dest = some (.v n) → y.regs.vAt n =
            { data := mergeLanes (ofMask (fun i => l.elems.any (fun e => e.lane = i))) (elemsValue l.elems b.bytes true) (x.regs.vAt n).data,
              tag := l.tag.getD (x.regs.vAt n).tag }))
    ∧ (∀ l, x.flight.loads.find? (fun k => k.id = a.item) = some l → l.data = none → l.amo = none → l.remote = false →
      l.device = false → l.loose = [] → l.overlay = [] → l.pieces = [] → l.floor = none → a.ranges = [] → alone l.id →
      (∀ w ∈ x.flight.stores, w.id ≠ l.id) → level → Becomes .countedLoadDelivery s (fun m' => noLoad l (m'.core c) ∧ m'.mem = m.mem
        ∧ ∀ n, l.dest = some (.g n) → n ≠ 0 → (m'.core c).regs.gAt n =
            (elemsValue l.elems ((l.elems.flatMap Elem.cells).map m.mem.read) false).setWidth 64))
    ∧ (∀ l, x.flight.loads.find? (fun k => k.id = a.item && (k.data.isNone || k.amo.isNone)) = some l → l.amo = none →
      Becomes .uncorrectableMemoryError s (failed l))
    ∧ (∀ l, x.flight.loads.find? (fun k => k.id = a.item && (k.elems.flatMap Elem.cells).any lost) = some l → l.amo = none →
      Becomes .remoteRouteTimeout s (failed l))
    ∧ (∀ w, x.flight.loads.find? (fun k => k.id = a.item && (k.elems.flatMap Elem.cells).any lost) = none →
      x.flight.stores.find? (fun k => k.id = a.item && k.space = .glob && !k.engine && k.ticket.isNone
        && k.bytes.any (fun b => lost b.1)) = some w →
      Becomes .remoteRouteTimeout s (fun m' => let y := m'.core c
        y.cnt.st = x.cnt.st - 1 ∧ y.flight.stores = x.flight.stores.filter (fun k => k.id ≠ w.id) ∧ m'.mem = m.mem
        ∧ y.flight.errors = x.flight.errors ++ [{ stream := w.stream, taddr := w.va, tval := w.origin.issuer }]))
    ∧ (∀ w, a.flag = false → x.flight.stores.find? (fun k => k.id = a.item && k.space = .glob && k.waits.isNone) = some w →
      x.flight.stores.filter (fun k => k.id = w.id) = [w] → a.part = 0 → a.ranges = [] →
      w.loose = [] → w.engine = false → w.ticket = none → w.done = [] →
      let cells := w.bytes.map (·.1)
      let ticketed := fun (m' : Mach) => let y := m'.core c
        y.cnt.st = x.cnt.st - 1 ∧ y.flight.stores = x.flight.stores.filter (fun k => k.id ≠ w.id)
        ∧ y.flight.remotes = (if w.remote = true ∧ w.zones ≠ [] then x.flight.remotes ++ [(w.id, w.zones)] else x.flight.remotes)
      (w.performed = true → m.refOf c w.id = none → m.canPerform c (m.storeRef w) = true →
        Becomes .storeTicketKnown s (fun m' => ticketed m' ∧ m'.mem = m.mem))
      ∧ (w.performed = false → (∀ l ∈ x.flight.loads, l.id ≠ w.id) → alone w.id → level →
        (w.rq = 3 → due m.vclk (m.leastTicket cells)) →
        Becomes .storeTicketKnown s (fun m' => ticketed m' ∧ (∀ k, k ∉ cells → m'.mem.read k = m.mem.read k)
          ∧ (cells.Nodup → ∀ e ∈ w.bytes, m'.mem.read e.1 = e.2))))
    ∧ (∀ w, a.flag = true → (m.hart c).stores.find? (fun k => k.id = a.item && k.ticket.isNone) = some w →
      Becomes .storeTicketKnown s (fun m' => ∀ k ∈ (m'.hart c).stores, k.id = w.id →
        k.performed = true ∧ k.ticket = some (m.leastTicket (w.bytes.map (·.1)))))
    ∧ (∀ w, (∀ l ∈ m.leases w, due (m.vclk + 0x10000000000) l) → ∀ l ∈ m.leases w, due (m.leastTicket [256 * w]) (l + 1))
    ∧ (∀ w, x.flight.stores.find? (fun k => k.id = a.item && k.space ≠ .glob) = some w → w.performed = false →
      x.flight.stores.filter (fun k => k.id = w.id) = [w] → (∀ l ∈ x.flight.loads, l.id ≠ w.id) → w.waits = none → w.ticket = none →
      w.engine = false → alone w.id →
      Becomes .farStorePerformed s (fun m' => let y := m'.core c
        y.cnt.st = x.cnt.st - 1 ∧ y.flight.stores = x.flight.stores.filter (fun k => k.id ≠ w.id)
        ∧ (∀ k, k ∉ w.bytes.map (·.1) → (m'.bytesOf w.space).read k = (m.bytesOf w.space).read k)
        ∧ ((w.bytes.map (·.1)).Nodup → ∀ e ∈ w.bytes, (m'.bytesOf w.space).read e.1 = e.2)))
    ∧ (∀ f, x.flight.fars.find? (fun k => k.id = a.item) = some f → (∀ l ∈ x.flight.loads, l.id ≠ f.id) →
      (∀ w ∈ x.flight.stores, w.id ≠ f.id) → alone f.id →
      let bytes := (f.elems.flatMap Elem.cells).map (overlayByte f.overlay (m.bytesOf f.space))
      Becomes .farLoadPerformed s (fun m' => let y := m'.core c
        m'.mem = m.mem ∧ y.regs = x.regs ∧ y.flight.fars = x.flight.fars.filter (fun k => k.id ≠ f.id)
        ∧ ∀ (i : Nat) (p : Pending), x.flight.pend[i]? = some p → y.flight.pend[i]? = some (if p.far = some f.id then
            { p with far := none, value := elemsValue f.elems bytes (match p.dest with | .v _ => true | _ => false) } else p)))
    ∧ (let mine := x.flight.remotes.filter (fun r => r.1 = a.item)
       mine ≠ [] → (∀ w ∈ x.flight.stores, w.id = a.item → w.performed = true ∨ w.ticket = none) →
      turns .remoteTickConfirmation s c (fun y => { y with
        flight.remotes := y.flight.remotes.filter (fun e => e.1 ≠ a.item) }.discharge m.vclk (mine.flatMap (fun (r : Nat × List (Nat × Nat)) => r.2)) none))
    ∧ (m.releasing = true → moves .vclkTick s m)
    ∧ (m.releasing = false → (∀ e ∈ m.cores, ∀ w ∈ (m.core e.1).flight.stores, w.performed = true ∨ ∀ t, w.ticket = some t → ¬due (m.vclk + 1) t) →
      Becomes .vclkTick s (fun m' => m'.vclk = m.vclk + 1 ∧ m'.mem = m.mem
        ∧ (∀ r ∈ m'.recent, ∀ t, r.tick = some t → ¬due (m'.vclk - 0x100000) t) ∧ ∀ k, (m'.core k).regs = (m.core k).regs
        ∧ ∀ l i, (m'.core k).sector l i = (match (m.core k).sector l i with
          | .leased t => if due (m.vclk + 1) t then .invalid else .leased t
          | e => e)))
    ∧ Becomes .leaseExpiry s (fun m' => m'.vclk = m.vclk ∧ m'.mem = m.mem ∧ (m'.core c).regs = x.regs
        ∧ (∀ k, k ≠ c → m'.core k = m.core k) ∧ ∀ l i, (m'.core c).sector l i = (match x.sector l i with
          | .leased t => if due m.vclk t then .invalid else .leased t
          | e => e))
    ∧ Becomes .tickMarkedPassed s (fun m' => m'.vclk = m.vclk ∧ m'.mem = m.mem ∧ (∀ k, (m'.core k).regs = (m.core k).regs)
        ∧ m'.recent = m.recent.filter (fun r => ¬∃ t ∈ r.tick, due m.vclk t)
        ∧ ∀ l, (m'.home l).lease = (m.home l).lease.filter (fun t => ¬due m.vclk t))
    ∧ (∀ d, (x.streamState a.stream).mwait = some (some d) → due m.vclk d →
      turns .mwaitTimeout s c (fun y => { y with monitor := none }))
    ∧ ((x.streamState a.stream).idle = 1 → (∀ p ∈ x.flight.pend, p.stream = a.stream → p.steps ≤ 1 → p.cycles = 0 ∧ p.far = none) →
      Becomes .idleCountExpiry s (fun m' => ((m'.core c).streamState a.stream).idle = 0))
    ∧ (64 ≤ x.front.waitCount → turns .secondaryFairnessWithhold s c (fun y => { y with front.withhold := true }))
    ∧ Becomes .handleEntryRead s (fun m' => (∀ h ∈ (m'.core c).flight.handles, h.addr = a.word → h.stream = a.stream → h.read = true)
        ∧ (m'.core c).flight.handles.length = x.flight.handles.length ∧ m'.mem = m.mem ∧ (m'.core c).regs = x.regs)
    ∧ (∀ k, x.command a.item = some k →
      (canStart x k = true → turns .engineCommandStart s c (fun y => { y with flight.cmds := x.flight.cmds.map (fun e =>
        if e.id = k.id then { e with running := true } else e) }))
      ∧ (k.running = true →
        (k.plain = true → (∀ h, k.kind ≠ .cancel h) → a.ranges = [] →
          let w := engineWork m c k []
          let cells := if k.kind.intoShadow then [] else globalCells w
          m.atomicsBefore c k w.read = [] → m.canGoOn c k w.read cells = true → m.firstRefs c (k.ref cells) = [] → level →
          moves .engineCommandComplete s
            (m.finishCommand c k w ((Tally.join k.tally w.tally).events k.slot k.stream) a.flag)
          ∧ Becomes .engineCommandComplete s (fun m' => (m'.core c).command k.id = none
            ∧ (w.fail = none → k.slot = 4 → (m'.core c).cnt.mx = x.cnt.mx - 1 ∧ (m'.core c).cnt.cp = x.cnt.cp)
            ∧ (w.fail = none → k.slot ≠ 4 → (m'.core c).cnt.cp = x.cnt.cp - 1 ∧ (m'.core c).cnt.mx = x.cnt.mx)))
        ∧ (∀ h, k.kind = .cancel h → a.ranges = [] → Becomes .engineCommandComplete s (fun m' => (m'.core c).command k.id = none
            ∧ ((m'.core c).shadowSet h).pages = [] ∧ m'.mem = m.mem))
        ∧ (∀ h, k.kind = .pub h → (∀ e ∈ x.flight.cmds, e.shadows h = true → k.id ≤ e.id) → x.groupAhead k.group k.id = false →
          m.firstRefs c (k.ref []) = [] →
          Becomes .pubSwap s (fun m' => (m'.core c).command k.id = none
            ∧ ((m'.core c).shadowSet h).pages = (x.shadowSet h).pages.filter (fun p => p.inRegion)
            ∧ ∀ p, (x.shadowSet h).pages = [p] → p.inRegion = false → (∀ e ∈ p.data, p.live ≤ e.1 ∧ e.1 < p.live + 16384 * p.units) →
                ∀ b, m'.mem.read b = if p.live ≤ b ∧ b < p.live + 16384 * p.units then Mem.read p.data b else m.mem.read b))
        ∧ ∀ src dst handle port block, k.kind = .sread src dst handle port block →
          let done := fun (i : Instr) (v : BitVec 32) =>
            let w := sreadWork m c dst a.bytes (v ≠ 0)
            m.canGoOn c k [] (globalCells w) = true → m.firstRefs c (k.ref (globalCells w)) = [] →
            moves i s ({ m with fresh := m.fresh + a.bytes.length }.finishCommand c k w (if v = 0 then [] else
              [{ kind := 0x41, slot := k.slot, stream := k.stream, count := 1, first := a.part, detail := v }]) a.flag)
          done .sreadCompletion (a.word.setWidth 32) ∧ done .nvmeCommandTimeout 0xFFFF))
    ∧ (∀ r k f, x.region = some r → r.roll = some k → x.regionLoads = false → r.fault = some f →
      moves .regionRollback s ((m.rollback c k).reportFault c f.1 f.2.1 f.2.2))
    ∧ (∀ r k, x.region = some r → r.roll = some k → x.regionLoads = false → r.fault = none →
      Becomes .regionRollback s (fun m' => let y := m'.core c
        y.region = none ∧ y.regs = r.regs ∧ y.front.pc = r.recovery ∧ y.ctl.reason = k ∧ y.ctl.regcnt = x.ctl.regcnt + 1
        ∧ m'.mem = (m.drain c).mem))
    ∧ (∀ i, let q := m.comp c
      64 ≤ q.run ∨ (q.hart q.current).turn = false → nextSlot q = some i →
      moves .composerSlotSwitch s (m.modComp c (fun q => { q with current := i, run := 0 })))
    ∧ ∀ k q l, (m.hart c).status = .waitRoom → (m.hart c).waits = some (k, q, l) → m.occupancy k q ≤ l →
      moves .emitQueueRoom s (m.modHart c (fun h => { h with status := .ready, waits := none }))

/-- Events of the caches, directories and home agents. -/
def Obligations.CoherenceEvents : Prop :=
  ∀ s : State,
    let m := s.mach
    let a := s.arg
    let c := a.agent
    let x := m.core c
    let d := dieOf c
    let line := a.item
    let entry := fun (m : Mach) (d : Nat) => Sparse.find (m.die d).dir line
    let gone := fun (m' : Mach) (d : Nat) =>
      entry m' d = none ∧ ∀ k, dieOf k = d → Sparse.get [] (m'.core k).caches.l1 line = []
    let notBefore := fun (t u : Tick) => (t - u).toNat < 2 ^ 47
    -- the message is the next of its channel
    let next := fun (g : Msg) => m.msgs.find? (fun e => e.channel = g.channel) = some g
    let lease := a.flag = true ∨ (a.kind = .home ∧ remoteCell m (256 * line) = true)
    let read := ({ core := c, part := a.part, kind := none, flag := a.flag || (a.kind = .home && remoteCell m (256 * line)) } : DirReq)
    let write := ({ core := c, part := a.part, kind := some (if a.flag = true ∧ a.kind = .owned then .through else a.kind),
                    flag := a.flag } : DirReq)
    -- no message about the line waits before the request, and it is made for no store
    (∀ e, entry m d = some e → (∀ u ∈ x.caches.untracked, u.sector / 4 ≠ line) → a.part < 4 → m.sentBefore c line = [] → a.word = 0 →
      (e.req ≠ none →
        Becomes .dirRead s (fun m' => entry m' d = some { e with waiting := e.waiting ++ [read] } ∧ m'.mem = m.mem)
        ∧ Becomes .dirOwnedWrite s (fun m' => entry m' d = some { e with waiting := e.waiting ++ [write] } ∧ m'.mem = m.mem))
      ∧ (e.req = none → e.permission = false → m.homeFree d line = false →
        Becomes .dirOwnedWrite s (fun m' => m'.mem = m.mem ∧ m'.msgs = m.msgs ∧ (m'.home line).waiting = (m.home line).waiting ++ [d]
          ∧ ∃ e', entry m' d = some e' ∧ e'.req = some write ∧ e'.count = 0))
      ∧ (e.req = none → e.permission = true ∨ m.homeFree d line = true →
        (lease → let t := m.vclk + x.ctl.lease.setWidth 48
          Becomes .dirRead s (fun m' => (m'.core c).sector line a.part = .leased t ∧ m'.mem = m.mem
            ∧ ∃ e' u, entry m' d = some e' ∧ e'.lease = some u ∧ notBefore u t))
        ∧ (¬lease → ∀ o, e.owner a.part = some o → o ≠ c →
          Becomes .dirRead s (fun m' => m'.mem = m.mem ∧ m'.msgs = m.msgs ++ [.recall o line a.part]
            ∧ ∃ e', entry m' d = some e' ∧ e'.req = some read ∧ e'.count = 1 ∧ e'.owner a.part = none))
        ∧ (¬lease → (∀ o, e.owner a.part = some o → o = c) →
          let sole := m.heldOnDie d line a.part c = false ∧ (e.permission = true ∨ m.soleDie d line = true)
          (¬sole → Becomes .dirRead s (fun m' => (m'.core c).sector line a.part = .shared ∧ m'.mem = m.mem
            ∧ ∃ e', entry m' d = some e' ∧ c ∈ e'.mayInclude d))
          ∧ (sole → e.owners.length = 4 → Becomes .dirRead s (fun m' =>
              (m'.core c).sector line a.part = .exclusive ∧ m'.mem = m.mem
              ∧ ∃ e', entry m' d = some e' ∧ e'.owner a.part = some c ∧ e'.permission = true)))
        ∧ (a.kind = .owned → a.flag = false → e.permission = true → (∀ k ∈ e.mayInclude d, k = c) →
          (∀ o, e.owner a.part = some o → o = c) →
          Becomes .dirOwnedWrite s (fun m' => (m'.core c).sector line a.part = .modified ∧ m'.mem = m.mem))
        ∧ (∀ k, k ∈ e.mayInclude d ∨ e.owner a.part = some k → k ≠ c →
          Becomes .dirOwnedWrite s (fun m' => .invalidate k line a.part ∈ m'.msgs ∧ m'.mem = m.mem
            ∧ ∃ e', entry m' d = some e' ∧ e'.req = some write ∧ e'.count ≠ 0))
        ∧ ∀ o, e.permission = false → o ∈ m.otherDies d line →
          Becomes .dirOwnedWrite s (fun m' => .drop o line d ∈ m'.msgs ∧ m'.mem = m.mem
            ∧ ∃ e', entry m' d = some e' ∧ e'.req = some write ∧ e'.count ≠ 0)))
    ∧ (∀ e m1, entry m d = some e → (∀ u ∈ x.caches.untracked, u.sector / 4 ≠ line) → m.sentBefore c line = [] → e.req = none →
      a.kind = .owned → a.flag = false → a.part < 4 → e.permission = true → (∀ k ∈ e.mayInclude d, k = c) →
      (∀ o, e.owner a.part = some o → o = c) → a.word ≠ 0 → (c, a.word.toNat - 1) ∉ m.storesFor line →
      let plain : State := { s with arg.word := 0 }
      exec .dirOwnedWrite plain = .next { plain with mach := m1 } →
      moves .dirOwnedWrite s (storeTicket { agent := c, item := a.word.toNat - 1 } m1))
    ∧ (a.flag = false → x.looseLines.contains line = true → (∀ u ∈ x.caches.untracked, u.sector / 4 = line → u.dirty = false) →
      Sparse.get [] x.caches.l1 line = [] → x.bareMark line = false →
      Becomes .evictionNoticeClean s (fun m' => (∀ u ∈ (m'.core c).caches.untracked, u.sector / 4 ≠ line) ∧ m'.mem = m.mem
        ∧ m'.msgs = m.msgs))
    ∧ (a.flag = false → (∀ u ∈ x.caches.untracked, u.sector / 4 ≠ line) → Sparse.get [] x.caches.l1 line ≠ [] → x.modifiedSectors line = [] →
      Becomes .evictionNoticeClean s (fun m' => Sparse.get [] (m'.core c).caches.l1 line = [] ∧ m'.mem = m.mem
        ∧ m'.msgs = m.msgs ++ [.notice c line []] ∧ entry m' d = entry m d))
    ∧ (∀ e, a.flag = true → m.nextNotice c line false = some (.notice c line []) → next (.notice c line []) → entry m d = some e →
      Becomes .evictionNoticeClean s (fun m' => m'.mem = m.mem ∧ m'.msgs = m.msgs.erase (.notice c line [])
        ∧ (e.req ≠ none → entry m' d = some e)
        ∧ (e.req = none → e.coarse = false → Sparse.get [] x.caches.l1 line = [] →
            entry m' d = some { e with ptrs := e.ptrs.filter (fun k => k ≠ c % 16) })))
    ∧ (a.flag = false → (∀ u ∈ x.caches.untracked, u.sector / 4 ≠ line) → x.modifiedSectors line ≠ [] →
      Becomes .evictionNoticeData s (fun m' => Sparse.get [] (m'.core c).caches.l1 line = [] ∧ m'.mem = m.mem
        ∧ m'.msgs = m.msgs ++ [.notice c line (x.modifiedSectors line)] ∧ entry m' d = entry m d))
    ∧ (∀ w e, a.flag = true → m.nextNotice c line true = some (.notice c line w) → next (.notice c line w) → entry m d = some e →
      Becomes .evictionNoticeData s (fun m' => m'.mem = m.mem ∧ (e.req ≠ none → entry m' d = some e)
        ∧ (e.req = none → ∃ e', entry m' d = some e' ∧ ∀ i ∈ w, e.owner i = some c → e'.owner i = none)))
    ∧ (a.flag = false → (∃ u ∈ x.caches.untracked, u.sector / 4 = line) → (x.caches.untracked.map (·.sector)).Nodup →
      Becomes .evictionNoticeData s (fun m' => (∀ u ∈ (m'.core c).caches.untracked, u.sector / 4 ≠ line)
        ∧ ∀ u ∈ x.caches.untracked, u.sector / 4 = line → u.dirty = true → m.aliased c u.sector = false → ∀ i, i < 64 →
            m'.mem.read (64 * u.sector + i) = u.data.extractLsb' (8 * i) 8))
    ∧ (a.flag = false → next (.invalidate c line a.part) →
      Becomes .invalidation s (fun m' => (m'.core c).sector line a.part = .invalid ∧ .ack c line a.part ∈ m'.msgs ∧ m'.mem = m.mem))
    ∧ (a.flag = true → next (.drop c line a.part) → (∀ e, entry m c = some e → e.req = none) →
      Becomes .invalidation s (fun m' => gone m' c ∧ .dropped c line a.part ∈ m'.msgs ∧ m'.mem = m.mem))
    ∧ (∀ e r, a.flag = true → next (.drop c line a.part) → entry m c = some e → e.req = some r →
      (e.count ≠ 0 → moves .invalidation s m)
      ∧ (e.count = 0 → Becomes .invalidation s (fun m' => .dropped c line a.part ∈ m'.msgs ∧ m'.mem = m.mem
        ∧ (∀ k, dieOf k = c → Sparse.get [] (m'.core k).caches.l1 line = [])
        ∧ ∃ e', entry m' c = some e' ∧ e'.req = some r ∧ e'.waiting = e.waiting ∧ e'.mayInclude c = [] ∧ e'.permission = false)))
    ∧ (next (.recall c line a.part) → a.part < 4 → x.sector line a.part = .modified ∨ x.sector line a.part = .exclusive →
      Becomes .recall s (fun m' => (m'.core c).sector line a.part = .shared ∧ .ack c line a.part ∈ m'.msgs ∧ m'.mem = m.mem
        ∧ entry m' d = entry m d))
    ∧ (∀ e r, a.flag = false → next (.ack c line a.part) → entry m d = some e → e.req = some r →
      (1 < e.count → Becomes .acknowledgement s (fun m' => entry m' d = some { e with count := e.count - 1 } ∧ m'.mem = m.mem
        ∧ m'.msgs = m.msgs.erase (.ack c line a.part)))
      ∧ (e.count = 1 → r.part < 4 → e.waiting = [] → (m.home line).waiting = [] →
        let done := fun (v : Sector) (m' : Mach) =>
          (m'.core r.core).sector line r.part = v ∧ m'.mem = m.mem ∧ ∃ e', entry m' d = some e' ∧ e'.req = none
        (r.store = none → r.kind = none → Becomes .acknowledgement s (done .shared))
        ∧ (r.store = none → r.kind = some .owned → Becomes .acknowledgement s (done .modified))
        ∧ ∀ k, r.store = some k → r.kind = some .owned → m.storesFor line = [(r.core, k)] →
          ∃ m1, done .modified m1 ∧ moves .acknowledgement s (storeTicket { agent := r.core, item := k } m1)))
    ∧ (∀ e r, a.flag = true → next (.dropped c line a.part) → entry m a.part = some e → e.req = some r → 1 < e.count →
      Becomes .acknowledgement s (fun m' => entry m' a.part = some { e with count := e.count - 1 } ∧ m'.mem = m.mem))
    ∧ (∀ e, entry m c = some e → e.req ≠ none ∨ e.retained ≠ none → moves .l2Eviction s m)
    ∧ (∀ e, entry m c = some e → e.req = none → e.retained = none →
      Becomes .l2Eviction s (fun m' => gone m' c ∧ m'.mem = m.mem ∧ (m'.home line).dies.getLsbD c = false
        ∧ (m'.home line).owner ≠ some c))
    ∧ (m.homeFree 64 line = false → moves .homeOwnedWrite s m ∧ moves .homeRead s m)
    ∧ (a.flag = false → (∀ k, k < 64 → m.lineBusy k line = false) → m.homeFree 64 line = true →
      Becomes .homeOwnedWrite s (fun m' => (m'.home line).owner = some c ∧ (m'.home line).remote = [] ∧ m'.mem = m.mem
        ∧ (∀ k, k < 64 → k ≠ c → (m'.home line).dies.getLsbD k = false)
        ∧ (∀ k, k < 64 → k ≠ c → (m.home line).dies.getLsbD k = true → gone m' k)
        ∧ ∀ e, entry m c = some e → entry m' c = some { e with permission := true }))
    ∧ (a.flag = true → (∀ k, k < 64 → m.lineBusy k line = false) → m.homeFree 64 line = true → Becomes .homeOwnedWrite s (fun m' => (m'.home line).owner = none ∧ (m'.home line).remote = [c]
        ∧ (m'.home line).dies = 0 ∧ m'.mem = m.mem ∧ ∀ k, k < 64 → (m.home line).dies.getLsbD k = true → gone m' k))
    ∧ (m.homeFree 64 line = true → Becomes .homeRead s (fun m' =>
        let h := m.home line
        let t := m.vclk + BitVec.ofNat 48 (a.word.toNat % 65536)
        let leased := ∃ u, (m'.home line).lease = some u ∧ notBefore u t
        m'.mem = m.mem ∧ (∀ o, h.owner = some o → o < 64 → a.flag = true ∨ o ≠ c → (m'.home line).owner = none
          ∧ ∀ k i, dieOf k = o → i < 4 → (m'.core k).sector line i ≠ .modified)
        ∧ (a.kind = .home → leased)
        ∧ (a.kind ≠ .home → a.flag = false → c < 64 → (m'.home line).dies.getLsbD c = true)
        ∧ (a.kind ≠ .home → a.flag = true → c ∉ h.remote → h.remote.length < 4 → (m'.home line).remote = h.remote ++ [c])
        ∧ (a.kind ≠ .home → a.flag = true → c ∉ h.remote → 4 ≤ h.remote.length → (m'.home line).remote = h.remote ∧ leased)))
    ∧ (∀ h, Sparse.find m.homes line = some h → h.waiting = [] → (∀ k, k < 64 → m.lineBusy k line = false) →
      Becomes .homeEntryEviction s (fun m' => Sparse.find m'.homes line = none ∧ m'.mem = m.mem
        ∧ (∀ k, k < 64 → h.dies.getLsbD k = true ∨ entry m k ≠ none → gone m' k)
        ∧ ∀ t, h.lease = some t → ∃ u, Sparse.find m'.bounds (homeAgent (256 * line)) = some u ∧ notBefore u t))
    ∧ Becomes .instructionPrefetch s (fun m' =>
        let at_ := x.front.pc &&& ~~~(255 : Dword)
        let held := (m'.core c).caches
        m'.mem = m.mem ∧ m'.vclk = m.vclk ∧ (∀ k, (m'.core k).regs = (m.core k).regs ∧ (m'.core k).front = (m.core k).front)
        ∧ ∀ e k f j, a.item = 1 → m.translate c at_ = .leaf e k → (at_.toNat + 256) % 2 ^ k ≠ 0 ∨ pteEnd e = false →
            m.translate c (at_ + 256) = .leaf f j → pteKind f ≠ 1 →
            ∃ v, cachedLine (held.lineBuf.toList ++ held.icache) (leafCell f j (at_ + 256) / 256) = some v)
    ∧ (a.flag = true → moves .shootdownAck s { m with fw.awaits := m.fw.awaits.filter (fun k => k ≠ a.part) })
    ∧ (a.flag = false → (m.die c).shootdown = true → (∀ k, k < 16 → (m.core (16 * c + k)).unperformed = false) →
      (∀ k, k < 4 → ∀ h ∈ (m.comp (4 * c + k)).harts, ∀ w ∈ h.2.stores, w.performed = true) →
      Becomes .shootdownAck s (fun m' => (m'.die c).shootdown = false ∧ m'.mem = m.mem
        ∧ ∀ k t, dieOf k = c → t ∈ (m'.core k).caches.tlb → t ∈ (m.core k).caches.tlb
            ∧ m.walk t.space (canonicalVa (t.page * 2 ^ t.shift)) = .leaf t.leaf t.shift))
    ∧ (a.item % 64 = 0 → moves .keyRetirement s m)
    ∧ (a.item % 64 ≠ 0 → Becomes .keyRetirement s (fun m' =>
        BitVec.ofNat 6 a.item ∈ m'.fw.retired ∧ ∀ k,
          (∀ n, (m.core k).monitor = some n → keyOfLine n.line = a.item % 64 →
            ∃ n', (m'.core k).monitor = some n' ∧ n'.line = n.line ∧ n'.fired = true)
          ∧ (∀ t ∈ (m'.core k).caches.tlb, (pteKey t.leaf).toNat ≠ a.item % 64)
          ∧ (∀ e ∈ (m'.core k).caches.l1, keyOfLine e.1 ≠ a.item % 64) ∧ (∀ e ∈ (m'.core k).caches.icache, keyOfLine e.1 ≠ a.item % 64)
          ∧ (∀ u ∈ (m'.core k).caches.untracked, keyOfLine (u.sector / 4) ≠ a.item % 64)
          ∧ ∀ e ∈ (m'.die k).dir, keyOfLine e.1 ≠ a.item % 64))
    ∧ Becomes .residencyUpdate s (fun m' => (m'.die c).rsv = (m.die c).rsv ∧ m'.mem = m.mem
        ∧ (∀ e ∈ (m'.die c).dir, ∀ n, e.2.retained = some n →
            e.2.way ∈ waysOf (Sparse.get [] (m'.die c).rsvSlice (sliceOf (256 * e.1))) n)
        ∧ ∀ slice, slice < 16 →
          let old := Sparse.get [] (m.die c).rsvSlice slice
          let reached := a.flag = false ∨ slice = a.item % 16
          Sparse.get [] (m'.die c).rsvSlice slice = (if reached then (m.die c).rsv else old)
          ∧ ∀ n, n < 4 →
            let on := fun (r : Sparse Dword) => (Sparse.get 0 r (8 + n)).getLsbD 0
            Sparse.get 0 (m'.die c).acc (4 * slice + n) =
              if reached ∧ on (m.die c).rsv = true ∧ on old = false then 0 else Sparse.get 0 (m.die c).acc (4 * slice + n))

/-- Events of F1 and the handlers. -/
def Obligations.LaunchAndHandlerEvents : Prop :=
  ∀ s : State,
    let m := s.mach
    let a := s.arg
    let c := a.agent
    let x := m.core c
    let n := BitVec.ofNat 32 a.item
    let stands := fun (m' : Mach) (n : BitVec 32) (p : Launch → Prop) => ∃ l', m'.launch n = some l' ∧ p l'
    let ended := fun (m' : Mach) (n : BitVec 32) => stands m' n (fun l => l.status = .ended)
    let soon := (a.tick - m.vclk).toNat ≤ 2 ^ 40
    (∀ l, m.launch n = some l →
      (l.status = .waiting → soon → m.inTurn l = true → m.available l [] = true → (l.cores.map (·.core)).Nodup →
        (let p := m.placed a l; (m.openWindows p).mapsRight p (a.addrs.drop 5) = true) →
        Becomes .launchClaim s (fun m' =>
          stands m' n (fun k => k.status = .claimed ∧ k.tick = (if l.modules = 1 ∨ a.flag = true then some a.tick else l.tick))
          ∧ ∀ e ∈ l.cores, let y := m'.core e.core
            y.reg.status = .idle ∧ y.reg.launch = n ∧ y.regs.gAt 2 = e.g2 ∧ y.regs.gAt 3 = l.handles
            ∧ (∀ i, i < 8 → y.regs.gAt (8 + i) = (e.args[i]?).getD 0) ∧ y.regs.v = [] ∧ y.regs.p = 0
            ∧ y.front.fed = e.fed ∧ (e.fed = true → y.front.pc = 0) ∧ (e.fed = false → y.front.pc = e.start - e.start % 32)
            ∧ y.ctl.dmem = e.dmem ∧ y.ctl.space = l.space ∧ y.ctl.keyid = l.keyid ∧ y.ctl.lease = l.lease ∧ y.ctl.seed = l.seed
            ∧ y.ctl.frm = l.frm ∧ y.arrive = e.flags ∧ y.trap.monitor = false ∧ y.region = none))
      ∧ (l.status = .claimed → l.tick = none → soon → a.flag = true →
        moves .launchClaim s (m.modLaunch n (fun k => k.setTick a)))
      ∧ (l.status = .claimed → l.tick = some m.vclk → n ≠ 0 → Becomes .releaseTick s (fun m' =>
          m'.mem = m.mem ∧ stands m' n (fun k => k.status = .running)
          ∧ ∀ k, (m.core k).reg.launch = n → (m.core k).reg.status = .idle →
              (m'.core k).reg.status = .running ∧ (m'.core k).regs = (m.core k).regs
              ∧ (m'.core k).front = { (m.core k).front with awaits := true }))
      ∧ (l.status = .running → m.mayStop n = false → moves .preemption s m)
      ∧ (l.status = .running → m.mayStop n = true → Becomes .preemption s (fun m' =>
          stands m' n (fun k => k.status = .stopping ∨ k.status = .saved)
          ∧ ∀ k, (m'.core k).reg.launch = n → (m'.core k).running = false))
      ∧ (l.status = .stopping → (∀ e ∈ l.cores, let y := m.core e.core
          y.reg.launch = n → y.releasing = [] ∧ y.reg.status ≠ .faulted ∧ y.reg.status ≠ .exhausted
            ∧ (y.reg.status = .frozen → y.drained = true)) →
        Becomes .preemption s (fun m' => stands m' n (fun k => k.status = .saved)))
      ∧ (l.status = .saved → soon → m.inTurn l = true → m.available l [] = true →
        (∀ e ∈ l.cores, (m.die (dieOf e.core)).steward = true) →
        Becomes .resume s (fun m' => stands m' n (fun k => k.status = .claimed ∧ k.tick = some a.tick)))
      ∧ (∀ key k, a.flag = true → a.ranges = [(key, k)] → 5120 ≤ key →
        let counts := fun (m' : Mach) (arrived away members others : Nat) => stands m' n (fun j =>
          Sparse.get 0 j.arrived key = arrived ∧ Sparse.get 0 j.away key = away ∧ Sparse.get 0 j.members key = members
          ∧ Sparse.get 0 j.others key = others)
        let A := Sparse.get 0 l.arrived key
        let W := Sparse.get 0 l.away key
        let M := Sparse.get 0 l.members key
        let O := Sparse.get 0 l.others key
        let held := l.status ≠ .running ∧ l.status ≠ .stopping
        (a.part = 0 → W + k ≤ O → held ∨ A + k ≠ M → Becomes .remoteTickConfirmation s (fun m' => counts m' (A + k) (W + k) M O))
        ∧ (a.part = 0 → W + k ≤ O → ¬held → A + k = M → M ≠ 0 → Becomes .remoteTickConfirmation s (fun m' => counts m' 0 0 M O
            ∧ ∀ j, (m.core j).reg.launch = n → (m.core j).ctl.dmem.getLsbD 4 = true → domainUnit (m.core j) j 5 = key - 5120 →
                (m'.core j).arrive.getLsbD 4 = false))
        ∧ (a.part = 1 → W + k ≤ O → held ∨ A ≠ M - k → Becomes .remoteTickConfirmation s (fun m' => counts m' A W (M - k) (O - k)))
        ∧ (a.part = 2 → k ≤ W → held ∨ A - k ≠ M - k →
          Becomes .remoteTickConfirmation s (fun m' => counts m' (A - k) (W - k) (M - k) (O - k))))
      ∧ (l.status = .running → m.finished l = true →
        Becomes .launchCompletion s (fun m' => Mem.load m'.mem l.completion 8 = (Mem.load m.mem l.completion 8 + 1) % 2 ^ 64
          ∧ (∀ k, k < l.completion ∨ l.completion + 8 ≤ k → m'.mem.read k = m.mem.read k)
          ∧ stands m' n (fun k => k.status = .completing
            ∧ k.ticket = some (m.leastTicket ((List.range 8).map (fun i => l.completion + i))))))
      ∧ (l.status = .completing → passed m.vclk l.ticket = true →
        moves .completionWordPassed s ((m.endLaunch n).report l 1 l.completion).evaluate
        ∧ Becomes .completionWordPassed s (fun m' => ended m' n))
      ∧ (l.status ≠ .ended → ∀ e, m.faultOf l = some e →
        moves .faultEndLaunch s (((m.endLaunch n).report l 5 e).cancelDependents l)
        ∧ Becomes .faultEndLaunch s (fun m' => ended m' n)))
    ∧ (∀ w l, (m.comp (clusterOf c)).watch.find? (fun w => w.core = c) = some w → m.launch w.launch = some l →
      x.reg.launch = w.launch → x.running = true → x.front.primary = [] →
      Becomes .primaryBindingLapseEnd s (fun m' => ended m' w.launch ∧ (m'.hart w.slot).fault = some w.record
        ∧ Mem.load m'.mem (m.registryOfSlot w.slot + 64) 64 = w.record.toNat))
    ∧ (∀ cause va, x.replayOf a.stream = some (cause, va) →
      (cause = 4 → (m.die (dieOf c)).steward = true ∧ m.shooting = false) →
      (cause = 6 → m.collapsing x.ctl.space (va.toNat % 2 ^ 57) = none) →
      Becomes .trapReplay s (fun m' => (m'.core c).replayOf a.stream = none ∧ (m'.core c).regs = x.regs ∧ m'.mem = m.mem
        ∧ (m'.core c).front = x.front ∧ ∀ k, k ≠ c → m'.core k = m.core k))
    ∧ (∀ va, x.replayOf .primary = some (4, va) → (m.die (dieOf c)).steward = true →
      ((∀ e, m.walk x.ctl.space x.front.pc ≠ .malformed e) →
        (a.cells ≠ [] ∨ a.tables ≠ [] → Becomes .fetchMissPaging s (fun m' => (m'.core c).replayOf .primary = some (4, va)
          ∧ (m'.core c).regs = x.regs ∧ (m'.die (dieOf c)).shootdown = true
          ∧ m'.mem = (m.mem.writeAll a.cells).writeAll
              ((a.tables.filter (fun e => leafPlaced e.2)).flatMap (fun e => numberBytes e.1 8 e.2.toNat))))
        ∧ (a.cells = [] → a.tables = [] → m.shooting = false → Becomes .fetchMissPaging s (fun m' =>
            (m'.core c).replayOf .primary = none ∧ (m'.core c).regs = x.regs ∧ m'.mem = m.mem)))
      ∧ (∀ e l, m.walk x.ctl.space x.front.pc = .malformed e → m.launch x.reg.launch = some l →
        Becomes .fetchMissPaging s (fun m' => e ∈ m'.fw.malformed ∧ ended m' x.reg.launch)))
    ∧ (∀ (va : Dword) root, a.flag = false → x.replayOf a.stream = some (6, va) → m.root x.ctl.space = some root →
      let v := va.toNat % 2 ^ 57
      (∀ k g, m.collapsing x.ctl.space v = none → m.duplicated x.ctl.space v = true → (m.spaceRec x.ctl.space).roots = [(k, root)] →
        let m1 := m.splitTree root ((a.addrs[0]?).getD 0).toNat v
        groupEntries m1.mem root v = some g → (∀ i, i < 4 → leafPlaced (setBit (tableEntry m1.mem (g + 8 * i)) 6 false) = true) →
        Becomes .readDuplicateCollapse s (fun m' => (m'.core c).replayOf a.stream = some (6, va)
          ∧ (m'.collapsing x.ctl.space v).isSome = true
          ∧ (∀ i, i < 4 → tableEntry m'.mem (g + 8 * i) = setBit (tableEntry m1.mem (g + 8 * i)) 6 false)
          ∧ ∀ b, b < g ∨ g + 32 ≤ b → m'.mem.read b = m1.mem.read b))
      ∧ (∀ k, m.collapsing x.ctl.space v = some k →
        (m.shooting = true → moves .readDuplicateCollapse s m)
        ∧ (m.shooting = false → Becomes .readDuplicateCollapse s (fun m' => m'.mem = m.mem ∧ m'.fw.freed = m.fw.freed ++ k.copies
            ∧ (m.duplicated x.ctl.space v = false → m.fw.collapses = [k] → (m'.core c).replayOf a.stream = none))))
      ∧ (m.collapsing x.ctl.space v = none → m.duplicated x.ctl.space v = false →
        Becomes .readDuplicateCollapse s (fun m' => (m'.core c).replayOf a.stream = none ∧ m'.mem = m.mem)))
    ∧ (a.flag = true → ∀ root, Sparse.find (m.spaceRec (a.word.setWidth 36)).roots a.part = some root →
      let space : BitVec 36 := a.word.setWidth 36
      let v := a.item % 2 ^ 57
      m.collapsing space v = none → m.duplicated space v = true →
      moves .readDuplicateCollapse s (m.startCollapse space root v a.addrs))
    ∧ ((m.die (dieOf c)).steward = true → ∀ before r after, x.queues.trapq = before ++ r :: after →
      (∀ e ∈ before, e.fatal = true ∨ e.replay = true) → r.fatal = false → r.replay = false →
      Becomes .trapRecordFree s (fun m' => (m'.core c).queues.trapq = before ++ after ∧ (m'.core c).regs = x.regs ∧ m'.mem = m.mem))
    ∧ (x.reg.status = .faulted ∨ x.reg.status = .exhausted → Becomes .reap s (fun m' =>
        (m'.core c).reg.status = .idle ∧ (m'.core c).queues.trapq = [] ∧ (m'.core c).replay = []
        ∧ ∀ l, m.launch x.reg.launch = some l → ended m' x.reg.launch))
    ∧ Becomes .stewardCrash s (fun m' => (m'.die c).steward = false ∧ m'.mem = m.mem ∧ ∀ k, (m'.core k).regs = (m.core k).regs
        ∧ (dieOf k = c → (m.core k).running = true → (m'.core k).reg.status = .frozen)
        ∧ (dieOf k ≠ c → m'.core k = m.core k))
    ∧ ((m.die c).steward = false → Becomes .warmReadoption s (fun m' => (m'.die c).steward = true ∧ (m'.die c).service = a.word
        ∧ m'.mem = m.mem.writeAll a.serviceCells ∧ ∀ k l, dieOf k = c → (m.core k).reg.status = .frozen →
            m.launch (m.core k).reg.launch = some l → l.status = .running → (m'.core k).reg.status = .running))
    ∧ ((m.die c).steward = false → Becomes .readoptionTimeout s (fun m' => ∀ l, m.launch l.number = some l → l.status = .running →
        (∃ e ∈ l.cores, dieOf e.core = c) → stands m' l.number (fun k => k.status = .stopping)))

/-- Events of the host and the fleet. -/
def Obligations.HostAndFleetEvents : Prop :=
  (∀ (m : Mach) (n st sub det : Nat) (num : BitVec 32), (m.ring n).k ≠ 0 → st < 256 → sub < 256 → det < 2 ^ 64 →
    let r := m.ring n
    let m' := m.answer n st sub num det
    let e := r.base + 64 * 2 ^ r.k + 32 * (r.comp % 2 ^ r.k)
    Mem.load m'.mem e 2 = r.head % 65536 ∧ at1 m'.mem e 2 = st ∧ at1 m'.mem e 3 = sub ∧ at4 m'.mem e 4 = num.toNat
    ∧ at8 m'.mem e 8 = det ∧ at8 m'.mem e 16 = m.vclk.toNat ∧ (m'.ring n).head = r.head + 1 ∧ (m'.ring n).comp = r.comp + 1
    ∧ ∀ k, k < e ∨ e + 32 ≤ k → m'.mem.read k = m.mem.read k)
  ∧ (∀ (m : Mach) (v : BitVec 8), let w := m.wiped v
    w.mem = [] ∧ w.cores = [] ∧ w.clusters = [] ∧ w.dies = [] ∧ w.comps = [] ∧ w.fw.launches = [] ∧ w.fw.rings = [] ∧ w.fw.spaces = []
    ∧ w.fw.keyDraw = m.fw.keyDraw + 1 ∧ w.fleet.cause = v ∧ w.fleet.lifecycle = m.fleet.lifecycle ∧ w.fleet.fullService = false
    ∧ w.fleet.twilight = false ∧ w.fleet.tempered = m.fleet.configured.getD false)
  ∧ (∀ (m : Mach) (off : Nat), let v := m.readBar0 off
    (off = 0x1000 → (∀ i, i < 64 → v.getLsbD i = (decide (i = 0) && m.fleet.fullService || decide (i = 1) && m.fleet.twilight
      || decide (i = 2) && m.fleet.tempered)))
    ∧ (∀ n, n < 16 → off = 0x1100 + 16 * n → v = (m.ring n).value)
    ∧ (off ≠ 0x1000 → (∀ n, n < 16 → off ≠ 0x1100 + 16 * n) → v = 0))
  ∧ ∀ s : State,
    let m := s.mach
    let a := s.arg
    let n := a.agent
    let f := m.fleet
    let said := fun (i : Instr) (st sub : Nat) (num : BitVec 32) (det : Nat) => moves i s (m.answer n st sub num det)
    let stands := fun (m' : Mach) (p : Launch → Prop) => ∃ l ∈ m'.fw.launches, p l
    -- the one announced entry of ring n, well formed so far, at cell e
    let ready := fun (kind e : Nat) => m.headEntry n = some e ∧ m.inSequence n e = true ∧ at1 m.mem e 0 = kind ∧ at1 m.mem e 1 = 0
      ∧ (kind = 2 ∨ kind = 5 ∨ kind = 6 → at8 m.mem e 8 = 0) ∧ (m.ring n).tail = (m.ring n).head + 1
    (∀ e, ready 1 e →
      let r := at8 m.mem e 8
      let y := at8 m.mem r 8
      let l := readLaunch m.mem r n (m.ring n).seq a.bytes
      (∀ o, recordBad m.mem r = some o → said .launch 2 0 0 o)
      ∧ (recordBad m.mem r = none →
        let bad := cyoBad m.mem y a.addrs (l.gens ≠ [])
        let gone := m.staleSpace l.space || (m.spaceRec l.space).closing.isSome
        let placed := ((m.ensureSpace l.space a.word.toNat).writeTables a.tables).placesRight y a l
        (bad = true → said .launch 3 0 0 0)
        ∧ (bad = false → gone = true → said .launch 8 0 0 0)
        ∧ (bad = false → gone = false → ∀ k, m.refusal l a.flag = some k → said .launch 4 k 0 0)
        ∧ (bad = false → gone = false → m.refusal l a.flag = none → placed = false → moves .launch s m)
        ∧ (bad = false → gone = false → m.refusal l a.flag = none → placed = true → Becomes .launch s (fun m' => (m'.ring n).head = (m.ring n).head + 1
          ∧ stands m' (fun k => k.ring = n ∧ k.seq = (m.ring n).seq ∧ k.status = .waiting ∧ k.cores = l.cores ∧ k.space = l.space
            ∧ k.keyid = l.keyid ∧ k.priority = l.priority)))))
    ∧ (∀ e, ready 2 e →
      let num := BitVec.ofNat 32 (at4 m.mem e 4)
      (m.launch num = none → said .endLaunch 2 0 0 4)
      ∧ ∀ l, m.launch num = some l →
        (l.status = .ended ∨ l.status = .completing → said .endLaunch 0 0 num 0)
        ∧ (l.status ≠ .ended → l.status ≠ .completing →
          moves .endLaunch s (((m.answer n 0 0 num 0).endLaunch num).report l 7 0)
          ∧ Becomes .endLaunch s (fun m' => ∃ k, m'.launch num = some k ∧ k.status = .ended)))
    ∧ (∀ e, ready 3 e →
      let b := at8 m.mem e 8
      let space := BitVec.ofNat 36 (at8 m.mem b 16)
      let rdup := (BitVec.ofNat 8 (at1 m.mem b 24)).getLsbD 2
      let busy := rdup = true ∧ ∃ l ∈ m.fw.launches, l.runs = true ∧ l.space = space
      (∀ o, firstBad (bufferChecks m b) = some o → said .registerBuffer 2 0 0 o)
      ∧ (firstBad (bufferChecks m b) = none →
        (m.staleSpace space = true → said .registerBuffer 2 0 0 16)
        ∧ (m.staleSpace space = false → busy ∨ (m.spaceRec space).closing.isSome = true → said .registerBuffer 8 0 0 0)
        ∧ (m.staleSpace space = false → ¬busy → (m.spaceRec space).closing = none → Becomes .registerBuffer s (fun m' => (m'.ring n).head = (m.ring n).head + 1
          ∧ ∃ k, m'.fw.buffers = m.fw.buffers ++ [k] ∧ k.space = space ∧ k.va = at8 m.mem b 0 % 2 ^ 57 ∧ k.size = at8 m.mem b 8
            ∧ k.rdup = rdup ∧ k.ranges = a.ranges))))
    ∧ (∀ e, ready 4 e →
      let b := at8 m.mem e 8
      let named := fun (k : Buffer) => k.space = BitVec.ofNat 36 (at8 m.mem b 16) ∧ k.va = at8 m.mem b 0 % 2 ^ 57 ∧ k.size = at8 m.mem b 8
      ((∀ k ∈ m.fw.buffers, ¬named k) → said .unregisterBuffer 2 0 0 0)
      ∧ ∀ k ∈ m.fw.buffers, named k → (∀ j ∈ m.fw.buffers, named j → j = k) →
          (k.leaving = false → Becomes .unregisterBuffer s (fun m' => { k with leaving := true } ∈ m'.fw.buffers))
          ∧ (k.leaving = true → m.shooting = true → moves .unregisterBuffer s m)
          ∧ (k.leaving = true → m.shooting = false → Becomes .unregisterBuffer s (fun m' =>
              (m'.ring n).head = (m.ring n).head + 1 ∧ m'.fw.buffers = m.fw.buffers.filter (fun o => o ≠ k))))
    ∧ (∀ e, ready 5 e →
      let mode := at1 m.mem e 16
      let mask := at1 m.mem e 17
      let busy := (mode = 1 ↔ f.tempered = false) ∧ ∃ l ∈ m.fw.launches, l.runs = true
      let set := fun (i : Instr) (g : Fleet) => moves i s ({ m with fleet := g }.answer n 0 0 0 0)
      (7 < mask → (mask % 2 = 1 → mode ≤ 1) →
        said .configureOrdmode 2 0 0 17 ∧ said .configureTelemetryPage 2 0 0 17 ∧ said .configurePowerCap 2 0 0 17)
      ∧ (mask % 2 = 1 → 1 < mode → said .configureOrdmode 2 0 0 16)
      ∧ (mask = 1 → mode ≤ 1 → busy → said .configureOrdmode 8 0 0 0)
      ∧ (mask = 1 → mode ≤ 1 → ¬busy → set .configureOrdmode { f with tempered := decide (mode = 1) })
      ∧ (mask = 2 → set .configureTelemetryPage { f with teleAddr := BitVec.ofNat 64 (at8 m.mem e 24) })
      ∧ (mask = 4 → set .configurePowerCap { f with cap := BitVec.ofNat 32 (max 8000 (min 15000 (at4 m.mem e 32))) }))
    ∧ (a.flag = false → ∀ e, ready 6 e →
      let raw := at8 m.mem e 16
      let space := BitVec.ofNat 36 raw
      (∀ o, firstBad [(20, decide (15 < at1 m.mem e 20)), (21, decide (at1 m.mem e 21 ≠ 0)), (22, decide (at1 m.mem e 22 ≠ 0)),
        (23, decide (at1 m.mem e 23 ≠ 0))] = some o → said .tearDownSpace 2 0 0 o)
      ∧ (raw < 2 ^ 36 → m.staleSpace space = true → said .tearDownSpace 0 0 0 0)
      ∧ (raw < 2 ^ 36 → m.staleSpace space = false →
        ((m.spaceRec space).closing.isSome = true → said .tearDownSpace 8 0 0 0)
        ∧ ((m.spaceRec space).closing = none → (m.spaceRec space).keys = none → Becomes .tearDownSpace s (fun m' => (m'.ring n).head = (m.ring n).head + 1
          ∧ (m.spaceQuiet space = false → (m'.spaceRec space).closing = some (n, (m.ring n).seq))
          ∧ (m.spaceQuiet space = true → (m'.spaceRec space).closing = some (n, (m.ring n).seq)
            ∧ (m'.spaceRec space).keys.isSome = true ∧ (m'.spaceRec space).roots = []
            ∧ (m'.spaceRec space).generation = BitVec.ofNat 16 (raw / 2 ^ 20) + 1 ∧ ∀ k ∈ m'.fw.buffers, k.space ≠ space)))))
    ∧ (a.flag = true → let space : BitVec 36 := a.word.setWidth 36
      ((m.spaceRec space).closing = none → moves .tearDownSpace s m)
      ∧ ∀ at_ keys, (m.spaceRec space).closing = some at_ → (m.spaceRec space).keys = some keys →
        (m.shooting = true → moves .tearDownSpace s m)
        ∧ (m.shooting = false → Becomes .tearDownSpace s (fun m' => (m'.spaceRec space).closing = none
          ∧ (m'.spaceRec space).generation = (m.spaceRec space).generation ∧ (∀ k ∈ keys, BitVec.ofNat 6 k ∈ m'.fw.retired)
          ∧ ((m.ring at_.1).k ≠ 0 → (m'.ring at_.1).comp = (m.ring at_.1).comp + 1))))
    ∧ (n < 8 → let box := Sparse.get [] m.fw.mailboxes n
      let all := box.drop a.part ++ Sparse.get [] m.fw.mailHeld n
      let closed := a.flag = true ∨ (m.takeMail n a.part).senderHeld a.message = true
      Becomes .mailboxDelivery s (fun m' =>
        let boxes := fun (l h : List (BitVec 512)) => Sparse.get [] m'.fw.mailboxes n = l ∧ Sparse.get [] m'.fw.mailHeld n = h
        m'.mem = m.mem ∧ (closed → boxes (all.take 32) (all.drop 32))
        ∧ (¬closed → all.length < 32 → boxes (all ++ [a.message]) [])
        ∧ (¬closed → 32 ≤ all.length → boxes (all.take 32) (all.drop 32 ++ [a.message]))
        ∧ ∀ g l, n = 7 → box = g :: l → a.part = 1 → g.extractLsb' 0 16 = Config.logKind →
            m'.fw.logs = m.fw.logs ++ [g.extractLsb' 32 256]))
    ∧ (n < 16 → (m.ring n).k ≠ 0 → m.hostOpen = true →
      let d := (BitVec.ofNat 16 a.word.toNat - BitVec.ofNat 16 (m.ring n).head).toNat
      d ≤ 2 ^ (m.ring n).k → Becomes .dbell s (fun m' => (m'.ring n).tail = (m.ring n).head + d ∧ (m'.ring n).value = (m.ring n).value))
    ∧ (n < 16 → m.hostOpen = true →
      let k := (a.word.extractLsb' 0 4).toNat
      (k = 0 → Becomes .ringConfigWrite s (fun m' => (m'.ring n).k = 0 ∧ m'.mem = m.mem))
      ∧ (4 ≤ k → k ≤ 12 → (m.ring n).k = 0 → Becomes .ringConfigWrite s (fun m' => m'.mem = m.mem ∧ (m'.ring n).k = k
          ∧ (m'.ring n).head = 0 ∧ (m'.ring n).tail = 0 ∧ (m'.ring n).comp = 0
          ∧ (m'.ring n).value.extractLsb' 4 8 = 0 ∧ (m'.ring n).value.extractLsb' 12 52 = a.word.extractLsb' 12 52))
      ∧ (k ≠ 0 → (m.ring n).k ≠ 0 ∨ k < 4 ∨ 12 < k → moves .ringConfigWrite s m))
    ∧ (∀ e, m.headEntry n = some e → m.inSequence n e = false → (m.ring n).tail = (m.ring n).head + 1 →
      said .sequenceRereadTimeout 9 0 0 0)
    ∧ (m.fw.failed ≠ [] ∨ m.inLife = false → moves .hostMemoryAccess s m)
    ∧ (m.fw.failed = [] → m.inLife = true → (∀ e ∈ a.cells, ∀ k, k < 64 → m.lineBusy k (e.1 / 256) = false) → Becomes .hostMemoryAccess s (fun m' => m'.vclk = m.vclk
        ∧ (a.flag = true → m'.mem = m.mem.writeAll a.cells ∧ ∀ e ∈ a.cells, ∀ k, k < 64 → m'.dirOf k (e.1 / 256) = none)
        ∧ (a.flag = false → m'.mem = m.mem ∧ ∀ e ∈ a.cells, (m'.home (e.1 / 256)).owner = none)))
    ∧ (let high := m.fw.imageVersion.toNat ≤ a.word.toNat
      let classOf : List (Lifecycle × Nat) := [(.manufacturing, 1), (.provisioned, 0), (.deployed, 0), (.returned, 2)]
      let taken := a.item < 3 ∧ (f.lifecycle, a.part) ∈ classOf ∧ (m.fw.failed = [] ∨ n = 0)
      let others := m.fw.failed.filter (fun k => k ≠ a.item)
      (taken → a.flag = true → high → moves .imageLoad s { m with fw.failed := others })
      ∧ (taken → a.flag = false ∨ ¬high → f.fullService = false → f.twilight = false →
        moves .imageLoad s { m with fw.failed := others ++ [a.item] })
      ∧ (¬taken ∨ ((a.flag = false ∨ ¬high) ∧ (f.fullService = true ∨ f.twilight = true)) → moves .imageLoad s m))
    ∧ (a.flag = false → moves .powerOn s (m.wiped 0))
    ∧ (a.flag = true → Becomes .powerOn s (fun m' => let g := m'.fleet
        let some1 := fun (l : List Nat) => (l.filter (fun k => k ≠ 0)).map (fun k => k - 1)
        m'.cores = [] ∧ m'.mem = [] ∧ g.number = BitVec.ofNat 10 a.item ∧ g.neighbours = (a.addrs.map (fun v => v.toNat)).take 4
        ∧ g.watched = a.tables.map (fun e => e.1) ∧ m'.fw.unreachable = some1 (a.ranges.map (fun r => r.1))
        ∧ g.temperedPeers = some1 (a.ranges.map (fun r => r.2)) ∧ g.tempered = decide (a.part = 2) ∧ g.cause = 0))
    ∧ (a.flag = false → moves .moduleReset s (m.wiped 1))
    ∧ (a.flag = true → Becomes .moduleReset s (fun m' => m'.hostOpen = false ∧ m'.cores = [] ∧ m'.fw.rings = []))
    ∧ (let listed : List (Lifecycle × Lifecycle) := [(.manufacturing, .provisioned), (.returned, .provisioned), (.provisioned, .deployed),
        (.provisioned, .returned), (.deployed, .returned), (.returned, .scrapped)]
      (a.flag = true → (f.lifecycle, a.lifecycle) ∈ listed → a.item = 0 →
        let keys := (decide (a.lifecycle = .provisioned) || f.identityKeys) && decide (a.lifecycle ≠ .scrapped)
        moves .lifecycleChange s { m.wiped 4 with fleet.lifecycle := a.lifecycle, fleet.identityKeys := keys })
      ∧ (a.flag = false ∨ (f.lifecycle, a.lifecycle) ∉ listed → moves .lifecycleChange s m))
    ∧ (f.lifecycle = .provisioned ∨ f.lifecycle = .deployed → m.hostOpen = true → f.hot = false → n < 64 → (m.die n).stage = 0 →
      Becomes .dieStageOnePassed s (fun m' => (m'.die n).stage = 1 ∧ (m'.die n).steward = true ∧ (m'.die n).service = a.word
        ∧ m'.fleet.twilight = !f.fullService ∧ m'.mem = m.mem.writeAll a.serviceCells))
    ∧ (f.twilight = true → (∀ d, d < 64 → (m.die d).stage ≠ 0) → (a.tick - m.vclk).toNat ≤ 2 ^ 40 →
      let none_ := ∀ l ∈ m.fw.launches, l.status ≠ .running ∧ l.status ≠ .stopping
      let staged := fun (m' : Mach) =>
        m'.fleet.fullService = true ∧ m'.fleet.twilight = false ∧ ∀ d, d < 64 → (m'.die d).stage = 2
      (none_ → (∀ l ∈ m.fw.launches, l.paused = false) → Becomes .fullServiceStart s (fun m' => staged m' ∧ m'.mem = m.mem))
      ∧ (∀ l, none_ → m.fw.launches = [l] → l.paused = true → l.status = .saved → m.available l [] = true →
        Becomes .fullServiceStart s (fun m' => staged m' ∧ stands m' (fun k => k.number = l.number ∧ k.status = .claimed
          ∧ k.tick = some a.tick ∧ k.paused = false)))
      ∧ Becomes .fullServiceStart s (fun m' => ∀ l, m.launch l.number = some l → l.status = .running →
          ∃ k, m'.launch l.number = some k ∧ (k.status = .stopping ∨ k.status = .saved ∨ k.status = .claimed)))
    ∧ (a.flag = false → moves .heartbeat s { m with fleet := { f with beats := f.beats + 1 } })
    ∧ (n ∉ f.watched → moves .heartbeatMiss s m ∧ (a.flag = true → moves .heartbeat s m))
    ∧ (a.flag = true → n ∈ f.watched → Becomes .heartbeat s (fun m' => Sparse.get 0 m'.fleet.misses n = 0 ∧ n ∉ m'.fleet.voted ∧ m'.mem = m.mem))
    ∧ (n ∈ f.watched → Becomes .heartbeatMiss s (fun m' => let k := Sparse.get 0 f.misses n + 1
        Sparse.get 0 m'.fleet.misses n = k ∧ (n ∈ m'.fleet.voted ↔ n ∈ f.voted ∨ 3 ≤ k) ∧ m'.mem = m.mem))
    ∧ (let votes := f.votes.filter (fun v => a.item - v.2 ≤ 100) ++ [(n, a.item)]
      let count := ((votes.map (·.1)).eraseDups).length
      (a.flag = true → n ∈ f.neighbours → 3 ≤ count → moves .resetVote s (m.wiped 2))
      ∧ (a.flag = true → n ∈ f.neighbours → count < 3 → moves .resetVote s { m with fleet := { f with votes := votes } })
      ∧ (a.flag = false ∨ n ∉ f.neighbours → moves .resetVote s m))
    ∧ (f.teleAddr = 0 → moves .telemetryRewrite s m)
    ∧ (f.teleAddr ≠ 0 → Becomes .telemetryRewrite s (fun m' =>
        let t := f.teleAddr.toNat
        at8 m'.mem t 0 = (f.teleSeq + 1).toNat ∧ at8 m'.mem t 8 = m.vclk.toNat ∧ at4 m'.mem t 16 = a.word.toNat % 2 ^ 32
        ∧ at4 m'.mem t 20 = f.cap.toNat ∧ at2 m'.mem t 24 = a.item % 65536 ∧ at2 m'.mem t 26 = a.part % 65536
        ∧ at1 m'.mem t 28 = f.cause.toNat ∧ at1 m'.mem t 29 = lifecycleCode f.lifecycle ∧ at8 m'.mem t 32 = f.throttled.toNat
        ∧ (∀ c, c < 1024 → at2 m'.mem t (64 + 2 * c) = (Sparse.get 0 f.mismatches c).toNat)
        ∧ (∀ c, c < 992 → at2 m'.mem t (2112 + 2 * c) = (Sparse.get 0 f.drops c).toNat)
        ∧ m'.fleet.teleSeq = f.teleSeq + 1 ∧ ∀ k, k < t ∨ t + 4096 ≤ k → m'.mem.read k = m.mem.read k))
    ∧ (let next := fun (k : Nat) => if 12 < k then 12 else if 8 < k then 8 else 4
      let power := a.word.toNat
      (f.cap.toNat < power → moves .powerCapLimiting s { m with fleet.limit := next f.limit })
      ∧ (power ≤ f.cap.toNat → moves .powerCapLimiting s m)
      ∧ (100 * power < 95 * f.cap.toNat → moves .powerCapLimitingEnd s { m with fleet.limit := 16 })
      ∧ (95 * f.cap.toNat ≤ 100 * power → moves .powerCapLimitingEnd s m)
      ∧ (1150 ≤ a.word.toNat → Becomes .junctionTemperature s (fun m' => m'.cores = [] ∧ m'.clusters = [] ∧ m'.dies = [] ∧ m'.comps = []
          ∧ m'.fleet.hot = true ∧ m'.fleet.cause = 3 ∧ m'.mem = m.mem))
      ∧ (1050 ≤ a.word.toNat → a.word.toNat < 1150 → moves .junctionTemperature s { m with fleet.thermal := next f.thermal })
      ∧ (a.word.toNat < 1050 → moves .junctionTemperature s { m with fleet.thermal := 16 }))
    ∧ (f.hot = true → a.word.toNat < 850 → moves .thermalRecovery s { m.wiped 3 with fleet.hot := false })
    ∧ (f.hot = false ∨ 850 ≤ a.word.toNat → moves .thermalRecovery s m)
    ∧ moves .linkLevelRetry s { m with fleet := { f with retries := f.retries + 1 } }
end

