-- ==== Sys2Proof/Laws/Sparse.lean ====
section
/-! SUPPORT. Laws of sparse tables and of memory: a read after a write, and the canonical form that every memory operation
keeps. -/

namespace Sys2Proof.Machine

/-! ### Reading after writing -/

theorem Sparse.find_put {α : Type} (m : Sparse α) (k j : Nat) (v : α) :
    Sparse.find (Sparse.put m k v) j = if j = k then some v else Sparse.find m j := by
  induction m with
  | nil => simp only [Sparse.put, Sparse.find, eq_comm]
  | cons e r ih =>
    obtain ⟨i, w⟩ := e
    simp only [Sparse.put]
    split
    · simp only [Sparse.find, eq_comm]
    · split
      · subst ‹k = i›
        by_cases h : k = j <;> simp [Sparse.find, h, eq_comm]
      · simp only [Sparse.find, ih]
        by_cases h : i = j
        · subst h; simp [Ne.symm ‹¬k = i›]
        · simp [h]

theorem Sparse.find_erase {α : Type} (m : Sparse α) (k j : Nat) :
    Sparse.find (Sparse.erase m k) j = if j = k then none else Sparse.find m j := by
  induction m with
  | nil => simp [Sparse.erase, Sparse.find]
  | cons e r ih =>
    obtain ⟨i, w⟩ := e
    simp only [Sparse.erase] at ih ⊢
    by_cases h : i = k
    · subst h
      simp only [List.filter_cons, ne_eq, not_true_eq_false, decide_false, Bool.false_eq_true, if_false, ih, Sparse.find]
      by_cases h' : j = i
      · simp [h']
      · simp [h', Ne.symm h']
    · simp only [List.filter_cons, ne_eq, h, not_false_eq_true, decide_true, if_true, Sparse.find, ih]
      by_cases h' : i = j
      · subst h'; simp [h]
      · simp [h']

theorem Sparse.get_put {α : Type} (d : α) (m : Sparse α) (k j : Nat) (v : α) :
    Sparse.get d (Sparse.put m k v) j = if j = k then v else Sparse.get d m j := by
  simp only [Sparse.get, Sparse.find_put]
  split <;> rfl

/-- The laws that later proofs cite: the key itself, and every other key. -/
@[simp] theorem Sparse.get_put_same {α : Type} (d : α) (m : Sparse α) (k : Nat) (v : α) :
    Sparse.get d (Sparse.put m k v) k = v := by simp [Sparse.get_put]

theorem Sparse.get_put_other {α : Type} (d : α) (m : Sparse α) {k j : Nat} (v : α) (h : j ≠ k) :
    Sparse.get d (Sparse.put m k v) j = Sparse.get d m j := by simp [Sparse.get_put, h]

theorem Sparse.get_set {α : Type} [DecidableEq α] (d : α) (m : Sparse α) (k j : Nat) (v : α) :
    Sparse.get d (Sparse.set d m k v) j = if j = k then v else Sparse.get d m j := by
  simp only [Sparse.set]
  split
  · subst ‹v = d›
    simp only [Sparse.get, Sparse.find_erase]
    split <;> rfl
  · exact Sparse.get_put d m k j v

@[simp] theorem Sparse.get_set_same {α : Type} [DecidableEq α] (d : α) (m : Sparse α) (k : Nat) (v : α) :
    Sparse.get d (Sparse.set d m k v) k = v := by simp [Sparse.get_set]

theorem Sparse.get_set_other {α : Type} [DecidableEq α] (d : α) (m : Sparse α) {k j : Nat} (v : α) (h : j ≠ k) :
    Sparse.get d (Sparse.set d m k v) j = Sparse.get d m j := by simp [Sparse.get_set, h]

/-! ### The canonical form -/

/-- The form as a proposition: keys rise strictly, and no entry holds the value of an unlisted key. -/
theorem Sparse.rising_iff {α : Type} (m : Sparse α) :
    Sparse.rising m = true ↔ m.Pairwise (fun a b => a.1 < b.1) := by
  induction m with
  | nil => simp [Sparse.rising]
  | cons e r ih =>
    cases r with
    | nil => simp [Sparse.rising]
    | cons f t =>
      obtain ⟨j, v⟩ := e
      obtain ⟨k, w⟩ := f
      simp only [Sparse.rising, Bool.and_eq_true, decide_eq_true_eq, ih]
      constructor
      · rintro ⟨h, p⟩
        refine List.pairwise_cons.mpr ⟨?_, p⟩
        intro x hx
        rcases List.mem_cons.mp hx with rfl | hx
        · exact h
        · exact Nat.lt_trans h ((List.pairwise_cons.mp p).1 x hx)
      · intro p
        exact ⟨(List.pairwise_cons.mp p).1 (k, w) (by simp), (List.pairwise_cons.mp p).2⟩

theorem Sparse.mem_put {α : Type} (m : Sparse α) (k : Nat) (v : α) (e : Nat × α) (h : e ∈ Sparse.put m k v) :
    e = (k, v) ∨ e ∈ m := by
  induction m with
  | nil => simpa [Sparse.put] using h
  | cons f r ih =>
    obtain ⟨j, w⟩ := f
    simp only [Sparse.put] at h
    split at h
    · simpa using h
    · split at h
      · rcases List.mem_cons.mp h with h | h
        · exact .inl h
        · exact .inr (by simp [h])
      · rcases List.mem_cons.mp h with h | h
        · exact .inr (by simp [h])
        · rcases ih h with h | h
          · exact .inl h
          · exact .inr (by simp [h])

theorem Sparse.rising_put {α : Type} (m : Sparse α) (k : Nat) (v : α) (h : Sparse.rising m = true) :
    Sparse.rising (Sparse.put m k v) = true := by
  rw [Sparse.rising_iff] at h ⊢
  induction m with
  | nil => simp [Sparse.put]
  | cons e r ih =>
    obtain ⟨j, w⟩ := e
    obtain ⟨hj, hr⟩ := List.pairwise_cons.mp h
    simp only [Sparse.put]
    split
    · refine List.pairwise_cons.mpr ⟨?_, h⟩
      intro x hx
      rcases List.mem_cons.mp hx with rfl | hx
      · assumption
      · exact Nat.lt_trans ‹k < j› (hj x hx)
    · split
      · subst ‹k = j›
        exact List.pairwise_cons.mpr ⟨hj, hr⟩
      · refine List.pairwise_cons.mpr ⟨?_, ih hr⟩
        intro x hx
        rcases Sparse.mem_put r k v x hx with rfl | hx
        · show j < k
          omega
        · exact hj x hx

theorem Sparse.rising_erase {α : Type} (m : Sparse α) (k : Nat) (h : Sparse.rising m = true) :
    Sparse.rising (Sparse.erase m k) = true := by
  rw [Sparse.rising_iff] at h ⊢
  exact h.sublist List.filter_sublist

theorem Sparse.wf_set {α : Type} [DecidableEq α] (d : α) (m : Sparse α) (k : Nat) (v : α) (h : Sparse.wf d m = true) :
    Sparse.wf d (Sparse.set d m k v) = true := by
  simp only [Sparse.wf, Bool.and_eq_true, List.all_eq_true, decide_eq_true_eq] at h ⊢
  simp only [Sparse.set]
  split
  · exact ⟨Sparse.rising_erase m k h.1, fun e he => h.2 e (List.mem_filter.mp he).1⟩
  · refine ⟨Sparse.rising_put m k v h.1, fun e he => ?_⟩
    rcases Sparse.mem_put m k v e he with rfl | he
    · assumption
    · exact h.2 e he

/-! ### Memory -/

@[simp] theorem Mem.read_write_same (m : Mem) (a : Nat) (b : BitVec 8) : Mem.read (Mem.write m a b) a = b :=
  Sparse.get_set_same 0 m a b

theorem Mem.read_write_other (m : Mem) {a c : Nat} (b : BitVec 8) (h : c ≠ a) : Mem.read (Mem.write m a b) c = Mem.read m c :=
  Sparse.get_set_other 0 m b h

@[simp] theorem Mem.read_nil (a : Nat) : Mem.read [] a = 0 := rfl

theorem Mem.wf_nil : Mem.wf [] = true := rfl

theorem Mem.wf_write (m : Mem) (a : Nat) (b : BitVec 8) (h : Mem.wf m = true) : Mem.wf (Mem.write m a b) = true :=
  Sparse.wf_set 0 m a b h

theorem Mem.wf_store (n : Nat) (m : Mem) (a v : Nat) (h : Mem.wf m = true) : Mem.wf (Mem.store m a n v) = true := by
  induction n generalizing m a v with
  | zero => exact h
  | succ n ih => exact ih _ _ _ (Mem.wf_write m a _ h)

@[simp] theorem Mem.wf_writeAll (l : List (Nat × BitVec 8)) (m : Mem) (h : Mem.wf m = true) : Mem.wf (Mem.writeAll m l) = true := by
  induction l generalizing m with
  | nil => exact h
  | cons e r ih => exact ih _ (Mem.wf_write m e.1 e.2 h)

/-- A cell that a list of writes does not name reads as before. -/
theorem Mem.read_writeAll_other (l : List (Nat × BitVec 8)) (m : Mem) (a : Nat) (h : ∀ e ∈ l, e.1 ≠ a) :
    Mem.read (Mem.writeAll m l) a = Mem.read m a := by
  induction l generalizing m with
  | nil => rfl
  | cons e r ih =>
    have := ih (Mem.write m e.1 e.2) (fun x hx => h x (List.mem_cons_of_mem _ hx))
    exact this.trans (Mem.read_write_other m e.2 (Ne.symm (h e List.mem_cons_self)))

/-- A cell that a list of writes names once, last, reads as written. -/
theorem Mem.read_writeAll_last (l r : List (Nat × BitVec 8)) (m : Mem) (a : Nat) (b : BitVec 8) (h : ∀ e ∈ r, e.1 ≠ a) :
    Mem.read (Mem.writeAll m (l ++ (a, b) :: r)) a = b := by
  have : Mem.writeAll m (l ++ (a, b) :: r) = Mem.writeAll (Mem.write (Mem.writeAll m l) a b) r := by
    simp [Mem.writeAll, List.foldl_append]
  rw [this, Mem.read_writeAll_other r _ a h]
  simp

end Sys2Proof.Machine
end

