-- ==== Sys2Proof/Laws/State.lean ====
section
/-! SUPPORT. What each update of the state leaves and what it changes: one lemma per field per update. -/

namespace Sys2Proof.Machine

/-! ### Updates of the module -/

@[simp] theorem Mach.setCore_vclk (m : Mach) (c : Nat) (x : CoreState) : (m.setCore c x).vclk = m.vclk := rfl
@[simp] theorem Mach.setCore_mem (m : Mach) (c : Nat) (x : CoreState) : (m.setCore c x).mem = m.mem := rfl
@[simp] theorem Mach.setCore_clusters (m : Mach) (c : Nat) (x : CoreState) : (m.setCore c x).clusters = m.clusters := rfl
@[simp] theorem Mach.setCore_dies (m : Mach) (c : Nat) (x : CoreState) : (m.setCore c x).dies = m.dies := rfl
@[simp] theorem Mach.setCore_comps (m : Mach) (c : Nat) (x : CoreState) : (m.setCore c x).comps = m.comps := rfl
@[simp] theorem Mach.setCore_homes (m : Mach) (c : Nat) (x : CoreState) : (m.setCore c x).homes = m.homes := rfl
@[simp] theorem Mach.setCore_bounds (m : Mach) (c : Nat) (x : CoreState) : (m.setCore c x).bounds = m.bounds := rfl
@[simp] theorem Mach.setCore_msgs (m : Mach) (c : Nat) (x : CoreState) : (m.setCore c x).msgs = m.msgs := rfl
@[simp] theorem Mach.setCore_recent (m : Mach) (c : Nat) (x : CoreState) : (m.setCore c x).recent = m.recent := rfl
@[simp] theorem Mach.setCore_fw (m : Mach) (c : Nat) (x : CoreState) : (m.setCore c x).fw = m.fw := rfl
@[simp] theorem Mach.setCore_fleet (m : Mach) (c : Nat) (x : CoreState) : (m.setCore c x).fleet = m.fleet := rfl
@[simp] theorem Mach.setCore_fresh (m : Mach) (c : Nat) (x : CoreState) : (m.setCore c x).fresh = m.fresh := rfl

@[simp] theorem Mach.modCore_vclk (m : Mach) (c : Nat) (f : CoreState → CoreState) : (m.modCore c f).vclk = m.vclk := rfl
@[simp] theorem Mach.modCore_mem (m : Mach) (c : Nat) (f : CoreState → CoreState) : (m.modCore c f).mem = m.mem := rfl
@[simp] theorem Mach.modCore_clusters (m : Mach) (c : Nat) (f : CoreState → CoreState) : (m.modCore c f).clusters = m.clusters := rfl
@[simp] theorem Mach.modCore_dies (m : Mach) (c : Nat) (f : CoreState → CoreState) : (m.modCore c f).dies = m.dies := rfl
@[simp] theorem Mach.modCore_comps (m : Mach) (c : Nat) (f : CoreState → CoreState) : (m.modCore c f).comps = m.comps := rfl
@[simp] theorem Mach.modCore_homes (m : Mach) (c : Nat) (f : CoreState → CoreState) : (m.modCore c f).homes = m.homes := rfl
@[simp] theorem Mach.modCore_bounds (m : Mach) (c : Nat) (f : CoreState → CoreState) : (m.modCore c f).bounds = m.bounds := rfl
@[simp] theorem Mach.modCore_msgs (m : Mach) (c : Nat) (f : CoreState → CoreState) : (m.modCore c f).msgs = m.msgs := rfl
@[simp] theorem Mach.modCore_recent (m : Mach) (c : Nat) (f : CoreState → CoreState) : (m.modCore c f).recent = m.recent := rfl
@[simp] theorem Mach.modCore_fw (m : Mach) (c : Nat) (f : CoreState → CoreState) : (m.modCore c f).fw = m.fw := rfl
@[simp] theorem Mach.modCore_fleet (m : Mach) (c : Nat) (f : CoreState → CoreState) : (m.modCore c f).fleet = m.fleet := rfl
@[simp] theorem Mach.modCore_fresh (m : Mach) (c : Nat) (f : CoreState → CoreState) : (m.modCore c f).fresh = m.fresh := rfl

@[simp] theorem Mach.mapCores_vclk (m : Mach) (f : Nat → CoreState → CoreState) : (m.mapCores f).vclk = m.vclk := rfl
@[simp] theorem Mach.mapCores_mem (m : Mach) (f : Nat → CoreState → CoreState) : (m.mapCores f).mem = m.mem := rfl
@[simp] theorem Mach.mapCores_clusters (m : Mach) (f : Nat → CoreState → CoreState) : (m.mapCores f).clusters = m.clusters := rfl
@[simp] theorem Mach.mapCores_dies (m : Mach) (f : Nat → CoreState → CoreState) : (m.mapCores f).dies = m.dies := rfl
@[simp] theorem Mach.mapCores_comps (m : Mach) (f : Nat → CoreState → CoreState) : (m.mapCores f).comps = m.comps := rfl
@[simp] theorem Mach.mapCores_homes (m : Mach) (f : Nat → CoreState → CoreState) : (m.mapCores f).homes = m.homes := rfl
@[simp] theorem Mach.mapCores_bounds (m : Mach) (f : Nat → CoreState → CoreState) : (m.mapCores f).bounds = m.bounds := rfl
@[simp] theorem Mach.mapCores_msgs (m : Mach) (f : Nat → CoreState → CoreState) : (m.mapCores f).msgs = m.msgs := rfl
@[simp] theorem Mach.mapCores_recent (m : Mach) (f : Nat → CoreState → CoreState) : (m.mapCores f).recent = m.recent := rfl
@[simp] theorem Mach.mapCores_fw (m : Mach) (f : Nat → CoreState → CoreState) : (m.mapCores f).fw = m.fw := rfl
@[simp] theorem Mach.mapCores_fleet (m : Mach) (f : Nat → CoreState → CoreState) : (m.mapCores f).fleet = m.fleet := rfl
@[simp] theorem Mach.mapCores_fresh (m : Mach) (f : Nat → CoreState → CoreState) : (m.mapCores f).fresh = m.fresh := rfl

@[simp] theorem Mach.modCluster_vclk (m : Mach) (k : Nat) (f : Cluster → Cluster) : (m.modCluster k f).vclk = m.vclk := rfl
@[simp] theorem Mach.modCluster_mem (m : Mach) (k : Nat) (f : Cluster → Cluster) : (m.modCluster k f).mem = m.mem := rfl
@[simp] theorem Mach.modCluster_cores (m : Mach) (k : Nat) (f : Cluster → Cluster) : (m.modCluster k f).cores = m.cores := rfl
@[simp] theorem Mach.modCluster_dies (m : Mach) (k : Nat) (f : Cluster → Cluster) : (m.modCluster k f).dies = m.dies := rfl
@[simp] theorem Mach.modCluster_comps (m : Mach) (k : Nat) (f : Cluster → Cluster) : (m.modCluster k f).comps = m.comps := rfl
@[simp] theorem Mach.modCluster_homes (m : Mach) (k : Nat) (f : Cluster → Cluster) : (m.modCluster k f).homes = m.homes := rfl
@[simp] theorem Mach.modCluster_bounds (m : Mach) (k : Nat) (f : Cluster → Cluster) : (m.modCluster k f).bounds = m.bounds := rfl
@[simp] theorem Mach.modCluster_msgs (m : Mach) (k : Nat) (f : Cluster → Cluster) : (m.modCluster k f).msgs = m.msgs := rfl
@[simp] theorem Mach.modCluster_recent (m : Mach) (k : Nat) (f : Cluster → Cluster) : (m.modCluster k f).recent = m.recent := rfl
@[simp] theorem Mach.modCluster_fw (m : Mach) (k : Nat) (f : Cluster → Cluster) : (m.modCluster k f).fw = m.fw := rfl
@[simp] theorem Mach.modCluster_fleet (m : Mach) (k : Nat) (f : Cluster → Cluster) : (m.modCluster k f).fleet = m.fleet := rfl
@[simp] theorem Mach.modCluster_fresh (m : Mach) (k : Nat) (f : Cluster → Cluster) : (m.modCluster k f).fresh = m.fresh := rfl

@[simp] theorem Mach.modDie_vclk (m : Mach) (d : Nat) (f : Die → Die) : (m.modDie d f).vclk = m.vclk := rfl
@[simp] theorem Mach.modDie_mem (m : Mach) (d : Nat) (f : Die → Die) : (m.modDie d f).mem = m.mem := rfl
@[simp] theorem Mach.modDie_cores (m : Mach) (d : Nat) (f : Die → Die) : (m.modDie d f).cores = m.cores := rfl
@[simp] theorem Mach.modDie_clusters (m : Mach) (d : Nat) (f : Die → Die) : (m.modDie d f).clusters = m.clusters := rfl
@[simp] theorem Mach.modDie_comps (m : Mach) (d : Nat) (f : Die → Die) : (m.modDie d f).comps = m.comps := rfl
@[simp] theorem Mach.modDie_homes (m : Mach) (d : Nat) (f : Die → Die) : (m.modDie d f).homes = m.homes := rfl
@[simp] theorem Mach.modDie_bounds (m : Mach) (d : Nat) (f : Die → Die) : (m.modDie d f).bounds = m.bounds := rfl
@[simp] theorem Mach.modDie_msgs (m : Mach) (d : Nat) (f : Die → Die) : (m.modDie d f).msgs = m.msgs := rfl
@[simp] theorem Mach.modDie_recent (m : Mach) (d : Nat) (f : Die → Die) : (m.modDie d f).recent = m.recent := rfl
@[simp] theorem Mach.modDie_fw (m : Mach) (d : Nat) (f : Die → Die) : (m.modDie d f).fw = m.fw := rfl
@[simp] theorem Mach.modDie_fleet (m : Mach) (d : Nat) (f : Die → Die) : (m.modDie d f).fleet = m.fleet := rfl
@[simp] theorem Mach.modDie_fresh (m : Mach) (d : Nat) (f : Die → Die) : (m.modDie d f).fresh = m.fresh := rfl

@[simp] theorem Mach.modComp_vclk (m : Mach) (k : Nat) (f : Composer → Composer) : (m.modComp k f).vclk = m.vclk := rfl
@[simp] theorem Mach.modComp_mem (m : Mach) (k : Nat) (f : Composer → Composer) : (m.modComp k f).mem = m.mem := rfl
@[simp] theorem Mach.modComp_cores (m : Mach) (k : Nat) (f : Composer → Composer) : (m.modComp k f).cores = m.cores := rfl
@[simp] theorem Mach.modComp_clusters (m : Mach) (k : Nat) (f : Composer → Composer) : (m.modComp k f).clusters = m.clusters := rfl
@[simp] theorem Mach.modComp_dies (m : Mach) (k : Nat) (f : Composer → Composer) : (m.modComp k f).dies = m.dies := rfl
@[simp] theorem Mach.modComp_homes (m : Mach) (k : Nat) (f : Composer → Composer) : (m.modComp k f).homes = m.homes := rfl
@[simp] theorem Mach.modComp_bounds (m : Mach) (k : Nat) (f : Composer → Composer) : (m.modComp k f).bounds = m.bounds := rfl
@[simp] theorem Mach.modComp_msgs (m : Mach) (k : Nat) (f : Composer → Composer) : (m.modComp k f).msgs = m.msgs := rfl
@[simp] theorem Mach.modComp_recent (m : Mach) (k : Nat) (f : Composer → Composer) : (m.modComp k f).recent = m.recent := rfl
@[simp] theorem Mach.modComp_fw (m : Mach) (k : Nat) (f : Composer → Composer) : (m.modComp k f).fw = m.fw := rfl
@[simp] theorem Mach.modComp_fleet (m : Mach) (k : Nat) (f : Composer → Composer) : (m.modComp k f).fleet = m.fleet := rfl
@[simp] theorem Mach.modComp_fresh (m : Mach) (k : Nat) (f : Composer → Composer) : (m.modComp k f).fresh = m.fresh := rfl

@[simp] theorem Mach.modHart_vclk (m : Mach) (h : Nat) (f : Hart → Hart) : (m.modHart h f).vclk = m.vclk := rfl
@[simp] theorem Mach.modHart_mem (m : Mach) (h : Nat) (f : Hart → Hart) : (m.modHart h f).mem = m.mem := rfl
@[simp] theorem Mach.modHart_cores (m : Mach) (h : Nat) (f : Hart → Hart) : (m.modHart h f).cores = m.cores := rfl
@[simp] theorem Mach.modHart_clusters (m : Mach) (h : Nat) (f : Hart → Hart) : (m.modHart h f).clusters = m.clusters := rfl
@[simp] theorem Mach.modHart_dies (m : Mach) (h : Nat) (f : Hart → Hart) : (m.modHart h f).dies = m.dies := rfl
@[simp] theorem Mach.modHart_homes (m : Mach) (h : Nat) (f : Hart → Hart) : (m.modHart h f).homes = m.homes := rfl
@[simp] theorem Mach.modHart_bounds (m : Mach) (h : Nat) (f : Hart → Hart) : (m.modHart h f).bounds = m.bounds := rfl
@[simp] theorem Mach.modHart_msgs (m : Mach) (h : Nat) (f : Hart → Hart) : (m.modHart h f).msgs = m.msgs := rfl
@[simp] theorem Mach.modHart_recent (m : Mach) (h : Nat) (f : Hart → Hart) : (m.modHart h f).recent = m.recent := rfl
@[simp] theorem Mach.modHart_fw (m : Mach) (h : Nat) (f : Hart → Hart) : (m.modHart h f).fw = m.fw := rfl
@[simp] theorem Mach.modHart_fleet (m : Mach) (h : Nat) (f : Hart → Hart) : (m.modHart h f).fleet = m.fleet := rfl
@[simp] theorem Mach.modHart_fresh (m : Mach) (h : Nat) (f : Hart → Hart) : (m.modHart h f).fresh = m.fresh := rfl

@[simp] theorem Mach.modLaunch_vclk (m : Mach) (n : BitVec 32) (f : Launch → Launch) : (m.modLaunch n f).vclk = m.vclk := rfl
@[simp] theorem Mach.modLaunch_mem (m : Mach) (n : BitVec 32) (f : Launch → Launch) : (m.modLaunch n f).mem = m.mem := rfl
@[simp] theorem Mach.modLaunch_cores (m : Mach) (n : BitVec 32) (f : Launch → Launch) : (m.modLaunch n f).cores = m.cores := rfl
@[simp] theorem Mach.modLaunch_clusters (m : Mach) (n : BitVec 32) (f : Launch → Launch) : (m.modLaunch n f).clusters = m.clusters := rfl
@[simp] theorem Mach.modLaunch_dies (m : Mach) (n : BitVec 32) (f : Launch → Launch) : (m.modLaunch n f).dies = m.dies := rfl
@[simp] theorem Mach.modLaunch_comps (m : Mach) (n : BitVec 32) (f : Launch → Launch) : (m.modLaunch n f).comps = m.comps := rfl
@[simp] theorem Mach.modLaunch_homes (m : Mach) (n : BitVec 32) (f : Launch → Launch) : (m.modLaunch n f).homes = m.homes := rfl
@[simp] theorem Mach.modLaunch_bounds (m : Mach) (n : BitVec 32) (f : Launch → Launch) : (m.modLaunch n f).bounds = m.bounds := rfl
@[simp] theorem Mach.modLaunch_msgs (m : Mach) (n : BitVec 32) (f : Launch → Launch) : (m.modLaunch n f).msgs = m.msgs := rfl
@[simp] theorem Mach.modLaunch_recent (m : Mach) (n : BitVec 32) (f : Launch → Launch) : (m.modLaunch n f).recent = m.recent := rfl
@[simp] theorem Mach.modLaunch_fleet (m : Mach) (n : BitVec 32) (f : Launch → Launch) : (m.modLaunch n f).fleet = m.fleet := rfl
@[simp] theorem Mach.modLaunch_fresh (m : Mach) (n : BitVec 32) (f : Launch → Launch) : (m.modLaunch n f).fresh = m.fresh := rfl

/-! ### Reading an agent after an update -/

@[simp] theorem Mach.core_setCore (m : Mach) (c : Nat) (x : CoreState) : (m.setCore c x).core c = x := by
  simp [Mach.core, Mach.setCore]

theorem Mach.core_setCore_other (m : Mach) {c k : Nat} (x : CoreState) (h : k ≠ c) : (m.setCore c x).core k = m.core k :=
  Sparse.get_put_other _ _ _ h

@[simp] theorem Mach.core_modCore (m : Mach) (c : Nat) (f : CoreState → CoreState) : (m.modCore c f).core c = f (m.core c) := by
  simp [Mach.modCore]

theorem Mach.core_modCore_other (m : Mach) {c k : Nat} (f : CoreState → CoreState) (h : k ≠ c) :
    (m.modCore c f).core k = m.core k := Mach.core_setCore_other m _ h

@[simp] theorem Mach.cluster_modCluster (m : Mach) (k : Nat) (f : Cluster → Cluster) :
    (m.modCluster k f).cluster k = f (m.cluster k) := by simp [Mach.cluster, Mach.modCluster]

@[simp] theorem Mach.die_modDie (m : Mach) (d : Nat) (f : Die → Die) : (m.modDie d f).die d = f (m.die d) := by
  simp [Mach.die, Mach.modDie]

@[simp] theorem Mach.comp_modComp (m : Mach) (k : Nat) (f : Composer → Composer) : (m.modComp k f).comp k = f (m.comp k) := by
  simp [Mach.comp, Mach.modComp]

@[simp] theorem Mach.hart_modHart (m : Mach) (h : Nat) (f : Hart → Hart) : (m.modHart h f).hart h = f (m.hart h) := by
  simp [Mach.hart, Mach.modHart, Composer.hart]

@[simp] theorem Mach.core_modCluster (m : Mach) (k : Nat) (f : Cluster → Cluster) (c : Nat) :
    (m.modCluster k f).core c = m.core c := rfl
@[simp] theorem Mach.core_modDie (m : Mach) (d : Nat) (f : Die → Die) (c : Nat) : (m.modDie d f).core c = m.core c := rfl
@[simp] theorem Mach.core_modComp (m : Mach) (k : Nat) (f : Composer → Composer) (c : Nat) :
    (m.modComp k f).core c = m.core c := rfl
@[simp] theorem Mach.core_modHart (m : Mach) (h : Nat) (f : Hart → Hart) (c : Nat) : (m.modHart h f).core c = m.core c := rfl
@[simp] theorem Mach.core_modLaunch (m : Mach) (n : BitVec 32) (f : Launch → Launch) (c : Nat) :
    (m.modLaunch n f).core c = m.core c := rfl
@[simp] theorem Mach.die_modCore (m : Mach) (c : Nat) (f : CoreState → CoreState) (d : Nat) :
    (m.modCore c f).die d = m.die d := rfl
@[simp] theorem Mach.cluster_modCore (m : Mach) (c : Nat) (f : CoreState → CoreState) (k : Nat) :
    (m.modCore c f).cluster k = m.cluster k := rfl
@[simp] theorem Mach.hart_modCore (m : Mach) (c : Nat) (f : CoreState → CoreState) (h : Nat) :
    (m.modCore c f).hart h = m.hart h := rfl

/-- Two changes of one core are one change. -/
theorem Sparse.put_put {α : Type} (m : Sparse α) (k : Nat) (v w : α) :
    Sparse.put (Sparse.put m k v) k w = Sparse.put m k w := by
  induction m with
  | nil => simp [Sparse.put]
  | cons e r ih =>
    obtain ⟨j, x⟩ := e
    by_cases h : k < j
    · simp [Sparse.put, h]
    · by_cases h' : k = j
      · subst h'; simp [Sparse.put]
      · simp [Sparse.put, h, h', ih]

@[simp] theorem Mach.modCore_modCore (m : Mach) (c : Nat) (f g : CoreState → CoreState) :
    (m.modCore c f).modCore c g = m.modCore c (fun x => g (f x)) := by
  simp [Mach.modCore, Mach.setCore, Sparse.put_put]
  simp [Mach.core]

/-! ### Updates of a core -/

@[simp] theorem pushResult_regs (x : CoreState) (st : Stream) (n : Nat) (k : LatClass) (d : Option Dest) (v : VData) (l : BitVec 64) (t : Option (BitVec 5)) (ld : Bool) (far : Option Nat) :
    (pushResult x st n k d v l t ld far).regs = x.regs := by cases d <;> rfl
@[simp] theorem pushResult_mon (x : CoreState) (st : Stream) (n : Nat) (k : LatClass) (d : Option Dest) (v : VData) (l : BitVec 64) (t : Option (BitVec 5)) (ld : Bool) (far : Option Nat) :
    (pushResult x st n k d v l t ld far).mon = x.mon := by cases d <;> rfl
@[simp] theorem pushResult_tiles (x : CoreState) (st : Stream) (n : Nat) (k : LatClass) (d : Option Dest) (v : VData) (l : BitVec 64) (t : Option (BitVec 5)) (ld : Bool) (far : Option Nat) :
    (pushResult x st n k d v l t ld far).tiles = x.tiles := by cases d <;> rfl
@[simp] theorem pushResult_ctl (x : CoreState) (st : Stream) (n : Nat) (k : LatClass) (d : Option Dest) (v : VData) (l : BitVec 64) (t : Option (BitVec 5)) (ld : Bool) (far : Option Nat) :
    (pushResult x st n k d v l t ld far).ctl = x.ctl := by cases d <;> rfl
@[simp] theorem pushResult_trap (x : CoreState) (st : Stream) (n : Nat) (k : LatClass) (d : Option Dest) (v : VData) (l : BitVec 64) (t : Option (BitVec 5)) (ld : Bool) (far : Option Nat) :
    (pushResult x st n k d v l t ld far).trap = x.trap := by cases d <;> rfl
@[simp] theorem pushResult_zones (x : CoreState) (st : Stream) (n : Nat) (k : LatClass) (d : Option Dest) (v : VData) (l : BitVec 64) (t : Option (BitVec 5)) (ld : Bool) (far : Option Nat) :
    (pushResult x st n k d v l t ld far).zones = x.zones := by cases d <;> rfl
@[simp] theorem pushResult_front (x : CoreState) (st : Stream) (n : Nat) (k : LatClass) (d : Option Dest) (v : VData) (l : BitVec 64) (t : Option (BitVec 5)) (ld : Bool) (far : Option Nat) :
    (pushResult x st n k d v l t ld far).front = x.front := by cases d <;> rfl
@[simp] theorem pushResult_cnt (x : CoreState) (st : Stream) (n : Nat) (k : LatClass) (d : Option Dest) (v : VData) (l : BitVec 64) (t : Option (BitVec 5)) (ld : Bool) (far : Option Nat) :
    (pushResult x st n k d v l t ld far).cnt = x.cnt := by cases d <;> rfl
@[simp] theorem pushResult_arrive (x : CoreState) (st : Stream) (n : Nat) (k : LatClass) (d : Option Dest) (v : VData) (l : BitVec 64) (t : Option (BitVec 5)) (ld : Bool) (far : Option Nat) :
    (pushResult x st n k d v l t ld far).arrive = x.arrive := by cases d <;> rfl
@[simp] theorem pushResult_monitor (x : CoreState) (st : Stream) (n : Nat) (k : LatClass) (d : Option Dest) (v : VData) (l : BitVec 64) (t : Option (BitVec 5)) (ld : Bool) (far : Option Nat) :
    (pushResult x st n k d v l t ld far).monitor = x.monitor := by cases d <;> rfl
@[simp] theorem pushResult_shadows (x : CoreState) (st : Stream) (n : Nat) (k : LatClass) (d : Option Dest) (v : VData) (l : BitVec 64) (t : Option (BitVec 5)) (ld : Bool) (far : Option Nat) :
    (pushResult x st n k d v l t ld far).shadows = x.shadows := by cases d <;> rfl
@[simp] theorem pushResult_region (x : CoreState) (st : Stream) (n : Nat) (k : LatClass) (d : Option Dest) (v : VData) (l : BitVec 64) (t : Option (BitVec 5)) (ld : Bool) (far : Option Nat) :
    (pushResult x st n k d v l t ld far).region = x.region := by cases d <;> rfl
@[simp] theorem pushResult_releasing (x : CoreState) (st : Stream) (n : Nat) (k : LatClass) (d : Option Dest) (v : VData) (l : BitVec 64) (t : Option (BitVec 5)) (ld : Bool) (far : Option Nat) :
    (pushResult x st n k d v l t ld far).releasing = x.releasing := by cases d <;> rfl
@[simp] theorem pushResult_loc (x : CoreState) (st : Stream) (n : Nat) (k : LatClass) (d : Option Dest) (v : VData) (l : BitVec 64) (t : Option (BitVec 5)) (ld : Bool) (far : Option Nat) :
    (pushResult x st n k d v l t ld far).loc = x.loc := by cases d <;> rfl
@[simp] theorem pushResult_caches (x : CoreState) (st : Stream) (n : Nat) (k : LatClass) (d : Option Dest) (v : VData) (l : BitVec 64) (t : Option (BitVec 5)) (ld : Bool) (far : Option Nat) :
    (pushResult x st n k d v l t ld far).caches = x.caches := by cases d <;> rfl
@[simp] theorem pushResult_queues (x : CoreState) (st : Stream) (n : Nat) (k : LatClass) (d : Option Dest) (v : VData) (l : BitVec 64) (t : Option (BitVec 5)) (ld : Bool) (far : Option Nat) :
    (pushResult x st n k d v l t ld far).queues = x.queues := by cases d <;> rfl
@[simp] theorem pushResult_reg (x : CoreState) (st : Stream) (n : Nat) (k : LatClass) (d : Option Dest) (v : VData) (l : BitVec 64) (t : Option (BitVec 5)) (ld : Bool) (far : Option Nat) :
    (pushResult x st n k d v l t ld far).reg = x.reg := by cases d <;> rfl
@[simp] theorem pushResult_replay (x : CoreState) (st : Stream) (n : Nat) (k : LatClass) (d : Option Dest) (v : VData) (l : BitVec 64) (t : Option (BitVec 5)) (ld : Bool) (far : Option Nat) :
    (pushResult x st n k d v l t ld far).replay = x.replay := by cases d <;> rfl
@[simp] theorem pushResult_twilight (x : CoreState) (st : Stream) (n : Nat) (k : LatClass) (d : Option Dest) (v : VData) (l : BitVec 64) (t : Option (BitVec 5)) (ld : Bool) (far : Option Nat) :
    (pushResult x st n k d v l t ld far).twilight = x.twilight := by cases d <;> rfl
@[simp] theorem pushResult_limitPhase (x : CoreState) (st : Stream) (n : Nat) (k : LatClass) (d : Option Dest) (v : VData) (l : BitVec 64) (t : Option (BitVec 5)) (ld : Bool) (far : Option Nat) :
    (pushResult x st n k d v l t ld far).limitPhase = x.limitPhase := by cases d <;> rfl

@[simp] theorem CoreState.setTileTag_regs (x : CoreState) (n : Nat) (t : BitVec 5) : (x.setTileTag n t).regs = x.regs := rfl
@[simp] theorem CoreState.setTileTag_mon (x : CoreState) (n : Nat) (t : BitVec 5) : (x.setTileTag n t).mon = x.mon := rfl
@[simp] theorem CoreState.setTileTag_ctl (x : CoreState) (n : Nat) (t : BitVec 5) : (x.setTileTag n t).ctl = x.ctl := rfl
@[simp] theorem CoreState.setTileTag_trap (x : CoreState) (n : Nat) (t : BitVec 5) : (x.setTileTag n t).trap = x.trap := rfl
@[simp] theorem CoreState.setTileTag_zones (x : CoreState) (n : Nat) (t : BitVec 5) : (x.setTileTag n t).zones = x.zones := rfl
@[simp] theorem CoreState.setTileTag_front (x : CoreState) (n : Nat) (t : BitVec 5) : (x.setTileTag n t).front = x.front := rfl
@[simp] theorem CoreState.setTileTag_cnt (x : CoreState) (n : Nat) (t : BitVec 5) : (x.setTileTag n t).cnt = x.cnt := rfl
@[simp] theorem CoreState.setTileTag_arrive (x : CoreState) (n : Nat) (t : BitVec 5) : (x.setTileTag n t).arrive = x.arrive := rfl
@[simp] theorem CoreState.setTileTag_monitor (x : CoreState) (n : Nat) (t : BitVec 5) : (x.setTileTag n t).monitor = x.monitor := rfl
@[simp] theorem CoreState.setTileTag_flight (x : CoreState) (n : Nat) (t : BitVec 5) : (x.setTileTag n t).flight = x.flight := rfl
@[simp] theorem CoreState.setTileTag_shadows (x : CoreState) (n : Nat) (t : BitVec 5) : (x.setTileTag n t).shadows = x.shadows := rfl
@[simp] theorem CoreState.setTileTag_region (x : CoreState) (n : Nat) (t : BitVec 5) : (x.setTileTag n t).region = x.region := rfl
@[simp] theorem CoreState.setTileTag_releasing (x : CoreState) (n : Nat) (t : BitVec 5) : (x.setTileTag n t).releasing = x.releasing := rfl
@[simp] theorem CoreState.setTileTag_loc (x : CoreState) (n : Nat) (t : BitVec 5) : (x.setTileTag n t).loc = x.loc := rfl
@[simp] theorem CoreState.setTileTag_caches (x : CoreState) (n : Nat) (t : BitVec 5) : (x.setTileTag n t).caches = x.caches := rfl
@[simp] theorem CoreState.setTileTag_queues (x : CoreState) (n : Nat) (t : BitVec 5) : (x.setTileTag n t).queues = x.queues := rfl
@[simp] theorem CoreState.setTileTag_reg (x : CoreState) (n : Nat) (t : BitVec 5) : (x.setTileTag n t).reg = x.reg := rfl
@[simp] theorem CoreState.setTileTag_replay (x : CoreState) (n : Nat) (t : BitVec 5) : (x.setTileTag n t).replay = x.replay := rfl
@[simp] theorem CoreState.setTileTag_twilight (x : CoreState) (n : Nat) (t : BitVec 5) : (x.setTileTag n t).twilight = x.twilight := rfl
@[simp] theorem CoreState.setTileTag_limitPhase (x : CoreState) (n : Nat) (t : BitVec 5) : (x.setTileTag n t).limitPhase = x.limitPhase := rfl

@[simp] theorem CoreState.setShape_mon (x : CoreState) (e r : Nat) (p : ShapePair) : (x.setShape e r p).mon = x.mon := rfl
@[simp] theorem CoreState.setShape_tiles (x : CoreState) (e r : Nat) (p : ShapePair) : (x.setShape e r p).tiles = x.tiles := rfl
@[simp] theorem CoreState.setShape_ctl (x : CoreState) (e r : Nat) (p : ShapePair) : (x.setShape e r p).ctl = x.ctl := rfl
@[simp] theorem CoreState.setShape_trap (x : CoreState) (e r : Nat) (p : ShapePair) : (x.setShape e r p).trap = x.trap := rfl
@[simp] theorem CoreState.setShape_zones (x : CoreState) (e r : Nat) (p : ShapePair) : (x.setShape e r p).zones = x.zones := rfl
@[simp] theorem CoreState.setShape_front (x : CoreState) (e r : Nat) (p : ShapePair) : (x.setShape e r p).front = x.front := rfl
@[simp] theorem CoreState.setShape_cnt (x : CoreState) (e r : Nat) (p : ShapePair) : (x.setShape e r p).cnt = x.cnt := rfl
@[simp] theorem CoreState.setShape_arrive (x : CoreState) (e r : Nat) (p : ShapePair) : (x.setShape e r p).arrive = x.arrive := rfl
@[simp] theorem CoreState.setShape_monitor (x : CoreState) (e r : Nat) (p : ShapePair) : (x.setShape e r p).monitor = x.monitor := rfl
@[simp] theorem CoreState.setShape_flight (x : CoreState) (e r : Nat) (p : ShapePair) : (x.setShape e r p).flight = x.flight := rfl
@[simp] theorem CoreState.setShape_shadows (x : CoreState) (e r : Nat) (p : ShapePair) : (x.setShape e r p).shadows = x.shadows := rfl
@[simp] theorem CoreState.setShape_region (x : CoreState) (e r : Nat) (p : ShapePair) : (x.setShape e r p).region = x.region := rfl
@[simp] theorem CoreState.setShape_releasing (x : CoreState) (e r : Nat) (p : ShapePair) : (x.setShape e r p).releasing = x.releasing := rfl
@[simp] theorem CoreState.setShape_loc (x : CoreState) (e r : Nat) (p : ShapePair) : (x.setShape e r p).loc = x.loc := rfl
@[simp] theorem CoreState.setShape_caches (x : CoreState) (e r : Nat) (p : ShapePair) : (x.setShape e r p).caches = x.caches := rfl
@[simp] theorem CoreState.setShape_queues (x : CoreState) (e r : Nat) (p : ShapePair) : (x.setShape e r p).queues = x.queues := rfl
@[simp] theorem CoreState.setShape_reg (x : CoreState) (e r : Nat) (p : ShapePair) : (x.setShape e r p).reg = x.reg := rfl
@[simp] theorem CoreState.setShape_replay (x : CoreState) (e r : Nat) (p : ShapePair) : (x.setShape e r p).replay = x.replay := rfl
@[simp] theorem CoreState.setShape_twilight (x : CoreState) (e r : Nat) (p : ShapePair) : (x.setShape e r p).twilight = x.twilight := rfl
@[simp] theorem CoreState.setShape_limitPhase (x : CoreState) (e r : Nat) (p : ShapePair) : (x.setShape e r p).limitPhase = x.limitPhase := rfl

@[simp] theorem CoreState.modZone_regs (x : CoreState) (k : Nat) (f : Zone → Zone) : (x.modZone k f).regs = x.regs := rfl
@[simp] theorem CoreState.modZone_mon (x : CoreState) (k : Nat) (f : Zone → Zone) : (x.modZone k f).mon = x.mon := rfl
@[simp] theorem CoreState.modZone_tiles (x : CoreState) (k : Nat) (f : Zone → Zone) : (x.modZone k f).tiles = x.tiles := rfl
@[simp] theorem CoreState.modZone_ctl (x : CoreState) (k : Nat) (f : Zone → Zone) : (x.modZone k f).ctl = x.ctl := rfl
@[simp] theorem CoreState.modZone_trap (x : CoreState) (k : Nat) (f : Zone → Zone) : (x.modZone k f).trap = x.trap := rfl
@[simp] theorem CoreState.modZone_front (x : CoreState) (k : Nat) (f : Zone → Zone) : (x.modZone k f).front = x.front := rfl
@[simp] theorem CoreState.modZone_cnt (x : CoreState) (k : Nat) (f : Zone → Zone) : (x.modZone k f).cnt = x.cnt := rfl
@[simp] theorem CoreState.modZone_arrive (x : CoreState) (k : Nat) (f : Zone → Zone) : (x.modZone k f).arrive = x.arrive := rfl
@[simp] theorem CoreState.modZone_monitor (x : CoreState) (k : Nat) (f : Zone → Zone) : (x.modZone k f).monitor = x.monitor := rfl
@[simp] theorem CoreState.modZone_flight (x : CoreState) (k : Nat) (f : Zone → Zone) : (x.modZone k f).flight = x.flight := rfl
@[simp] theorem CoreState.modZone_shadows (x : CoreState) (k : Nat) (f : Zone → Zone) : (x.modZone k f).shadows = x.shadows := rfl
@[simp] theorem CoreState.modZone_region (x : CoreState) (k : Nat) (f : Zone → Zone) : (x.modZone k f).region = x.region := rfl
@[simp] theorem CoreState.modZone_releasing (x : CoreState) (k : Nat) (f : Zone → Zone) : (x.modZone k f).releasing = x.releasing := rfl
@[simp] theorem CoreState.modZone_loc (x : CoreState) (k : Nat) (f : Zone → Zone) : (x.modZone k f).loc = x.loc := rfl
@[simp] theorem CoreState.modZone_caches (x : CoreState) (k : Nat) (f : Zone → Zone) : (x.modZone k f).caches = x.caches := rfl
@[simp] theorem CoreState.modZone_queues (x : CoreState) (k : Nat) (f : Zone → Zone) : (x.modZone k f).queues = x.queues := rfl
@[simp] theorem CoreState.modZone_reg (x : CoreState) (k : Nat) (f : Zone → Zone) : (x.modZone k f).reg = x.reg := rfl
@[simp] theorem CoreState.modZone_replay (x : CoreState) (k : Nat) (f : Zone → Zone) : (x.modZone k f).replay = x.replay := rfl
@[simp] theorem CoreState.modZone_twilight (x : CoreState) (k : Nat) (f : Zone → Zone) : (x.modZone k f).twilight = x.twilight := rfl
@[simp] theorem CoreState.modZone_limitPhase (x : CoreState) (k : Nat) (f : Zone → Zone) : (x.modZone k f).limitPhase = x.limitPhase := rfl

@[simp] theorem CoreState.modStream_regs (x : CoreState) (st : Stream) (f : StreamState → StreamState) :
    (x.modStream st f).regs = x.regs := by cases st <;> rfl
@[simp] theorem CoreState.modStream_mon (x : CoreState) (st : Stream) (f : StreamState → StreamState) :
    (x.modStream st f).mon = x.mon := by cases st <;> rfl
@[simp] theorem CoreState.modStream_tiles (x : CoreState) (st : Stream) (f : StreamState → StreamState) :
    (x.modStream st f).tiles = x.tiles := by cases st <;> rfl
@[simp] theorem CoreState.modStream_ctl (x : CoreState) (st : Stream) (f : StreamState → StreamState) :
    (x.modStream st f).ctl = x.ctl := by cases st <;> rfl
@[simp] theorem CoreState.modStream_trap (x : CoreState) (st : Stream) (f : StreamState → StreamState) :
    (x.modStream st f).trap = x.trap := by cases st <;> rfl
@[simp] theorem CoreState.modStream_zones (x : CoreState) (st : Stream) (f : StreamState → StreamState) :
    (x.modStream st f).zones = x.zones := by cases st <;> rfl
@[simp] theorem CoreState.modStream_cnt (x : CoreState) (st : Stream) (f : StreamState → StreamState) :
    (x.modStream st f).cnt = x.cnt := by cases st <;> rfl
@[simp] theorem CoreState.modStream_arrive (x : CoreState) (st : Stream) (f : StreamState → StreamState) :
    (x.modStream st f).arrive = x.arrive := by cases st <;> rfl
@[simp] theorem CoreState.modStream_monitor (x : CoreState) (st : Stream) (f : StreamState → StreamState) :
    (x.modStream st f).monitor = x.monitor := by cases st <;> rfl
@[simp] theorem CoreState.modStream_flight (x : CoreState) (st : Stream) (f : StreamState → StreamState) :
    (x.modStream st f).flight = x.flight := by cases st <;> rfl
@[simp] theorem CoreState.modStream_shadows (x : CoreState) (st : Stream) (f : StreamState → StreamState) :
    (x.modStream st f).shadows = x.shadows := by cases st <;> rfl
@[simp] theorem CoreState.modStream_region (x : CoreState) (st : Stream) (f : StreamState → StreamState) :
    (x.modStream st f).region = x.region := by cases st <;> rfl
@[simp] theorem CoreState.modStream_releasing (x : CoreState) (st : Stream) (f : StreamState → StreamState) :
    (x.modStream st f).releasing = x.releasing := by cases st <;> rfl
@[simp] theorem CoreState.modStream_loc (x : CoreState) (st : Stream) (f : StreamState → StreamState) :
    (x.modStream st f).loc = x.loc := by cases st <;> rfl
@[simp] theorem CoreState.modStream_caches (x : CoreState) (st : Stream) (f : StreamState → StreamState) :
    (x.modStream st f).caches = x.caches := by cases st <;> rfl
@[simp] theorem CoreState.modStream_queues (x : CoreState) (st : Stream) (f : StreamState → StreamState) :
    (x.modStream st f).queues = x.queues := by cases st <;> rfl
@[simp] theorem CoreState.modStream_reg (x : CoreState) (st : Stream) (f : StreamState → StreamState) :
    (x.modStream st f).reg = x.reg := by cases st <;> rfl
@[simp] theorem CoreState.modStream_replay (x : CoreState) (st : Stream) (f : StreamState → StreamState) :
    (x.modStream st f).replay = x.replay := by cases st <;> rfl
@[simp] theorem CoreState.modStream_twilight (x : CoreState) (st : Stream) (f : StreamState → StreamState) :
    (x.modStream st f).twilight = x.twilight := by cases st <;> rfl
@[simp] theorem CoreState.modStream_limitPhase (x : CoreState) (st : Stream) (f : StreamState → StreamState) :
    (x.modStream st f).limitPhase = x.limitPhase := by cases st <;> rfl

@[simp] theorem CoreState.streamState_modStream (x : CoreState) (st : Stream) (f : StreamState → StreamState) :
    (x.modStream st f).streamState st = f (x.streamState st) := by cases st <;> rfl

end Sys2Proof.Machine
end

