-- ==== Sys2Proof/Laws/Cache.lean ====
section
/-! SUPPORT. The caches, the directories and the homes keep who holds what, and write no byte of global memory. -/

namespace Sys2Proof.Machine

/-- A fold of steps that leave global memory as it is leaves it. -/
theorem Mach.mem_foldl {α : Type} (f : Mach → α → Mach) (hf : ∀ m a, (f m a).mem = m.mem) (l : List α) (m : Mach) :
    (l.foldl f m).mem = m.mem := by
  induction l generalizing m with
  | nil => rfl
  | cons a r ih => rw [List.foldl_cons, ih, hf]

@[simp] theorem Mach.setDir_mem (m : Mach) (d line : Nat) (e : DirEntry) : (m.setDir d line e).mem = m.mem := rfl
@[simp] theorem Mach.setHome_mem (m : Mach) (line : Nat) (h : HomeEntry) : (m.setHome line h).mem = m.mem := rfl
@[simp] theorem Mach.dropDie_mem (m : Mach) (d line : Nat) : (m.dropDie d line).mem = m.mem := rfl
@[simp] theorem Mach.homeOwned_mem (m : Mach) (d line : Nat) : (m.homeOwned d line).mem = m.mem := rfl
@[simp] theorem Mach.homeInvalidate_mem (m : Mach) (line : Nat) (ss : List Nat) : (m.homeInvalidate line ss).mem = m.mem := rfl

@[simp] theorem Mach.evict_mem (m : Mach) (c line : Nat) : (m.evict c line).mem = m.mem := by
  dsimp only [Mach.evict]
  split <;> rfl

@[simp] theorem Mach.makeRoom_mem (m : Mach) (c line : Nat) : (m.makeRoom c line).mem = m.mem := by
  dsimp only [Mach.makeRoom]
  repeat' split
  all_goals simp

@[simp] theorem Mach.fillSector_mem (m : Mach) (c line s : Nat) (v : Sector) : (m.fillSector c line s v).mem = m.mem := by
  simp [Mach.fillSector]

@[simp] theorem Mach.recallOwner_mem (m : Mach) (o line : Nat) : (m.recallOwner o line).mem = m.mem := by
  dsimp only [Mach.recallOwner]
  split <;> simp

@[simp] theorem Mach.homeMark_mem (m : Mach) (d line : Nat) : (m.homeMark d line).mem = m.mem := by
  dsimp only [Mach.homeMark]
  repeat' split
  all_goals simp

@[simp] theorem Mach.homeLease_mem (m : Mach) (d line : Nat) (t : Tick) : (m.homeLease d line t).mem = m.mem := by
  dsimp only [Mach.homeLease]
  repeat' split
  all_goals simp

@[simp] theorem Mach.homeRecall_mem (m : Mach) (line : Nat) : (m.homeRecall line).mem = m.mem := by
  dsimp only [Mach.homeRecall]
  split <;> simp

@[simp] theorem Mach.leaveL2_mem (m : Mach) (d line : Nat) : (m.leaveL2 d line).mem = m.mem := by
  dsimp only [Mach.leaveL2]
  split <;> simp

@[simp] theorem Mach.allocate_mem (m : Mach) (d line : Nat) : (m.allocate d line).1.mem = m.mem := by
  dsimp only [Mach.allocate]
  repeat' split
  all_goals simp

@[simp] theorem Mach.dirEntry_mem (m : Mach) (d line : Nat) : (m.dirEntry d line).1.mem = m.mem := by
  dsimp only [Mach.dirEntry]
  split <;> simp

@[simp] theorem Mach.fillShared_mem (m : Mach) (d line : Nat) (e : DirEntry) (c s : Nat) : (m.fillShared d line e c s).mem = m.mem := by
  simp [Mach.fillShared]

@[simp] theorem Mach.fillRead_mem (m : Mach) (d line : Nat) (e : DirEntry) (c s : Nat) : (m.fillRead d line e c s).mem = m.mem := by
  dsimp only [Mach.fillRead]
  repeat' split
  all_goals simp

@[simp] theorem Mach.finishWrite_mem (m : Mach) (d line : Nat) (e : DirEntry) (r : DirReq) (kind : WriteKind) :
    (m.finishWrite d line e r kind).mem = m.mem := by
  dsimp only [Mach.finishWrite]
  rw [Mach.mem_foldl _ (fun m s => by split <;> simp)]
  simp

@[simp] theorem Mach.finishReq_mem (m : Mach) (d line : Nat) (e : DirEntry) (r : DirReq) : (m.finishReq d line e r).mem = m.mem := by
  dsimp only [Mach.finishReq]
  split <;> simp

@[simp] theorem Mach.serve_mem (m : Mach) (d line : Nat) (r : DirReq) : (m.serve d line r).mem = m.mem := by
  dsimp only [Mach.serve]
  repeat' split
  all_goals simp

@[simp] theorem serveAll_mem (d line : Nat) (l : List DirReq) (m : Mach) : (serveAll d line l m).mem = m.mem := by
  induction l generalizing m with
  | nil => rfl
  | cons r l ih =>
    dsimp only [serveAll]
    repeat' split
    all_goals simp [ih]

@[simp] theorem homeNext_mem (line n : Nat) (m : Mach) : (homeNext line n m).mem = m.mem := by
  induction n generalizing m with
  | zero => rfl
  | succ n ih =>
    dsimp only [homeNext]
    repeat' split
    all_goals simp [ih]

@[simp] theorem Mach.answered_mem (m : Mach) (d line : Nat) : (m.answered d line).mem = m.mem := by
  dsimp only [Mach.answered]
  repeat' split
  all_goals simp

@[simp] theorem Mach.notice_mem (m : Mach) (c line : Nat) (w : List Nat) : (m.notice c line w).mem = m.mem := by
  dsimp only [Mach.notice]
  repeat' split
  all_goals simp

@[simp] theorem Mach.deliverMsg_mem (m : Mach) (g : Msg) : (m.deliverMsg g).mem = m.mem := by
  cases g <;> simp [Mach.deliverMsg]

@[simp] theorem Mach.deliverAll_mem (m : Mach) (l : List Msg) : (m.deliverAll l).mem = m.mem :=
  Mach.mem_foldl _ (fun m g => by split <;> simp) _ _

@[simp] theorem Mach.request_mem (m : Mach) (d line : Nat) (r : DirReq) : (m.request d line r).mem = m.mem := by
  dsimp only [Mach.request]
  repeat' split
  all_goals simp

theorem Mach.takeMsg_mem (m m' : Mach) (g : Msg) (h : m.takeMsg g = some m') : m'.mem = m.mem := by
  unfold Mach.takeMsg at h
  split at h
  · cases h; rfl
  · cases h

@[simp] theorem settleRounds_mem (line n : Nat) (m : Mach) : (settleRounds line n m).mem = m.mem := by
  induction n generalizing m with
  | zero => rfl
  | succ n ih =>
    dsimp only [settleRounds]
    split <;> simp [ih]

@[simp] theorem Mach.settleLine_mem (m : Mach) (line : Nat) : (m.settleLine line).mem = m.mem := settleRounds_mem ..

@[simp] theorem Mach.settleWhere_mem (m : Mach) (p : Nat → Bool) : (m.settleWhere p).mem = m.mem :=
  Mach.mem_foldl _ (fun m l => by simp) _ _

@[simp] theorem Mach.readSectors_mem (m : Mach) (c : Nat) (rq : BitVec 2) (cells : List Nat) : (m.readSectors c rq cells).mem = m.mem := by
  unfold Mach.readSectors
  refine Mach.mem_foldl _ (fun m p => ?_) _ _
  dsimp only
  repeat' split
  all_goals simp

@[simp] theorem Mach.l2Read_mem (m : Mach) (d line : Nat) : (m.l2Read d line).mem = m.mem := by
  dsimp only [Mach.l2Read]
  rw [Mach.setDir_mem, Mach.mem_foldl _ (fun m o => by simp), Mach.dirEntry_mem]
  split <;> simp

@[simp] theorem Mach.engineRead_mem (m : Mach) (c : Nat) (rq : BitVec 2) (inRegion : Bool) (line : Nat) :
    (m.engineRead c rq inRegion line).mem = m.mem := by
  dsimp only [Mach.engineRead]
  repeat' split
  all_goals simp

@[simp] theorem Mach.ownSectors_mem (m : Mach) (c : Nat) (rq : BitVec 2) (engine : Bool) (cells : List Nat) :
    (m.ownSectors c rq engine cells).mem = m.mem := by
  unfold Mach.ownSectors
  refine Mach.mem_foldl _ (fun m p => ?_) _ _
  dsimp only
  split
  · simp
  · split
    · simp
    · exact Mach.mem_foldl _ (fun m s => by split <;> simp) _ _

end Sys2Proof.Machine
end

