-- ==== Sys2Proof/Laws/Canonical.lean ====
section
/-! SUPPORT. The operations of memory and of a core keep the global memory in its canonical form. -/

namespace Sys2Proof.Machine

/-- A fold of steps that keep the form keeps it. -/
theorem Mem.wf_foldl {α : Type} (f : Mach → α → Mach) (hf : ∀ m a, Mem.wf m.mem = true → Mem.wf (f m a).mem = true) (l : List α)
    (m : Mach) (h : Mem.wf m.mem = true) : Mem.wf (l.foldl f m).mem = true := by
  induction l generalizing m with
  | nil => exact h
  | cons a r ih => exact ih _ (hf m a h)

/-! ### Memory -/

@[simp] theorem Mach.touchGranules_mem (m : Mach) (sp : Space) (gs : List Nat) : (m.touchGranules sp gs).mem = m.mem := rfl
@[simp] theorem Mach.linesWritten_mem (m : Mach) (w : List Nat) (l : List Nat) : (m.linesWritten w l).mem = m.mem := rfl
@[simp] theorem Mach.homeWrite_mem (m : Mach) (l : List Nat) : (m.homeWrite l).mem = m.mem :=
  Mach.mem_foldl _ (fun m p => by simp) _ _
@[simp] theorem Mach.setFullOf_mem (m : Mach) (sp : Space) (f : Sparse Bool) : (m.setFullOf sp f).mem = m.mem := by
  cases sp <;> rfl
@[simp] theorem Mach.setFull_mem (m : Mach) (sp : Space) (gs : List Nat) (b : Bool) : (m.setFull sp gs b).mem = m.mem := by
  cases b <;> simp [Mach.setFull]
@[simp] theorem Mach.staleLoads_mem (m : Mach) (d : Nat) (cells : List Nat) : (m.staleLoads d cells).mem = m.mem := rfl
@[simp] theorem Mach.setLoad_mem (m : Mach) (c : Nat) (l : LoadOp) : (m.setLoad c l).mem = m.mem := rfl
@[simp] theorem Mach.modStore_mem (m : Mach) (c id : Nat) (f : StoreOp → StoreOp) : (m.modStore c id f).mem = m.mem := rfl
@[simp] theorem Mach.dropStore_mem (m : Mach) (c : Nat) (s : StoreOp) (t : Option Tick) : (m.dropStore c s t).mem = m.mem := rfl
@[simp] theorem Mach.ticketKnown_mem (m : Mach) (a n : Nat) (t : Option Tick) : (m.ticketKnown a n t).mem = m.mem := rfl
@[simp] theorem Mach.fixTicket_mem (m : Mach) (c : Nat) (s : StoreOp) (t : Tick) : (m.fixTicket c s t).mem = m.mem := rfl
@[simp] theorem Mach.finishFar_mem (m : Mach) (c : Nat) (f : FarLoad) : (m.finishFar c f).mem = m.mem := rfl
@[simp] theorem Mach.keepWalk_mem (m : Mach) (d : Nat) (space : BitVec 36) (va : Dword) : (m.keepWalk d space va).mem = m.mem := by
  dsimp only [Mach.keepWalk]
  repeat' split
  all_goals simp
@[simp] theorem Mach.noteWrite_mem (m : Mach) (a n : Nat) (st : Option Stream) (l : List Nat) (t : Option Tick) :
    (m.noteWrite a n st l t).mem = m.mem := by
  dsimp only [Mach.noteWrite]
  repeat' split
  all_goals rfl
@[simp] theorem Mach.walkReads_mem (m : Mach) (d : Nat) (space : BitVec 36) (va : Dword) : (m.walkReads d space va).mem = m.mem :=
  Mach.mem_foldl _ (fun m l => by simp) _ _
@[simp] theorem Mach.dropEarly_mem (m : Mach) (c id : Nat) (cells : List Nat) : (m.dropEarly c id cells).mem = m.mem := rfl
@[simp] theorem Mach.evictTracked_mem (m : Mach) (c s : Nat) : (m.evictTracked c s).mem = m.mem :=
  Mach.mem_foldl _ (fun m e => by split <;> simp) _ _
@[simp] theorem Mach.settleLoad_mem (m : Mach) (c : Nat) (l : LoadOp) : (m.settleLoad c l).mem = m.mem := by
  dsimp only [Mach.settleLoad]
  split <;> simp
@[simp] theorem Mach.storeDone_mem (m : Mach) (c : Nat) (s : StoreOp) : (m.storeDone c s).mem = m.mem := by
  dsimp only [Mach.storeDone]
  split <;> simp

theorem wf_setBytes (m : Mach) (sp : Space) (b : Mem) (h : Mem.wf m.mem = true) (h' : Mem.wf b = true) :
    Mem.wf (m.setBytes sp b).mem = true := by
  cases sp <;> simp [Mach.setBytes, h, h']

@[simp] theorem wf_mirrorOut (m : Mach) (d : Nat) (cells : List (Nat × BitVec 8)) (hm : Mem.wf m.mem = true) :
    Mem.wf (m.mirrorOut d cells).mem = true := by
  unfold Mach.mirrorOut
  exact Mem.wf_foldl _ (fun m a hm => by simp [hm]) _ _ hm

@[simp] theorem wf_writeLocal (m : Mach) (sp : Space) (cells : List (Nat × BitVec 8)) (hm : Mem.wf m.mem = true) :
    Mem.wf (m.writeLocal sp cells).mem = true := by
  cases sp <;> simp [Mach.writeLocal, Mach.setBytes, Mach.bytesOf, hm]

@[simp] theorem wf_mirrorIn (m : Mach) (cells : List (Nat × BitVec 8)) (hm : Mem.wf m.mem = true) :
    Mem.wf (m.mirrorIn cells).mem = true := by
  unfold Mach.mirrorIn
  exact Mem.wf_foldl _ (fun m a hm => by dsimp only; split <;> simp [Mach.setBytes, hm]) _ _ hm

@[simp] theorem wf_putGlobal (m : Mach) (skip : List Nat) (cells : List (Nat × BitVec 8)) (hm : Mem.wf m.mem = true) :
    Mem.wf (m.putGlobal skip cells).mem = true := by
  unfold Mach.putGlobal
  split <;> simp [hm]

@[simp] theorem wf_performGlobal (m : Mach) (cells : List (Nat × BitVec 8)) (hm : Mem.wf m.mem = true) :
    Mem.wf (m.performGlobal cells).mem = true := by
  simp [Mach.performGlobal, hm]

@[simp] theorem wf_fillTlb (m : Mach) (c : Nat) (va : Dword) (hm : Mem.wf m.mem = true) : Mem.wf (m.fillTlb c va).mem = true := by
  dsimp only [Mach.fillTlb]
  (repeat' split) <;> simp (maxDischargeDepth := 9) [hm]

@[simp] theorem wf_writeBack (m : Mach) (c : Nat) (p : Nat → Bool) (hm : Mem.wf m.mem = true) :
    Mem.wf (m.writeBack c p).mem = true := by
  dsimp only [Mach.writeBack]
  rw [Mach.mem_foldl _ (fun m s => by split <;> simp)]
  simp only [Mach.modCore_mem]
  refine wf_putGlobal _ _ _ ?_
  rw [Mach.mem_foldl _ (fun m u => by simp)]
  exact hm

@[simp] theorem wf_holdLoose (m : Mach) (c : Nat) (rq : BitVec 2) (cells : List Nat) (hm : Mem.wf m.mem = true) :
    Mem.wf (m.holdLoose c rq cells).mem = true := by
  unfold Mach.holdLoose
  exact Mem.wf_foldl _ (fun m a hm => by dsimp only; (repeat' split) <;> simp [hm]) _ _ hm

@[simp] theorem wf_enterStore (m : Mach) (c : Nat) (s : StoreOp) (hm : Mem.wf m.mem = true) : Mem.wf (m.enterStore c s).mem = true := by
  dsimp only [Mach.enterStore]
  (repeat' split) <;> simp (maxDischargeDepth := 9) [hm]

@[simp] theorem wf_performAmo (m : Mach) (c : Nat) (l : LoadOp) (a : Amo) (hm : Mem.wf m.mem = true) :
    Mem.wf (m.performAmo c l a).mem = true := by
  dsimp only [Mach.performAmo]
  (repeat' split) <;> simp (maxDischargeDepth := 9) [hm]

@[simp] theorem wf_takeIn (m : Mach) (c : Nat) (l : LoadOp) (cells : List Nat) (hm : Mem.wf m.mem = true) :
    Mem.wf (m.takeIn c l cells).mem = true := by
  dsimp only [Mach.takeIn]
  (repeat' split) <;> simp (maxDischargeDepth := 9) [hm]

@[simp] theorem wf_performLoad (m : Mach) (c : Nat) (l : LoadOp) (hm : Mem.wf m.mem = true) :
    Mem.wf (m.performLoad c l).mem = true := by
  dsimp only [Mach.performLoad]
  (repeat' split) <;> simp (maxDischargeDepth := 9) [hm]

@[simp] theorem wf_writeThrough (m : Mach) (c : Nat) (s : StoreOp) (bytes : List (Nat × BitVec 8)) (hm : Mem.wf m.mem = true) :
    Mem.wf (m.writeThrough c s bytes).mem = true := by
  dsimp only [Mach.writeThrough]
  (repeat' split) <;> simp (maxDischargeDepth := 9) [hm]

@[simp] theorem wf_performStore (m : Mach) (c : Nat) (s : StoreOp) (hm : Mem.wf m.mem = true) :
    Mem.wf (m.performStore c s).mem = true := by
  dsimp only [Mach.performStore]
  (repeat' split) <;> simp (maxDischargeDepth := 9) [hm]

@[simp] theorem wf_performRef (m : Mach) (c : Nat) (r : OpRef) (hm : Mem.wf m.mem = true) : Mem.wf (m.performRef c r).mem = true := by
  dsimp only [Mach.performRef]
  (repeat' split) <;> simp (maxDischargeDepth := 9) [hm]

@[simp] theorem wf_force (n : Nat) (m : Mach) (c : Nat) (r : OpRef) (hm : Mem.wf m.mem = true) :
    Mem.wf (Mach.force n m c r).mem = true := by
  induction n generalizing m c r with
  | zero => simp [Mach.force, hm]
  | succ n ih =>
    have one : ∀ (m : Mach) (k : OpRef), Mem.wf m.mem = true → Mem.wf (((m.seenFirst c k).foldl (fun m e =>
        match (m.openRefs e.core).find? (fun j => j.id = e.id) with
        | some j => Mach.force n m e.core j
        | none => m) m).performRef c k).mem = true := fun m k hm =>
      wf_performRef _ _ _ (Mem.wf_foldl _ (fun m e hm => by
        split
        · exact ih _ _ _ hm
        · exact hm) _ _ hm)
    rw [Mach.force]
    exact one _ _ (Mem.wf_foldl _ one _ _ hm)

@[simp] theorem wf_forceSeen (m : Mach) (d : Nat) (cells : List Nat) (hm : Mem.wf m.mem = true) :
    Mem.wf (m.forceSeen d cells).mem = true := by
  unfold Mach.forceSeen
  exact Mem.wf_foldl _ (fun m a hm => by split <;> simp [hm]) _ _ hm

@[simp] theorem wf_beforeRead (m : Mach) (d : Nat) (mine : Nat → StoreOp → Bool) (cells : List Nat) (hm : Mem.wf m.mem = true) :
    Mem.wf (m.beforeRead d mine cells).mem = true := by
  unfold Mach.beforeRead
  split
  · exact hm
  · exact Mem.wf_foldl _ (fun m e hm => by split <;> (try split) <;> simp [hm]) _ _ hm

@[simp] theorem wf_beforeLoad (m : Mach) (c : Nat) (l : LoadOp) (cells : List Nat) (hm : Mem.wf m.mem = true) :
    Mem.wf (m.beforeLoad c l cells).mem = true := by
  simp [Mach.beforeLoad, hm]

@[simp] theorem wf_performAt (m : Mach) (d c : Nat) (s : StoreOp) (hm : Mem.wf m.mem = true) :
    Mem.wf (m.performAt d c s).mem = true := by
  unfold Mach.performAt
  split
  · exact hm
  · extract_lets cells meets others m1 m2 m3 elsewhere
    have h1 : Mem.wf m1.mem = true := Mem.wf_foldl _ (fun m e hm => by split <;> simp [hm]) _ _ hm
    have h2 : m2.mem = m1.mem := Mach.ownSectors_mem ..
    have h3 : m3.mem = m2.mem := by
      simp only [m3]
      split <;> simp
    rw [Mach.linesWritten_mem, Mach.modDie_mem, h3, h2]
    exact h1

@[simp] theorem wf_performNear (m : Mach) (c : Nat) (r : OpRef) (hm : Mem.wf m.mem = true) : Mem.wf (m.performNear c r).mem = true := by
  dsimp only [Mach.performNear]
  (repeat' split) <;> simp (maxDischargeDepth := 9) [hm]

@[simp] theorem wf_performFirst (m : Mach) (c : Nat) (r : OpRef) (hm : Mem.wf m.mem = true) :
    Mem.wf (m.performFirst c r).mem = true := by
  unfold Mach.performFirst
  exact Mem.wf_foldl _ (fun m a hm => by simp [hm]) _ _ hm

@[simp] theorem wf_performBefore (m : Mach) (c : Nat) (r : OpRef) (hm : Mem.wf m.mem = true) :
    Mem.wf (m.performBefore c r).mem = true := by
  exact Mem.wf_foldl _ (fun m a hm => by simp [hm]) _ _ (wf_performFirst m c r hm)

@[simp] theorem wf_beforeLocal (m : Mach) (c : Nat) (r : OpRef) (hm : Mem.wf m.mem = true) : Mem.wf (m.beforeLocal c r).mem = true := by
  dsimp only [Mach.beforeLocal]
  (repeat' split) <;> simp (maxDischargeDepth := 9) [hm]

/-! ### Operations of a core -/

@[simp] theorem wf_appendEvent (m : Mach) (c : Nat) (o : Origin) (e : Event) (hm : Mem.wf m.mem = true) :
    Mem.wf (m.appendEvent c o e).mem = true := by
  dsimp only [Mach.appendEvent]
  (repeat' split) <;> simp (maxDischargeDepth := 9) [hm]

@[simp] theorem wf_appendEvents (m : Mach) (c : Nat) (o : Origin) (l : List Event) (hm : Mem.wf m.mem = true) :
    Mem.wf (m.appendEvents c o l).mem = true := by
  unfold Mach.appendEvents
  exact Mem.wf_foldl _ (fun m a hm => by simp [hm]) _ _ hm

@[simp] theorem wf_drain (m : Mach) (c : Nat) (hm : Mem.wf m.mem = true) : Mem.wf (m.drain c).mem = true := by
  dsimp only [Mach.drain]
  refine wf_appendEvents _ _ _ _ ?_
  rw [Mach.setCore_mem, Mach.mem_foldl _ (fun m f => by simp)]
  exact hm

@[simp] theorem wf_appendTrap (m : Mach) (c : Nat) (r : TrapRec) (hm : Mem.wf m.mem = true) : Mem.wf (m.appendTrap c r).mem = true := by
  dsimp only [Mach.appendTrap]
  (repeat' split) <;> simp (maxDischargeDepth := 9) [hm]

@[simp] theorem wf_fatalTrap (m : Mach) (c : Nat) (bits : BitVec 512) (hm : Mem.wf m.mem = true) :
    Mem.wf (m.fatalTrap c bits).mem = true := by
  dsimp only [Mach.fatalTrap]
  (repeat' split) <;> simp (maxDischargeDepth := 9) [hm]

@[simp] theorem wf_noteWalk (m : Mach) (w : Walk) (hm : Mem.wf m.mem = true) : Mem.wf (m.noteWalk w).mem = true := by
  dsimp only [Mach.noteWalk]
  (repeat' split) <;> simp (maxDischargeDepth := 9) [hm]

@[simp] theorem wf_noteCause (m : Mach) (c : Nat) (t : Trap) (hm : Mem.wf m.mem = true) : Mem.wf (m.noteCause c t).mem = true := by
  dsimp only [Mach.noteCause]
  (repeat' split) <;> simp (maxDischargeDepth := 9) [hm]

@[simp] theorem wf_takeTrap (m : Mach) (c : Nat) (stream : Stream) (o : Origin) (t : Trap) (hm : Mem.wf m.mem = true) :
    Mem.wf (m.takeTrap c stream o t).mem = true := by
  dsimp only [Mach.takeTrap]
  (repeat' split) <;> simp (maxDischargeDepth := 9) [hm]

@[simp] theorem wf_returnFromTrap (m : Mach) (c : Nat) (hm : Mem.wf m.mem = true) : Mem.wf (m.returnFromTrap c).mem = true := by
  dsimp only [Mach.returnFromTrap]
  (repeat' split) <;> simp (maxDischargeDepth := 9) [hm]

@[simp] theorem wf_issueStore (m : Mach) (c : Nat) (s : StoreOp) (ranges : List (Nat × Nat)) (hm : Mem.wf m.mem = true) :
    Mem.wf (m.issueStore c s ranges).mem = true := by
  dsimp only [Mach.issueStore]
  (repeat' split) <;> simp (maxDischargeDepth := 9) [hm]

@[simp] theorem wf_issueLoad (m : Mach) (c : Nat) (l : LoadOp) (ranges : List (Nat × Nat)) (hm : Mem.wf m.mem = true) :
    Mem.wf (m.issueLoad c l ranges).mem = true := by
  dsimp only [Mach.issueLoad]
  (repeat' split) <;> simp (maxDischargeDepth := 9) [hm]

@[simp] theorem wf_issueCommand (m : Mach) (c : Nat) (k : Command) (reads writes : List (Nat × Nat)) (hm : Mem.wf m.mem = true) :
    Mem.wf (m.issueCommand c k reads writes).mem = true := by
  dsimp only [Mach.issueCommand]
  (repeat' split) <;> simp (maxDischargeDepth := 9) [hm]

@[simp] theorem wf_deliver (m : Mach) (c : Nat) (l : LoadOp) (hm : Mem.wf m.mem = true) : Mem.wf (m.deliver c l).mem = true := by
  dsimp only [Mach.deliver]
  (repeat' split) <;> simp (maxDischargeDepth := 9) [hm]

@[simp] theorem wf_endPhase (m : Mach) (n : BitVec 32) (level unit : Nat) (hm : Mem.wf m.mem = true) :
    Mem.wf (m.endPhase n level unit).mem = true := by
  dsimp only [Mach.endPhase]
  (repeat' split) <;> simp (maxDischargeDepth := 9) [hm]

@[simp] theorem wf_arrive (m : Mach) (c level : Nat) (hm : Mem.wf m.mem = true) : Mem.wf (m.arrive c level).mem = true := by
  dsimp only [Mach.arrive]
  (repeat' split) <;> simp (maxDischargeDepth := 9) [hm]

@[simp] theorem wf_leaveDomain (m : Mach) (c level : Nat) (hm : Mem.wf m.mem = true) : Mem.wf (m.leaveDomain c level).mem = true := by
  dsimp only [Mach.leaveDomain]
  (repeat' split) <;> simp (maxDischargeDepth := 9) [hm]

@[simp] theorem wf_openRegion (m : Mach) (c : Nat) (recovery : Dword) (hm : Mem.wf m.mem = true) :
    Mem.wf (m.openRegion c recovery).mem = true := by
  dsimp only [Mach.openRegion]
  (repeat' split) <;> simp (maxDischargeDepth := 9) [hm]

@[simp] theorem wf_rollback (m : Mach) (c : Nat) (reason : BitVec 4) (hm : Mem.wf m.mem = true) :
    Mem.wf (m.rollback c reason).mem = true := by
  dsimp only [Mach.rollback]
  (repeat' split) <;> simp (maxDischargeDepth := 9) [hm]

@[simp] theorem wf_nextIssue (m : Mach) (c : Nat) (hm : Mem.wf m.mem = true) : Mem.wf (m.nextIssue c).mem = true := by
  dsimp only [Mach.nextIssue]
  (repeat' split) <;> simp (maxDischargeDepth := 9) [hm]

@[simp] theorem wf_releaseCmd (m : Mach) (c : Nat) (k : Command) (ranges : List (Nat × Nat × Bool)) (hm : Mem.wf m.mem = true) :
    Mem.wf (m.releaseCmd c k ranges).mem = true := by
  dsimp only [Mach.releaseCmd]
  (repeat' split) <;> simp (maxDischargeDepth := 9) [hm]

theorem wf_releaseList (c : Nat) (l : List Held) (m : Mach) (hm : Mem.wf m.mem = true) :
    Mem.wf (releaseList c l m).1.mem = true := by
  fun_induction releaseList c l m with
  | case1 => exact hm
  | _ => first
    | exact hm
    | (rename_i ih; exact ih (by simp [hm]))

@[simp] theorem wf_release (m : Mach) (c : Nat) (hm : Mem.wf m.mem = true) : Mem.wf (m.release c).mem = true := by
  simp [Mach.release, wf_releaseList, hm]

@[simp] theorem wf_commitRegion (m : Mach) (c : Nat) (hm : Mem.wf m.mem = true) : Mem.wf (m.commitRegion c).mem = true := by
  dsimp only [Mach.commitRegion]
  (repeat' split) <;> simp (maxDischargeDepth := 9) [hm]

@[simp] theorem wf_lapse (m : Mach) (c q : Nat) (atEnd : Bool) (hm : Mem.wf m.mem = true) : Mem.wf (m.lapse c q atEnd).mem = true := by
  dsimp only [Mach.lapse]
  (repeat' split) <;> simp (maxDischargeDepth := 9) [hm]

@[simp] theorem wf_endCore (m : Mach) (c : Nat) (hm : Mem.wf m.mem = true) : Mem.wf (m.endCore c).mem = true := by
  dsimp only [Mach.endCore]
  (repeat' split) <;> simp (maxDischargeDepth := 9) [hm]

end Sys2Proof.Machine
end

