-- ==== Sys2Proof/Laws/Words.lean ====
section
/-! SUPPORT. What the meaning of a slot word can do to its issue and to the global memory: it keeps the module that the issue read
and the one it falls back to, and the canonical form. -/

namespace Sys2Proof.Machine

/-- A meaning keeps what an issue reads and falls back to, and the canonical form of the global memory. -/
def Body.Keeps (b : Body) : Prop := ∀ iss m iss' m', b iss m = .ok (iss', m') →
  iss'.pre = iss.pre ∧ iss'.back = iss.back ∧ (Mem.wf m.mem = true → Mem.wf m'.mem = true)

/-- A meaning that changes the module by an operation that keeps the form, and leaves the issue as it is. -/
theorem Body.keeps_of (b : Body) (f : Issue → Mach → Mach) (hf : ∀ iss m, Mem.wf m.mem = true → Mem.wf (f iss m).mem = true)
    (h : ∀ iss m r, b iss m = .ok r → r = (iss, f iss m)) : b.Keeps := by
  intro iss m iss' m' e
  cases h iss m _ e
  exact ⟨rfl, rfl, hf iss m⟩

/-! ### Shared forms -/

theorem keeps_scalarResult (i : Instr) (k : LatClass) (d : BitVec 6) (f : Issue → Dword) :
    Body.Keeps (fun iss m => scalarResult i k d (f iss) iss m) := by
  intro iss m iss' m' h
  simp only [scalarResult, Except.ok.injEq, Prod.mk.injEq] at h
  obtain ⟨rfl, rfl⟩ := h
  exact ⟨rfl, rfl, fun hm => by simpa using hm⟩

/-- A meaning that answers as another does where a condition holds, and stops where it does not. -/
theorem keeps_of_eq (b : Body) (h : ∀ iss m r, b iss m = .ok r → r.1.pre = iss.pre ∧ r.1.back = iss.back ∧
    (Mem.wf m.mem = true → Mem.wf r.2.mem = true)) : b.Keeps := fun iss m iss' m' e => h iss m (iss', m') e

@[simp] theorem wf_issueLocalLoad (iss : Issue) (slot : Nat) (k : LatClass) (sp : Space) (elems : List Elem) (gs : List Nat) (test take : Bool) (d : Option Dest) (tag : Option (BitVec 5)) (guardNo : Option Nat) (m : Mach) (hm : Mem.wf m.mem = true) :
    Mem.wf (issueLocalLoad iss slot k sp elems gs test take d tag guardNo m).mem = true := by
  dsimp only [issueLocalLoad]
  (repeat' split) <;> simp (maxDischargeDepth := 9) [hm]

@[simp] theorem wf_fillFor (c : Nat) (l : List (Elem × Dword × Phys)) (m : Mach) (hm : Mem.wf m.mem = true) :
    Mem.wf (fillFor c l m).mem = true := by
  cases l with
  | nil => exact hm
  | cons e r => exact wf_fillTlb m c e.2.1 hm

theorem keeps_localLoad (i : Instr) (k : LatClass) (sp : Space) (elems : List Elem) (gs : List Nat) (test take : Bool)
    (d : Option Dest) (tag : Option (BitVec 5)) (n : Option Nat) :
    Body.Keeps (localLoad i k sp elems gs test take d tag n) := by
  intro iss m iss' m' h
  simp only [localLoad] at h
  (repeat' split at h) <;> (try cases h) <;> refine ⟨rfl, rfl, fun hm => ?_⟩ <;> simp (maxDischargeDepth := 9) [hm]

theorem keeps_storeWord (i : Instr) (st : StoreOp) (r : List (Nat × Nat)) (n : Nat) :
    Body.Keeps (storeWord i st r n) := by
  intro iss m iss' m' h
  simp only [storeWord] at h
  (repeat' split at h) <;> (try cases h) <;> refine ⟨rfl, rfl, fun hm => ?_⟩ <;> simp (maxDischargeDepth := 9) [hm]

theorem keeps_globalLoad (i : Instr) (rq : BitVec 2) (l : List (Elem × Dword × Phys)) (d : Option Dest) (t : Option (BitVec 5))
    (n : Option Nat) (a : Option Amo) :
    Body.Keeps (globalLoad i rq l d t n a) := by
  intro iss m iss' m' h
  simp only [globalLoad] at h
  (repeat' split at h) <;> (try cases h) <;> refine ⟨rfl, rfl, fun hm => ?_⟩ <;> simp (maxDischargeDepth := 9) [hm]

theorem keeps_globalStore (i : Instr) (rq : BitVec 2) (l : List (Elem × Dword × Phys)) (b : List (Nat × BitVec 8)) (n : Nat) :
    Body.Keeps (globalStore i rq l b n) := by
  intro iss m iss' m' h
  simp only [globalStore] at h
  split at h
  · cases h
    obtain ⟨a, b, c⟩ := keeps_storeWord _ _ _ _ _ _ _ _ ‹_›
    exact ⟨a, b, fun hm => c (by simp [hm])⟩
  · cases h

theorem keeps_commandWord (i : Instr) (kind : CmdKind) (iv : List Interval) (r w : List (Nat × Nat)) (rq : BitVec 2) (b : Bool) :
    Body.Keeps (commandWord i kind iv r w rq b) := by
  intro iss m iss' m' h
  unfold commandWord at h
  extract_lets at h
  (repeat' split at h) <;> (try cases h) <;> exact ⟨rfl, rfl, fun hm => by simp [hm]⟩

/-! ### Forms of the scalar slot -/

theorem keeps_scalar2 (i : Instr) (k : LatClass) (d a b : BitVec 6) (f : Dword → Dword → Dword) :
    Body.Keeps (scalar2 i k d a b f) := by
  exact keeps_scalarResult i k d (fun iss => f (iss.x.g a) (iss.x.g b))

theorem keeps_scalar1 (i : Instr) (d a : BitVec 6) (f : Dword → Dword) :
    Body.Keeps (scalar1 i d a f) := by
  exact keeps_scalarResult i .A d (fun iss => f (iss.x.g a))

theorem keeps_scalarImm (i : Instr) (d a : BitVec 6) (v : BitVec 10) (f : Dword → Dword → Dword) :
    Body.Keeps (scalarImm i d a v f) := by
  exact keeps_scalarResult i .A d (fun iss => f (iss.x.g a) (v.signExtend 64))

theorem keeps_scalarShift (i : Instr) (d a n : BitVec 6) (f : Dword → Nat → Dword) :
    Body.Keeps (scalarShift i d a n f) := by
  exact keeps_scalarResult i .A d (fun iss => f (iss.x.g a) n.toNat)

theorem keeps_compareWord (i : Instr) (t f : BitVec 4) (c : CoreState → Bool) :
    Body.Keeps (compareWord i t f c) := by
  intro iss m iss' m' h
  simp only [compareWord] at h
  (repeat' split at h) <;> (try cases h) <;> exact ⟨rfl, rfl, fun hm => by simp (maxDischargeDepth := 9) [hm]⟩

theorem keeps_globalLoadWord (i : Instr) (t b : BitVec 6) (y z : BitVec 2) (o : BitVec 6) (u : Bool) :
    Body.Keeps (globalLoadWord i t b y z o u) := by
  intro iss m iss' m' h
  simp only [globalLoadWord] at h
  (repeat' split at h) <;> first
    | exact keeps_globalLoad _ _ _ _ _ _ _ iss m iss' m' h
    | cases h

theorem keeps_globalStoreWord (i : Instr) (t b : BitVec 6) (y z : BitVec 2) (o : BitVec 6) :
    Body.Keeps (globalStoreWord i t b y z o) := by
  intro iss m iss' m' h
  simp only [globalStoreWord] at h
  (repeat' split at h) <;> first
    | exact keeps_globalStore _ _ _ _ _ iss m iss' m' h
    | cases h

theorem keeps_localLoadWord (i : Instr) (t b : BitVec 6) (z : BitVec 2) (o : BitVec 6) (u v w : Bool) :
    Body.Keeps (localLoadWord i t b z o u v w) := by
  intro iss m iss' m' h
  simp only [localLoadWord] at h
  (repeat' split at h) <;> first
    | exact keeps_localLoad _ _ _ _ _ _ _ _ _ _ iss m iss' m' h
    | cases h

theorem keeps_localStoreWord (i : Instr) (t b : BitVec 6) (z : BitVec 2) (o : BitVec 6) (u : Bool) :
    Body.Keeps (localStoreWord i t b z o u) := by
  intro iss m iss' m' h
  simp only [localStoreWord] at h
  (repeat' split at h) <;> first
    | exact keeps_storeWord _ _ _ _ iss m iss' m' h
    | cases h

theorem keeps_atomicWord (i : Instr) (op : AmoOp) (d b v : BitVec 6) (y : BitVec 2) (z : BitVec 1) :
    Body.Keeps (atomicWord i op d b v y z) := by
  intro iss m iss' m' h
  unfold atomicWord at h
  extract_lets at h
  split at h
  · cases h
  · split at h
    · cases h
    · split at h
      · cases h
      · cases h
        obtain ⟨a, b, c⟩ := keeps_globalLoad _ _ _ _ _ _ _ _ _ _ _ ‹_›
        exact ⟨a, b, fun hm => by simp [c hm]⟩

theorem keeps_trapAfter (c : BitVec 8) (k : BitVec 12) :
    Body.Keeps (trapAfter c k) := by
  intro iss m iss' m' h
  simp only [trapAfter] at h
  (repeat' split at h) <;> (try cases h) <;> exact ⟨rfl, rfl, fun hm => by simp (maxDischargeDepth := 9) [hm]⟩

/-! ### Forms of the control slot -/

theorem keeps_registerTransfer (i : Instr) (a : BitVec 6) :
    Body.Keeps (registerTransfer i a) := by
  intro iss m iss' m' h
  simp only [registerTransfer, transferTo] at h
  (repeat' split at h) <;> (try cases h) <;> exact ⟨rfl, rfl, fun hm => by simp (maxDischargeDepth := 9) [hm]⟩

theorem keeps_predicateWord (i : Instr) (d : BitVec 4) (f : CoreState → Bool) :
    Body.Keeps (predicateWord i d f) := by
  intro iss m iss' m' h
  simp only [predicateWord] at h
  (repeat' split at h) <;> (try cases h) <;> exact ⟨rfl, rfl, fun hm => by simp (maxDischargeDepth := 9) [hm]⟩

theorem keeps_barrierWord (i : Instr) (l : BitVec 3) (go : Issue → Mach → Mach)
    (hg : ∀ iss m, Mem.wf m.mem = true → Mem.wf (go iss m).mem = true) : Body.Keeps (barrierWord i l go) := by
  intro iss m iss' m' h
  simp only [barrierWord] at h
  (repeat' split at h) <;> (try cases h) <;> exact ⟨rfl, rfl, hg _ _⟩

@[simp] theorem wf_fenceWriteBack (m : Mach) (c : Nat) (zones : BitVec 8) (hm : Mem.wf m.mem = true) :
    Mem.wf (Mach.fenceWriteBack m c zones).mem = true := by
  dsimp only [Mach.fenceWriteBack]
  split
  · exact hm
  · exact wf_writeBack _ _ _ (Mem.wf_foldl _ (fun m s hm => by split <;> simp [hm]) _ _ hm)

@[simp] theorem wf_standFence (m : Mach) (c : Nat) (s : Stream) (zones : BitVec 8) (hm : Mem.wf m.mem = true) :
    Mem.wf (Mach.standFence m c s zones).mem = true := by
  dsimp only [Mach.standFence]
  (repeat' split) <;> simp (maxDischargeDepth := 9) [hm]

theorem keeps_holdFence : Body.Keeps holdFence := by
  intro iss m iss' m' h
  simp only [holdFence] at h
  (repeat' split at h) <;> (try cases h) <;> exact ⟨rfl, rfl, fun hm => by simp (maxDischargeDepth := 9) [hm]⟩

/-! ### Forms of the vector slots -/

theorem keeps_vectorResult (i : Instr) (k : LatClass) (d : BitVec 5) (q : BitVec 64) (t : BitVec 5) (v : VData) (l : Tally) :
    Body.Keeps (vectorResult i k d q t v l) := by
  intro iss m iss' m' h
  simp only [vectorResult] at h
  (repeat' split at h) <;> (try cases h) <;> exact ⟨rfl, rfl, fun hm => by simp (maxDischargeDepth := 9) [hm]⟩

theorem keeps_afterChecks (l : List (Option Stop)) (b : Body) (hb : b.Keeps) : Body.Keeps (afterChecks l b) := by
  intro iss m iss' m' h
  simp only [afterChecks] at h
  split at h
  · cases h
  · exact hb _ _ _ _ h

theorem keeps_maskResult (i : Instr) (t f : BitVec 3) (k : BitVec 64) (c : Nat → Bool) (l : Tally) :
    Body.Keeps (maskResult i t f k c l) := by
  intro iss m iss' m' h
  simp only [maskResult] at h
  (repeat' split at h) <;> (try cases h) <;> exact ⟨rfl, rfl, fun hm => by simp (maxDischargeDepth := 9) [hm]⟩

theorem keeps_reduceResult (i : Instr) (d t : BitVec 5) (v : Nat) (l : Tally) :
    Body.Keeps (reduceResult i d t v l) := by
  intro iss m iss' m' h
  simp only [reduceResult] at h
  (repeat' split at h) <;> (try cases h) <;> exact ⟨rfl, rfl, fun hm => by simp (maxDischargeDepth := 9) [hm]⟩

theorem keeps_fpWord (i : Instr) (op : FpOp) (d a : BitVec 5) (b : Option (BitVec 5)) (s : Option (BitVec 6)) (c : Bool) (q : BitVec 3) :
    Body.Keeps (fpWord i op d a b s c q) := by
  intro iss m iss' m' h
  simp only [fpWord, afterChecks] at h
  (repeat' split at h) <;> first
    | exact keeps_vectorResult _ _ _ _ _ _ _ iss m iss' m' h
    | cases h

theorem keeps_fcmpWord (i : Instr) (t f : BitVec 3) (a b : BitVec 5) (q : BitVec 3) (c : Num → Num → Bool) :
    Body.Keeps (fcmpWord i t f a b q c) := by
  intro iss m iss' m' h
  simp only [fcmpWord, afterChecks] at h
  (repeat' split at h) <;> first
    | exact keeps_maskResult _ _ _ _ _ _ iss m iss' m' h
    | cases h

theorem keeps_icmpWord (i : Instr) (t f : BitVec 3) (a b : BitVec 5) (q : BitVec 3) (c : BitVec 32 → BitVec 32 → Bool) :
    Body.Keeps (icmpWord i t f a b q c) := by
  intro iss m iss' m' h
  simp only [icmpWord, afterChecks] at h
  (repeat' split at h) <;> first
    | exact keeps_maskResult _ _ _ _ _ _ iss m iss' m' h
    | cases h

theorem keeps_reduceWord (i : Instr) (d a : BitVec 5) (q : BitVec 3) (t : BitVec 5) (f : Issue → BitVec 64 → VData → Nat × Tally) :
    Body.Keeps (reduceWord i d a q t f) := by
  intro iss m iss' m' h
  simp only [reduceWord, afterChecks] at h
  (repeat' split at h) <;> first
    | exact keeps_reduceResult _ _ _ _ _ iss m iss' m' h
    | cases h

theorem keeps_intWord (i : Instr) (k : LatClass) (p : BitVec 5 → Bool) (r : BitVec 5 → BitVec 5) (op : Nat → Bool → Nat → Nat → Scored)
    (d a : BitVec 5) (o : VOperand) (q : BitVec 3) :
    Body.Keeps (intWord i k p r op d a o q) := by
  intro iss m iss' m' h
  simp only [intWord, afterChecks] at h
  (repeat' split at h) <;> first
    | exact keeps_vectorResult _ _ _ _ _ _ _ iss m iss' m' h
    | cases h

theorem keeps_bitWord (i : Instr) (f : BitVec 32 → BitVec 32 → BitVec 32) (d a : BitVec 5) (o : VOperand) (q : BitVec 3) :
    Body.Keeps (bitWord i f d a o q) := by
  intro iss m iss' m' h
  simp only [bitWord] at h
  (repeat' split at h) <;> first
    | exact keeps_vectorResult _ _ _ _ _ _ _ iss m iss' m' h
    | cases h

theorem keeps_madWord (i : Instr) (d a b : BitVec 5) (q : BitVec 3) :
    Body.Keeps (madWord i d a b q) := by
  intro iss m iss' m' h
  simp only [madWord, afterChecks] at h
  (repeat' split at h) <;> first
    | exact keeps_vectorResult _ _ _ _ _ _ _ iss m iss' m' h
    | cases h

theorem keeps_moveWord (i : Instr) (d : BitVec 5) (q : BitVec 3) (t : Issue → BitVec 5) (f : CoreState → Nat → BitVec 32) :
    Body.Keeps (moveWord i d q t f) := by
  intro iss m iss' m' h
  simp only [moveWord] at h
  (repeat' split at h) <;> first
    | exact keeps_vectorResult _ _ _ _ _ _ _ iss m iss' m' h
    | cases h

theorem keeps_convertWord (i : Instr) (d a t : BitVec 5) (q : BitVec 3) (r : BitVec 2) :
    Body.Keeps (convertWord i d a t q r) := by
  intro iss m iss' m' h
  simp only [convertWord] at h
  (repeat' split at h) <;> first
    | exact keeps_vectorResult _ _ _ _ _ _ _ iss m iss' m' h
    | cases h

theorem keeps_rowLoad (i : Instr) (t : BitVec 5) (b : BitVec 6) (q : BitVec 3) (u : BitVec 2) (off : BitVec 6) :
    Body.Keeps (rowLoad i t b q u off) := by
  intro iss m iss' m' h
  simp only [rowLoad] at h
  (repeat' split at h) <;> first
    | exact keeps_localLoad _ _ _ _ _ _ _ _ _ _ iss m iss' m' h
    | cases h

theorem keeps_rowStore (i : Instr) (t : BitVec 5) (b : BitVec 6) (q : BitVec 3) (off : BitVec 6) :
    Body.Keeps (rowStore i t b q off) := by
  intro iss m iss' m' h
  simp only [rowStore] at h
  (repeat' split at h) <;> first
    | exact keeps_storeWord _ _ _ _ iss m iss' m' h
    | cases h

theorem keeps_localVectorLoad (i : Instr) (t : BitVec 5) (b : BitVec 6) (q : BitVec 3) (u : BitVec 2) (off : BitVec 6)
    (test take : Bool) : Body.Keeps (localVectorLoad i t b q u off test take) := by
  intro iss m iss' m' h
  simp only [localVectorLoad] at h
  split at h
  · cases h
  · split at h
    · cases h
    · exact keeps_localLoad _ _ _ _ _ _ _ _ _ _ iss m iss' m' h

theorem keeps_localVectorStore (i : Instr) (t : BitVec 5) (b : BitVec 6) (q : BitVec 3) (off : BitVec 6) (set : Bool) :
    Body.Keeps (localVectorStore i t b q off set) := by
  intro iss m iss' m' h
  simp only [localVectorStore] at h
  split at h
  · cases h
  · exact keeps_storeWord _ _ _ _ iss m iss' m' h

/-! ### Forms of the engine slots -/

@[simp] theorem wf_exchange (iss : Issue) (e : Nat) (w : BitVec 1) (rs : List Nat) (m : Mach) (hm : Mem.wf m.mem = true) :
    Mem.wf (exchange iss e w rs m).mem = true := by
  dsimp only [exchange]
  (repeat' split) <;> simp (maxDischargeDepth := 9) [hm]

@[simp] theorem exchange_mem (iss : Issue) (e : Nat) (w : BitVec 1) (rs : List Nat) (m : Mach) :
    (exchange iss e w rs m).mem = m.mem := by
  unfold exchange
  split <;> rfl

theorem keeps_mxWord (b : Body) (hb : b.Keeps) : Body.Keeps (mxWord b) := by
  intro iss m iss' m' h
  simp only [mxWord] at h
  split at h
  · cases h
    exact ⟨rfl, rfl, id⟩
  · exact hb _ _ _ _ h

/-- A command, and then a change that keeps the form. -/
theorem keeps_command (i : Instr) (kind : CmdKind) (iv : List Interval) (r w : List (Nat × Nat)) (rq : BitVec 2) (b : Bool)
    (iss : Issue) (m : Mach) (f : Mach → Mach) (hf : ∀ m, Mem.wf m.mem = true → Mem.wf (f m).mem = true) (iss' : Issue) (m' : Mach)
    (h : (match commandWord i kind iv r w rq b iss m with
      | .error e => .error e
      | .ok (a, k) => .ok (a, f k) : Except Stop (Issue × Mach)) = .ok (iss', m')) :
    iss'.pre = iss.pre ∧ iss'.back = iss.back ∧ (Mem.wf m.mem = true → Mem.wf m'.mem = true) := by
  split at h
  · cases h
  · cases h
    obtain ⟨a, b, c⟩ := keeps_commandWord _ _ _ _ _ _ _ _ _ _ _ ‹_›
    exact ⟨a, b, fun hm => hf _ (c hm)⟩

theorem keeps_arrayWord (i : Instr) (m a : BitVec 2) (w : BitVec 1) (k : BitVec 6) (order seg : Nat) (cp zero : Bool) :
    Body.Keeps (arrayWord i m a w k order seg cp zero) := by
  apply keeps_mxWord
  intro iss mach iss' m' h
  simp only at h
  split at h
  · cases h
  · split at h
    · cases h
    · exact keeps_command _ _ _ _ _ _ _ _ _ (fun k => (exchange iss 0 w [a.toNat] k).modCore iss.core
        (fun y => y.setTileTag m.toNat 0x10)) (fun k hk => by simp [hk]) _ _ h

theorem keeps_drainWord (i : Instr) (m d : BitVec 2) (w : BitVec 1) (t : BitVec 5) (n : BitVec 2) (r : BitVec 6) (f : Nat) :
    Body.Keeps (drainWord i m d w t n r f) := by
  apply keeps_mxWord
  intro iss mach iss' m' h
  simp only at h
  split at h
  · cases h
  · split at h
    · cases h
    · exact keeps_command _ _ _ _ _ _ _ _ _ (fun k => (exchange iss 0 w [d.toNat] k).modCore iss.core
        (fun y => y.setTileTag m.toNat 0x11)) (fun k hk => by simp [hk]) _ _ h

theorem wf_shadowChecks (iss : Issue) (m : Mach) (h : Dword) (rq : Nat) (s d : View) (m' : Mach)
    (he : shadowChecks iss m h rq s d = .ok m') (hm : Mem.wf m.mem = true) : Mem.wf m'.mem = true := by
  unfold shadowChecks at he
  extract_lets at he
  split at he
  · split at he <;> cases he
    exact hm
  · extract_lets at he
    split at he
    · cases he
    · split at he
      · cases he
      · split at he <;> cases he
        simp [hm]

theorem keeps_copyWord (i : Instr) (kind : CopyKind) (rs rd : BitVec 2) (w : BitVec 1) (mode rq : Nat) (h : BitVec 6) :
    Body.Keeps (copyWord i kind rs rd w mode rq h) := by
  intro iss m iss' m' e
  simp only [copyWord] at e
  split at e
  · cases e
  · split at e
    · cases e
    · split at e
      · cases e
      · rename_i hs
        obtain ⟨a, b, c⟩ := keeps_command _ _ _ _ _ _ _ _ _ (fun k => exchange iss _ w [rs.toNat, rd.toNat] k)
          (fun k hk => by simp [hk]) _ _ e
        refine ⟨a, b, fun hm => c ?_⟩
        split at hs
        · exact wf_shadowChecks _ _ _ _ _ _ _ hs hm
        · cases hs
          exact hm

@[simp] theorem wf_afterShadow (m : Mach) (c : Nat) (h : Dword) (hm : Mem.wf m.mem = true) : Mem.wf (m.afterShadow c h).mem = true := hm

theorem keeps_shadowCopy (i : Instr) (rs rd : BitVec 2) (w : BitVec 1) (rq : Nat) (h : BitVec 6) :
    Body.Keeps (shadowCopy i rs rd w rq h) := by
  intro iss m iss' m' e
  simp only [shadowCopy] at e
  split at e
  · cases e
  · cases e
    obtain ⟨a, b, c⟩ := keeps_copyWord _ _ _ _ _ _ _ _ _ _ _ _ ‹_›
    exact ⟨a, b, fun hm => wf_afterShadow _ _ _ (c hm)⟩

theorem keeps_sreadWord (i : Instr) (rs rd : BitVec 2) (w : BitVec 1) (p : BitVec 3) (h : BitVec 6) :
    Body.Keeps (sreadWord i rs rd w p h) := by
  intro iss m iss' m' e
  simp only [sreadWord] at e
  split at e
  · cases e
  · split at e
    · cases e
    · split at e
      · cases e
      · split at e
        · cases e
        · exact keeps_command _ _ _ _ _ _ _ _ _ (fun k => exchange iss _ w [rs.toNat, rd.toNat] k)
            (fun k hk => by simp [hk]) _ _ e

theorem keeps_pfWord (i : Instr) (rs rd : BitVec 2) (w : BitVec 1) (check : Mach → Nat → View → View → Option ShapeFail)
    (plane : View → View → Option (Nat × Nat × Nat × Bool)) (kind : Issue → View → View → CmdKind) :
    Body.Keeps (pfWord i rs rd w check plane kind) := by
  intro iss m iss' m' e
  unfold pfWord at e
  extract_lets at e
  split at e
  · cases e
  · split at e
    · cases e
    · exact keeps_command _ _ _ _ _ _ _ _ _ (fun k => exchange iss 3 w [rs.toNat, rd.toNat] k)
        (fun k hk => by simp [hk]) _ _ e

end Sys2Proof.Machine
end

