-- ==== Sys2Proof/Laws/Issue.lean ====
section
/-! SUPPORT. What an issue, a cycle of a core and a cycle of a composer keep, given that every instruction keeps it. -/

namespace Sys2Proof.Machine

/-! ### Closing an issue -/

@[simp] theorem wf_applyMark (m : Mach) (c : Nat) (s : Stream) (slot : Nat) (k : HoldMark) (hm : Mem.wf m.mem = true) :
    Mem.wf (applyMark m c s slot k).mem = true := by
  cases k <;> simp only [applyMark] <;> (repeat' split) <;> simp (maxDischargeDepth := 9) [hm]

@[simp] theorem wf_applyMarks (c : Nat) (l : List (Stream × Nat × Stop)) (m : Mach) (hm : Mem.wf m.mem = true) :
    Mem.wf (applyMarks c l m).mem = true := by
  unfold applyMarks
  exact Mem.wf_foldl _ (fun m e hm => wf_applyMark m c e.1 _ e.2 hm) _ _ hm

@[simp] theorem wf_commitIssue (iss : Issue) (m : Mach) (hm : Mem.wf m.mem = true) : Mem.wf (commitIssue iss m).mem = true := by
  unfold commitIssue
  extract_lets c streams scTransfer events m1 m2 m3 m4 keep m5 m6 m7 m8
  have h2 : Mem.wf m2.mem = true := by simp [m2, m1, hm]
  have h5 : Mem.wf m5.mem = true := by simp [m5, m4, m3, h2]
  have h6 : Mem.wf m6.mem = true := by
    simp only [m6]; split <;> simp [h5]
  have h7 : Mem.wf m7.mem = true := by
    simp only [m7]; split <;> simp [h6]
  have h8 : Mem.wf m8.mem = true := by
    simp only [m8]; split <;> simp [h7]
  split <;> simp [h8]

/-- A closed issue leaves the form as it is, whatever its end: a hold, a rollback, a trap or its effect. -/
theorem wf_closeIssue (s : State) (h : s.memWf) : Mem.wf (closeIssue s).mach.mem = true := by
  unfold closeIssue
  obtain ⟨hm, hi⟩ := h
  split
  · exact hm
  · rename_i iss e
    rw [e] at hi
    obtain ⟨hp, hb⟩ := hi
    dsimp only
    split
    · exact wf_applyMarks _ _ _ hb
    · split
      · simp only [Mach.modCore_mem]
        (repeat' split) <;> first
          | exact hb
          | simp [hb]
      · split
        · apply wf_takeTrap
          split <;> simp [hb]
        · exact wf_commitIssue _ _ hm

@[simp] theorem closeIssue_iss (s : State) : (closeIssue s).iss = none := by
  unfold closeIssue
  split
  · assumption
  · rfl

/-! ### Opening an issue -/

@[simp] theorem wf_standHead (m : Mach) (c : Nat) (st : Stream) (words : List Instr) (hm : Mem.wf m.mem = true) :
    Mem.wf (m.standHead c st words).mem = true := by
  dsimp only [Mach.standHead]
  (repeat' split) <;> simp (maxDischargeDepth := 9) [hm]

/-- What an issue that opens starts from. -/
theorem openIssue_spec (m : Mach) (c : Nat) (w : List (Stream × Instr)) (o : List (Stream × Origin)) (pre : Mach) (iss : Issue)
    (h : openIssue m c w o = some (pre, iss)) (hm : Mem.wf m.mem = true) :
    iss.core = c ∧ iss.pre = pre ∧ iss.back = m ∧ iss.words = w ∧ iss.origins = o ∧ Mem.wf pre.mem = true := by
  simp only [openIssue] at h
  split at h
  · cases h
  · split at h
    · cases h
    · rename_i g
      simp only [Option.some.injEq, Prod.mk.injEq] at h
      obtain ⟨rfl, rfl⟩ := h
      refine ⟨rfl, rfl, rfl, rfl, rfl, ?_⟩
      split <;> simp [hm]

/-! ### A word -/

theorem memWf_of (s : State) (m : Mach) (iss : Issue) (hm : Mem.wf m.mem = true) (hp : Mem.wf iss.pre.mem = true)
    (hb : Mem.wf iss.back.mem = true) : State.memWf { s with mach := m, iss := some iss } := ⟨hm, hp, hb⟩

/-- A word evaluated in an open issue keeps what that issue reads and falls back to. -/
theorem evalWord_keeps (i : Instr) (b : Body) (hb : b.Keeps) (iss : Issue) (s : State) (h : s.iss = some iss) (hw : s.memWf) :
    (evalWord i b iss s).memWf := by
  have hw' := hw
  obtain ⟨hm, hi⟩ := hw
  rw [h] at hi
  obtain ⟨hp, hk⟩ := hi
  unfold evalWord
  extract_lets stop
  have hs : ∀ e, (stop e).memWf := fun e => ⟨hm, hp, hk⟩
  (repeat' split) <;> first
    | exact hs _
    | exact hw'
    | skip
  obtain ⟨a, c, d⟩ := hb _ _ _ _ ‹_›
  exact ⟨d hm, by simpa [a] using hp, by simpa [c] using hk⟩

/-- A slot word always answers a next state, which keeps the form. -/
theorem runWord_keeps (i : Instr) (b : Body) (hb : b.Keeps) (s : State) (hw : s.memWf) :
    ∃ t, runWord i b s = .next t ∧ t.memWf := by
  unfold runWord
  split
  · exact ⟨_, rfl, evalWord_keeps i b hb _ s ‹_› hw⟩
  · extract_lets m
    have hm : Mem.wf m.mem = true := wf_standHead _ _ _ _ hw.1
    split
    · exact ⟨_, rfl, hm, by rw [show s.iss = none from ‹_›]; trivial⟩
    · obtain ⟨_, a, c, _, _, d⟩ := openIssue_spec _ _ _ _ _ _ ‹_› hm
      refine ⟨_, rfl, wf_closeIssue _ (evalWord_keeps i b hb _ _ rfl ?_), ?_⟩
      · exact ⟨d, by simpa [a] using d, by simpa [c] using hm⟩
      · rw [closeIssue_iss]; trivial

/-- A slot word always answers a next state. -/
theorem runWord_next (i : Instr) (b : Body) (s : State) : ∃ t, runWord i b s = .next t := by
  dsimp only [runWord]
  (repeat' split) <;> exact ⟨_, rfl⟩

/-- In an open issue a word answers its meaning, where nothing before it stops the word. -/
theorem runWord_takes (i : Instr) (b : Body) (iss : Issue) (s : State) (h : Takes i iss s) :
    runWord i b s = match b iss s.mach with
      | .ok (iss', m) => answer s iss' m
      | .error e => stopped s iss i e := by
  obtain ⟨ho, hg, hf, hu, ha, ht⟩ := h
  have h1 : (unsupported i && iss.x.region.isSome) = false := by
    revert hu; cases unsupported i <;> simp
    intro a _; exact a
  have h2 : (unsupported i && (s.mach.core iss.core).region.isSome) = false := by
    revert hu; cases unsupported i <;> simp
  simp only [runWord, ho, evalWord, hg, hf, h1, h2, ha, ht, Bool.not_true, Bool.false_eq_true, if_false]
  cases b iss s.mach <;> rfl

/-- A word whose guard reads false does nothing (R13). -/
theorem runWord_guarded (i : Instr) (b : Body) (iss : Issue) (s : State) (ho : s.iss = some iss) (hg : guarded iss.x i = false) :
    runWord i b s = .next s := by simp [runWord, ho, evalWord, hg]

end Sys2Proof.Machine
end

