-- ==== Sys2Proof/Laws/Step.lean ====
section
/-! SUPPORT. A cycle of a core, and a move of the module: given that every instruction answers a next state that keeps the canonical
form, so does the cycle, and no issue is left open. -/

namespace Sys2Proof.Machine

/-- Every instruction answers a next state that keeps the form. -/
def Exec.Keeps (ex : Exec) : Prop := ∀ i s, s.memWf → ∃ t, ex i s = .next t ∧ t.memWf

/-- An answer that keeps the form and leaves no issue open. -/
def Rests (o : Host.Outcome State Fault Refusal) : Prop := ∃ t, o = .next t ∧ t.Inv

theorem State.Inv.memWf {s : State} (h : s.Inv) : s.memWf := ⟨h.2, by rw [h.1]; trivial⟩

/-! ### Evaluating and closing -/

theorem foldWords_keeps (ex : Exec) (hx : ex.Keeps) (l : List (Stream × Instr)) (s : State) (h : s.memWf) :
    ∃ t, foldWords ex l s = .next t ∧ t.memWf := by
  induction l generalizing s with
  | nil => exact ⟨s, rfl, h⟩
  | cons w r ih =>
    obtain ⟨st, i⟩ := w
    have h' : State.memWf { s with iss := s.iss.map (fun x => { x with stream := st }) } := by
      obtain ⟨hm, hi⟩ := h
      refine ⟨hm, ?_⟩
      cases e : s.iss with
      | none => simp
      | some iss => rw [e] at hi; simpa using hi
    obtain ⟨t, ht, hk⟩ := hx i _ h'
    simp only [foldWords, ht]
    exact ih t hk

/-- An evaluated issue was held before its words were read, or answers a next state that keeps the form. -/
def Evaluated.Keeps (e : Evaluated) : Prop := e = none ∨ ∃ t, e = some (.next t) ∧ t.memWf

theorem evalIssue_keeps (ex : Exec) (hx : ex.Keeps) (c : Nat) (heads : List (Stream × HeadBundle))
    (extra : List (Stream × Nat × Stop)) (s : State) (h : s.memWf) : Evaluated.Keeps (evalIssue ex c heads extra s) := by
  dsimp only [evalIssue]
  split
  · exact .inl rfl
  · rename_i pre iss e
    obtain ⟨_, a, b, _, _, d⟩ := openIssue_spec _ _ _ _ _ _ e h.1
    obtain ⟨t, ht, hk⟩ := foldWords_keeps ex hx (foldOrder (heads.flatMap (fun h => h.2.words.map (fun i => (h.1, i))))) _
      (memWf_of s pre { iss with stops := iss.stops ++ extra } d (by simpa [a] using d) (by simpa [b] using h.1))
    exact .inr ⟨t, congrArg some ht, hk⟩

theorem closeEval_rests (s : State) (e : Evaluated) (hs : s.Inv) (he : e.Keeps) : Rests (closeEval s e) := by
  rcases he with rfl | ⟨t, rfl, ht⟩
  · exact ⟨s, rfl, hs⟩
  · exact ⟨_, rfl, closeIssue_iss t, wf_closeIssue t ht⟩

@[simp] theorem wf_countStretch (c : Nat) (m : Mach) (st : Stream) (hm : Mem.wf m.mem = true) :
    Mem.wf (m.countStretch c st).mem = true := by
  unfold Mach.countStretch
  split <;> simp [hm]

/-! ### Merging the streams -/

theorem secondaryAlone_rests (ex : Exec) (hx : ex.Keeps) (c : Nat) (q : HeadBundle) (s : State) (h : s.Inv) :
    Rests (secondaryAlone ex c q s) :=
  closeEval_rests _ _ h (evalIssue_keeps ex hx c _ _ s h.memWf)

theorem waitMarks_inv (c : Nat) (apart : Bool) (e : Evaluated) (s : State) (h : s.Inv) : (waitMarks c apart e s).Inv := by
  dsimp only [waitMarks]
  (repeat' split) <;> first
    | exact h
    | exact ⟨h.1, wf_applyMarks _ _ _ h.2⟩

theorem besideHeld_rests (ex : Exec) (hx : ex.Keeps) (c : Nat) (p : HeadBundle) (sec : Option HeadBundle) (s : State) (h : s.Inv) :
    Rests (besideHeld ex c p sec s) := by
  dsimp only [besideHeld]
  split
  · exact ⟨s, rfl, h⟩
  · split
    · exact secondaryAlone_rests ex hx c _ s h
    · exact ⟨_, rfl, waitMarks_inv _ _ _ _ h⟩

theorem mergeStreams_rests (ex : Exec) (hx : ex.Keeps) (c : Nat) (p : HeadBundle) (extra : List (Stream × Nat × Stop))
    (sec : Option HeadBundle) (s : State) (h : s.Inv) : Rests (mergeStreams ex c p extra sec s) := by
  have hp := closeEval_rests _ _ h (evalIssue_keeps ex hx c [(.primary, p)] extra s h.memWf)
  dsimp only [mergeStreams]
  split
  · exact hp
  · rename_i q
    split
    · split
      · exact closeEval_rests _ _ h (evalIssue_keeps ex hx c _ extra s h.memWf)
      · obtain ⟨t, ht, hi⟩ := hp
        rw [ht]
        exact ⟨_, rfl, waitMarks_inv _ _ _ _ hi⟩
    · obtain ⟨t, ht, hi⟩ := hp
      rw [ht]
      dsimp only
      split
      · exact secondaryAlone_rests ex hx c q t hi
      · exact besideHeld_rests ex hx c p _ t hi

/-! ### A cycle of a core -/

theorem fetchLine_mem (m : Mach) (c line : Nat) : (m.fetchLine c line).2.mem = m.mem := by
  dsimp only [Mach.fetchLine]
  split
  · rfl
  · split <;> rfl

theorem fetchBundle_mem (m : Mach) (c : Nat) (pc : Dword) (b : Bundle) (m' : Mach) (h : m.fetchBundle c pc = .ok (b, m')) :
    m'.mem = m.mem := by
  dsimp only [Mach.fetchBundle] at h
  split at h
  · split at h
    · cases h
    · cases h
      rw [Mach.modCore_mem, fetchLine_mem]
      unfold Mach.fillTlb
      split
      · rw [Mach.modCore_mem, Mach.keepWalk_mem, Mach.walkReads_mem]
      · rfl
  · cases h

@[simp] theorem wf_withholdPrimary (m : Mach) (c : Nat) (hm : Mem.wf m.mem = true) :
    Mem.wf (Mach.withholdPrimary m c).mem = true := by
  dsimp only [Mach.withholdPrimary]
  (repeat' split) <;> simp (maxDischargeDepth := 9) [hm]

@[simp] theorem wf_idleStep (m : Mach) (c : Nat) (st : Stream) (hm : Mem.wf m.mem = true) :
    Mem.wf (Mach.idleStep m c st).mem = true := by
  dsimp only [Mach.idleStep]
  (repeat' split) <;> simp (maxDischargeDepth := 9) [hm]

theorem fetchTrap_inv (c : Nat) (o : Origin) (t : Trap) (s : State) (h : s.Inv) : (fetchTrap c o t s).Inv := by
  dsimp only [fetchTrap]
  split
  · exact ⟨h.1, by simpa using h.2⟩
  · exact h

/-- Finding the head of the primary stream leaves memory as it is. -/
theorem primaryHead_mem (m : Mach) (c : Nat) (h : Option HeadBundle) (m' : Mach) (e : m.primaryHead c = .ok (h, m')) :
    m'.mem = m.mem := by
  dsimp only [Mach.primaryHead] at e
  split at e
  · cases e; rfl
  · split at e
    · cases e; exact fetchBundle_mem _ _ _ _ _ ‹_›
    · cases e

@[simp] theorem wf_standSecondary (m : Mach) (c : Nat) (hm : Mem.wf m.mem = true) : Mem.wf (m.standSecondary c).mem = true := by
  unfold Mach.standSecondary
  split <;> simp [hm]

/-- Standing at issue leaves memory in its form, whatever the primary stream has at its head. -/
theorem wf_standPrimary (m : Mach) (c : Nat) (h : Option HeadBundle) (m' : Mach) (e : m.standPrimary c = .ok (h, m'))
    (hm : Mem.wf m.mem = true) : Mem.wf m'.mem = true := by
  unfold Mach.standPrimary at e
  split at e
  · cases e; exact hm
  · split at e
    · cases e
      exact wf_standHead _ _ _ _ (by rw [primaryHead_mem _ _ _ _ ‹_›]; exact hm)
    · rw [primaryHead_mem _ _ _ _ e]; exact hm

theorem issueCycle_rests (ex : Exec) (hx : ex.Keeps) (c : Nat) (s : State) (h : s.Inv) : Rests (issueCycle ex c s) := by
  unfold issueCycle
  extract_lets m0 x sec m1 alone replays withheld
  have h0 : Mem.wf m0.mem = true := wf_standSecondary _ _ (wf_withholdPrimary _ _ h.2)
  have h1 : Mem.wf m1.mem = true := by
    simp only [m1]
    split <;> simp [h0]
  have ha : ∀ m, Mem.wf m.mem = true → Rests (alone m) := by
    intro m hm
    simp only [alone]
    cases sec with
    | none => exact ⟨_, rfl, h.1, hm⟩
    | some q => exact secondaryAlone_rests ex hx c q _ ⟨h.1, hm⟩
  have merged := fun p x q m (hm : Mem.wf m.mem = true) => mergeStreams_rests ex hx c p x q { s with mach := m } ⟨h.1, hm⟩
  split
  · have h2 := wf_standPrimary _ _ _ _ ‹_› h1
    apply ha
    split <;> simp [h2]
  · have h2 := wf_standPrimary _ _ _ _ ‹_› h1
    split
    · exact ha _ h2
    · split
      · exact besideHeld_rests ex hx c _ _ _ ⟨h.1, h2⟩
      · exact merged _ _ _ _ (by simp [h2])
  · split
    · exact ha _ h1
    · split
      · exact ⟨_, rfl, fetchTrap_inv _ _ _ _ ⟨h.1, h1⟩⟩
      · exact merged _ _ _ _ (by simp [h1])

@[simp] theorem wf_standHeads (m : Mach) (c : Nat) (hm : Mem.wf m.mem = true) : Mem.wf (m.standHeads c).mem = true := by
  dsimp only [Mach.standHeads]
  split
  · exact wf_standPrimary _ _ _ _ ‹_› (by simp [hm])
  · simp [hm]

theorem wf_beginCycle (m : Mach) (c : Nat) (hm : Mem.wf m.mem = true) : Mem.wf (m.beginCycle c).mem = true := by
  dsimp only [Mach.beginCycle]
  split
  · exact hm
  · exact wf_release _ _ hm

theorem coreCycle_rests (ex : Exec) (hx : ex.Keeps) (c : Nat) (s : State) (h : s.Inv) : Rests (coreCycle ex c s) := by
  dsimp only [coreCycle]
  split
  · exact ⟨s, rfl, h⟩
  · generalize hm : s.mach.beginCycle c = m
    have hw : Mem.wf m.mem = true := hm ▸ wf_beginCycle _ _ h.2
    split
    · exact ⟨_, rfl, h.1, wf_standHeads _ _ hw⟩
    · obtain ⟨t, ht, hi⟩ := issueCycle_rests ex hx c { s with mach := m } ⟨h.1, hw⟩
      rw [ht]
      refine ⟨_, rfl, ?_⟩
      split
      · exact hi
      · exact ⟨hi.1, wf_idleStep _ _ _ hi.2⟩

/-! ### A move -/

/-- A move rests, or the head of the agenda names an agent that the module does not have. -/
theorem move_rests (ex : Exec) (co : Exec → Nat → State → Host.Outcome State Fault Refusal) (hx : ex.Keeps)
    (hc : ∀ k s, s.Inv → Rests (co ex k s)) (he : ∀ i s, s.Inv → Rests (ex i s)) (s : State) (h : s.Inv) :
    Rests (move ex co s) ∨ (move ex co s = .fault .noSuchAgent ∧
      ((∃ c r, s.turns = .cycle c :: r ∧ 1024 ≤ c) ∨ (∃ k r, s.turns = .compose k :: r ∧ 256 ≤ k))) := by
  dsimp only [move, State.turns]
  split
  · exact .inl ⟨s, rfl, h⟩
  · split
    · exact .inr ⟨rfl, .inl ⟨_, _, ‹_›, ‹_›⟩⟩
    · exact .inl (coreCycle_rests ex hx _ _ h)
  · split
    · exact .inr ⟨rfl, .inr ⟨_, _, ‹_›, ‹_›⟩⟩
    · exact .inl (hc _ _ h)
  · exact .inl (he _ _ h)

end Sys2Proof.Machine
end

