-- ==== Sys2Proof/Tests/Slice0.lean ====
section
/-! SUPPORT. Tests. The words are written from the fields of spec/opcode_table.json, and the expected results are the worked
examples of the rules cited; the last part shows, for each obligation with hypotheses, a state that meets them. -/

namespace Sys2Proof.Tests

set_option Elab.async false

open Sys2Proof Sys2Proof.Machine

/-! ### Small states -/

/-- A leaf that maps a 16 KiB page of writable tracked memory at physical address 0x20000 under KEYID 0. -/
def leafRw : BitVec 64 := 0x20223

/-- The translation of the page at virtual address 0 of space 0, as a core's TLB holds it. -/
def tlbRw : TlbEntry := { space := 0, page := 0, shift := 14, leaf := leafRw }

/-- A module whose core 0 is `x`. -/
def machOf (x : CoreState) : Mach := { vclk := 100, cores := [(0, x)] }

/-- An issue of the primary bundle of core 0 at address 0x400, open on that module. -/
def issOf (x : CoreState) : Issue :=
  { core := 0, stream := .primary, pre := machOf x, back := machOf x, words := [], origins := [(.primary, { addr := 0x400 })] }

/-- The state with that issue open. -/
def openOf (x : CoreState) : State := { mach := machOf x, iss := some (issOf x) }

/-- Nothing but the word's own meaning decides what it does on core `x`. -/
def okOn (x : CoreState) (i : Instr) : Bool :=
  guarded (issOf x).x i && !(unsupported i && ((issOf x).x.region.isSome || x.region.isSome)) &&
    !((issOf x).x.trap.monitor && !(serviceWord i)) && !(twilightRefused i && (issOf x).x.twilight)

theorem takes_open (x : CoreState) (i : Instr) (h : okOn x i = true) : Takes i (issOf x) (openOf x) := by
  simp only [okOn, Bool.and_eq_true, Bool.not_eq_true'] at h
  exact ⟨rfl, h.1.1.1, Bool.and_false _, h.1.1.2, h.1.2, h.2⟩

theorem takes_list (x : CoreState) (l : List Instr) (h : l.all (okOn x) = true) : ∀ i ∈ l, Takes i (issOf x) (openOf x) :=
  fun i hi => takes_open x i (List.all_eq_true.mp h i hi)

/-- What a word leaves: the state after it, where it answers one. -/
def after (i : Instr) (s : State) : Option State := match exec i s with
  | .next t => some t
  | _ => none

/-- The last result on its way in core 0 after a word: its destination and value. -/
def resultOf (i : Instr) (x : CoreState) : Option (Dest × VData) :=
  (after i (openOf x)).bind (fun t => (t.mach.core 0).flight.pend.getLast?.map (fun p => (p.dest, p.value)))

/-- Lane 0 of that result, and the events of the word: kind, count and first position. -/
def laneAndEvents (i : Instr) (x : CoreState) : Option (BitVec 32 × List (BitVec 8 × Nat × Nat)) :=
  (after i (openOf x)).bind (fun t => match (t.mach.core 0).flight.pend.getLast?, t.iss with
    | some p, some iss => some (lane p.value 0, iss.events.map (fun e => (e.kind, e.count, e.first)))
    | _, _ => none)

/-- The stops that a word notes in its issue. -/
def stopsOf (i : Instr) (x : CoreState) : List Stop :=
  match (after i (openOf x)).bind (·.iss) with
  | some iss => iss.stops.map (fun e => e.2.2)
  | none => []

/-- A core with scalar registers. -/
def coreG (l : List (Nat × Dword)) : CoreState := { regs := { g := l } }

/-- A word of a slot is read as an instruction. -/
def reads (k : Slot) (w : SlotWord) (i : Instr) : Prop := decodeWord k w = .ok i

/-- A word of a slot is refused. -/
def refused (k : Slot) (w : SlotWord) : Bool := match decodeWord k w with
  | .ok _ => false
  | .error _ => true

/-! ### The words of every instruction -/

theorem test_words_sc_1 :
    reads .sc 0x80618A30 (.scAdd 8 33 34 35)
    ∧ reads .sc 0x80618A31 (.scSub 8 33 34 35)
    ∧ reads .sc 0x80618A32 (.scAnd 8 33 34 35)
    ∧ reads .sc 0x80618A33 (.scOr 8 33 34 35)
    ∧ reads .sc 0x80618A34 (.scXor 8 33 34 35)
    ∧ reads .sc 0x80618A35 (.scAndn 8 33 34 35)
    ∧ reads .sc 0x80618A36 (.scShl 8 33 34 35)
    ∧ reads .sc 0x80618A37 (.scShr 8 33 34 35)
    ∧ reads .sc 0x80618A38 (.scSra 8 33 34 35)
    ∧ reads .sc 0x80618A39 (.scMin 8 33 34 35)
    ∧ reads .sc 0x80618A3A (.scMax 8 33 34 35)
    ∧ reads .sc 0x80618A3B (.scMinu 8 33 34 35)
    ∧ reads .sc 0x80618A3C (.scMaxu 8 33 34 35)
    ∧ reads .sc 0x80618A3D (.scBfx 8 33 34 35)
    ∧ reads .sc 0x80618A3E (.scBfi 8 33 34 35)
    ∧ reads .sc 0x80A18800 (.scClz 8 33 34)
    ∧ reads .sc 0x80A18801 (.scCtz 8 33 34)
    ∧ reads .sc 0x80A18802 (.scPopc 8 33 34)
    ∧ reads .sc 0x80A18803 (.scSextB 8 33 34)
    ∧ reads .sc 0x80A18804 (.scSextH 8 33 34)
    ∧ reads .sc 0x80A18805 (.scSextW 8 33 34)
    ∧ reads .sc 0x80A18806 (.scZextB 8 33 34)
    ∧ reads .sc 0x80A18807 (.scZextH 8 33 34)
    ∧ reads .sc 0x80A18808 (.scZextW 8 33 34)
    ∧ reads .sc 0x80E18A30 (.scMul 8 33 34 35) := by
  repeat' apply And.intro
  all_goals first | rfl | (dsimp only; rfl)

theorem test_words_sc_2 :
    reads .sc 0x80E18A31 (.scMulh 8 33 34 35)
    ∧ reads .sc 0x80E18A32 (.scMulhu 8 33 34 35)
    ∧ reads .sc 0x80E18A33 (.scDiv 8 33 34 35)
    ∧ reads .sc 0x80E18A34 (.scDivu 8 33 34 35)
    ∧ reads .sc 0x80E18A35 (.scRem 8 33 34 35)
    ∧ reads .sc 0x80E18A36 (.scRemu 8 33 34 35)
    ∧ reads .sc 0x81218A3C (.scSel 8 33 34 35 12)
    ∧ reads .sc 0x8166A390 (.scCmpEq 8 9 10 35 36)
    ∧ reads .sc 0x8166A391 (.scCmpNe 8 9 10 35 36)
    ∧ reads .sc 0x8166A392 (.scCmpLt 8 9 10 35 36)
    ∧ reads .sc 0x8166A393 (.scCmpLtu 8 9 10 35 36)
    ∧ reads .sc 0x81A6A390 (.scCmpGe 8 9 10 35 36)
    ∧ reads .sc 0x81A6A391 (.scCmpGeu 8 9 10 35 36)
    ∧ reads .sc 0x81E6A384 (.scCmpiEq 8 9 10 35 132)
    ∧ reads .sc 0x8226A384 (.scCmpiNe 8 9 10 35 132)
    ∧ reads .sc 0x8266A384 (.scCmpiLt 8 9 10 35 132)
    ∧ reads .sc 0x82A6A384 (.scCmpiLtu 8 9 10 35 132)
    ∧ reads .sc 0x82E6A384 (.scCmpiGe 8 9 10 35 132)
    ∧ reads .sc 0x8326A384 (.scCmpiGeu 8 9 10 35 132)
    ∧ reads .sc 0x84218A03 (.scAddi 8 33 34 0x203)
    ∧ reads .sc 0x84618A03 (.scAndi 8 33 34 0x203)
    ∧ reads .sc 0x84A18A03 (.scOri 8 33 34 0x203)
    ∧ reads .sc 0x84E18A03 (.scXori 8 33 34 0x203)
    ∧ reads .sc 0x85218823 (.scShli 8 33 34 35)
    ∧ reads .sc 0x85618823 (.scShri 8 33 34 35) := by
  repeat' apply And.intro
  all_goals first | rfl | (dsimp only; rfl)

theorem test_words_sc_3 :
    reads .sc 0x85A18823 (.scSrai 8 33 34 35)
    ∧ reads .sc 0x85E18A03 (.scMini 8 33 34 0x203)
    ∧ reads .sc 0x86218A03 (.scMaxi 8 33 34 0x203)
    ∧ reads .sc 0x86618A03 (.scMinui 8 33 34 0x203)
    ∧ reads .sc 0x86A18A03 (.scMaxui 8 33 34 0x203)
    ∧ reads .sc 0x87E28003 (.scImm 8 3 34 0x8003)
    ∧ reads .sc 0x88218BA5 (.scLd 8 33 34 3 2 37)
    ∧ reads .sc 0x88618BA5 (.scLdu 8 33 34 3 2 37)
    ∧ reads .sc 0x88A18BA5 (.scSt 8 33 34 3 2 37)
    ∧ reads .sc 0x88E188E4 (.scLdc 8 33 34 3 36)
    ∧ reads .sc 0x88E189E4 (.scLdcFe 8 33 34 3 36)
    ∧ reads .sc 0x88E18AE4 (.scLdcTake 8 33 34 3 36)
    ∧ reads .sc 0x892188A4 (.scLdcu 8 33 34 2 36)
    ∧ reads .sc 0x892189A4 (.scLdcuFe 8 33 34 2 36)
    ∧ reads .sc 0x89218AA4 (.scLdcuTake 8 33 34 2 36)
    ∧ reads .sc 0x896188E4 (.scStc 8 33 34 3 36)
    ∧ reads .sc 0x896189E4 (.scStcSet 8 33 34 3 36)
    ∧ reads .sc 0x8A218A3B (.scAmoAdd 8 33 34 35 2 1)
    ∧ reads .sc 0x8A618A3B (.scAmoAnd 8 33 34 35 2 1)
    ∧ reads .sc 0x8AA18A3B (.scAmoOr 8 33 34 35 2 1)
    ∧ reads .sc 0x8AE18A3B (.scAmoXor 8 33 34 35 2 1)
    ∧ reads .sc 0x8B218A3B (.scAmoMax 8 33 34 35 2 1)
    ∧ reads .sc 0x8B618A3B (.scAmoMin 8 33 34 35 2 1)
    ∧ reads .sc 0x8BA18A3B (.scAmoMaxu 8 33 34 35 2 1)
    ∧ reads .sc 0x8BE18A3B (.scAmoMinu 8 33 34 35 2 1) := by
  repeat' apply And.intro
  all_goals first | rfl | (dsimp only; rfl)

theorem test_words_sc_4 :
    reads .sc 0x8C218A3B (.scAmoSwap 8 33 34 35 2 1)
    ∧ reads .sc 0x8C618A3B (.scAmoCas 8 33 34 35 2 1)
    ∧ reads .sc 0x8E218020 (.scMfc 8 33 0x802)
    ∧ reads .sc 0x8E218021 (.scMtc 8 33 0x802)
    ∧ reads .sc 0x8E218022 (.scShw 8 33 0x802)
    ∧ reads .sc 0x8E210003 (.scCtv 8 33)
    ∧ reads .sc 0x8E008014 (.scSvc 8 0x801)
    ∧ reads .sc 0x8E008015 (.scTrap 8 0x801)
    ∧ reads .sc 0x8E008016 (.scBrk 8 0x801)
    ∧ reads .sc 0x8E210007 (.scStqpop 8 33)
    ∧ reads .sc 0x8E000008 (.scEret 8)
    ∧ reads .sc 0x8E618A30 (.scZdef 8 33 34 35)
    ∧ reads .sc 0x8E618A31 (.scZdefh 8 33 34 35)
    ∧ reads .sc 0x8E618A32 (.scHdef 8 33 34 35)
    ∧ reads .sc 0x8E618A33 (.scCmpx 8 33 34 35) := by
  repeat' apply And.intro
  all_goals first | rfl | (dsimp only; rfl)

theorem test_words_ct_1 :
    reads .ct 0x80600001 (.ctBr 8 0x200001)
    ∧ reads .ct 0x80A00001 (.ctCall 8 0x200001)
    ∧ reads .ct 0x80E10000 (.ctCallr 8 33)
    ∧ reads .ct 0x81210000 (.ctJr 8 33)
    ∧ reads .ct 0x81610000 (.ctRet 8 33)
    ∧ reads .ct 0x81A1A803 (.ctLoop 8 33 10 0x803)
    ∧ reads .ct 0x8226AF00 (.ctWait 8 9 10 11 12)
    ∧ reads .ct 0x82680000 (.ctBarArrive 8 5)
    ∧ reads .ct 0x82690000 (.ctBarWait 8 5)
    ∧ reads .ct 0x826A0000 (.ctBarSync 8 5)
    ∧ reads .ct 0x82A04000 (.ctFenceRel 8 129)
    ∧ reads .ct 0x82A05000 (.ctFenceAcq 8 129)
    ∧ reads .ct 0x82A06000 (.ctFenceVis 8 129)
    ∧ reads .ct 0x82BFF000 (.ctFenceFull 8)
    ∧ reads .ct 0x83211008 (.ctArm 8 33 0x1008)
    ∧ reads .ct 0x83610000 (.ctMwait 8 33)
    ∧ reads .ct 0x84200001 (.ctDawn 8 0x200001)
    ∧ reads .ct 0x84400000 (.ctDusk 8)
    ∧ reads .ct 0x84A40000 (.ctCheck 8 9)
    ∧ reads .ct 0x84C00000 (.ctAbort 8)
    ∧ reads .ct 0x8626AC00 (.ctPand 8 9 10 11)
    ∧ reads .ct 0x8626AC40 (.ctPor 8 9 10 11)
    ∧ reads .ct 0x8626AC80 (.ctPxor 8 9 10 11)
    ∧ reads .ct 0x8626ACC0 (.ctPandn 8 9 10 11)
    ∧ reads .ct 0x86268100 (.ctPnot 8 9 10) := by
  repeat' apply And.intro
  all_goals first | rfl | (dsimp only; rfl)

theorem test_words_ct_2 :
    reads .ct 0x86240140 (.ctPset 8 9)
    ∧ reads .ct 0x86240180 (.ctPclr 8 9)
    ∧ reads .ct 0x87240000 (.ctRoff 8 9)
    ∧ reads .ct 0x87600001 (.ctIdle 8 0x200001)
    ∧ reads .ct 0x87800000 (.ctEnd 8) := by
  repeat' apply And.intro
  all_goals first | rfl | (dsimp only; rfl)

theorem test_words_v_1 :
    reads .vx 0x806329C0 (.vFadd .vx 8 17 18 19 4)
    ∧ reads .vy 0x806329C1 (.vFsub .vy 8 17 18 19 4)
    ∧ reads .vx 0x806329C2 (.vFmul .vx 8 17 18 19 4)
    ∧ reads .vy 0x806329C3 (.vFma .vy 8 17 18 19 4)
    ∧ reads .vx 0x806329C4 (.vFms .vx 8 17 18 19 4)
    ∧ reads .vy 0x806329C5 (.vFmin .vy 8 17 18 19 4)
    ∧ reads .vx 0x806329C6 (.vFmax .vx 8 17 18 19 4)
    ∧ reads .vy 0x806329C7 (.vFabs .vy 8 17 18 19 4)
    ∧ reads .vx 0x806329C8 (.vFneg .vx 8 17 18 19 4)
    ∧ reads .vy 0x806329C9 (.vFscale .vy 8 17 18 19 4)
    ∧ reads .vx 0x812328E0 (.vFaddS .vx 8 17 18 35 4)
    ∧ reads .vy 0x812328E1 (.vFsubS .vy 8 17 18 35 4)
    ∧ reads .vx 0x812328E2 (.vFmulS .vx 8 17 18 35 4)
    ∧ reads .vy 0x812328E3 (.vFmaS .vy 8 17 18 35 4)
    ∧ reads .vx 0x812328E4 (.vFminS .vx 8 17 18 35 4)
    ∧ reads .vy 0x812328E5 (.vFmaxS .vy 8 17 18 35 4)
    ∧ reads .vx 0x812328E6 (.vFscaleS .vx 8 17 18 35 4)
    ∧ reads .vy 0x80A329C0 (.vIadd .vy 8 17 18 19 4)
    ∧ reads .vx 0x80A329C1 (.vIsub .vx 8 17 18 19 4)
    ∧ reads .vy 0x80A329C2 (.vImul .vy 8 17 18 19 4)
    ∧ reads .vx 0x80A329C3 (.vImulh .vx 8 17 18 19 4)
    ∧ reads .vy 0x80A329C4 (.vIand .vy 8 17 18 19 4)
    ∧ reads .vx 0x80A329C5 (.vIor .vx 8 17 18 19 4)
    ∧ reads .vy 0x80A329C6 (.vIxor .vy 8 17 18 19 4)
    ∧ reads .vx 0x80A329C7 (.vIshl .vx 8 17 18 19 4) := by
  repeat' apply And.intro
  all_goals first | rfl | (dsimp only; rfl)

theorem test_words_v_2 :
    reads .vy 0x80A329C8 (.vIshr .vy 8 17 18 19 4)
    ∧ reads .vx 0x80A329C9 (.vIsra .vx 8 17 18 19 4)
    ∧ reads .vy 0x80A329CA (.vImin .vy 8 17 18 19 4)
    ∧ reads .vx 0x80A329CB (.vImax .vx 8 17 18 19 4)
    ∧ reads .vy 0x80A329CC (.vIminu .vy 8 17 18 19 4)
    ∧ reads .vx 0x80A329CD (.vImaxu .vx 8 17 18 19 4)
    ∧ reads .vy 0x816328E0 (.vIaddS .vy 8 17 18 35 4)
    ∧ reads .vx 0x816328E1 (.vIsubS .vx 8 17 18 35 4)
    ∧ reads .vy 0x816328E2 (.vImulS .vy 8 17 18 35 4)
    ∧ reads .vx 0x816328E3 (.vIandS .vx 8 17 18 35 4)
    ∧ reads .vy 0x816328E4 (.vIorS .vy 8 17 18 35 4)
    ∧ reads .vx 0x816328E5 (.vIxorS .vx 8 17 18 35 4)
    ∧ reads .vy 0x816328E6 (.vIshlS .vy 8 17 18 35 4)
    ∧ reads .vx 0x816328E7 (.vIshrS .vx 8 17 18 35 4)
    ∧ reads .vy 0x81A328E0 (.vIsraS .vy 8 17 18 35 4)
    ∧ reads .vx 0x81A328E1 (.vIminS .vx 8 17 18 35 4)
    ∧ reads .vy 0x81A328E2 (.vImaxS .vy 8 17 18 35 4)
    ∧ reads .vx 0x81A328E3 (.vIaddsS .vx 8 17 18 35 4)
    ∧ reads .vy 0x81A328E4 (.vIsubsS .vy 8 17 18 35 4)
    ∧ reads .vx 0x80E329C0 (.vIadds .vx 8 17 18 19 4)
    ∧ reads .vy 0x80E329C1 (.vIsubs .vy 8 17 18 19 4)
    ∧ reads .vx 0x80E329C2 (.vIabsd .vx 8 17 18 19 4)
    ∧ reads .vy 0x80E329C3 (.vIavg .vy 8 17 18 19 4)
    ∧ reads .vx 0x80E329C4 (.vImad16 .vx 8 17 18 19 4)
    ∧ reads .vy 0x822E9D28 (.vFcmpEq .vy 8 5 6 19 20 5) := by
  repeat' apply And.intro
  all_goals first | rfl | (dsimp only; rfl)

theorem test_words_v_3 :
    reads .vx 0x822E9D29 (.vFcmpLt .vx 8 5 6 19 20 5)
    ∧ reads .vy 0x822E9D2A (.vFcmpLe .vy 8 5 6 19 20 5)
    ∧ reads .vx 0x822E9D2B (.vFcmpUn .vx 8 5 6 19 20 5)
    ∧ reads .vy 0x826E9D28 (.vIcmpEq .vy 8 5 6 19 20 5)
    ∧ reads .vx 0x826E9D29 (.vIcmpLt .vx 8 5 6 19 20 5)
    ∧ reads .vy 0x826E9D2A (.vIcmpLtu .vy 8 5 6 19 20 5)
    ∧ reads .vx 0x82A32070 (.vFsum .vx 8 17 18 7)
    ∧ reads .vy 0x82A32071 (.vFmaxr .vy 8 17 18 7)
    ∧ reads .vx 0x82A32072 (.vImaxr .vx 8 17 18 7)
    ∧ reads .vy 0x82A32073 (.vIminr .vy 8 17 18 7)
    ∧ reads .vx 0x82A32074 (.vIsumr .vx 8 17 18 7)
    ∧ reads .vy 0x81E208B8 (.vBcast .vy 8 17 34 7)
    ∧ reads .vx 0x81E328E1 (.vSlideUp .vx 8 17 18 35 4)
    ∧ reads .vy 0x81E328E2 (.vSlideDn .vy 8 17 18 35 4)
    ∧ reads .vx 0x82E32070 (.vMov .vx 8 17 18 7)
    ∧ reads .vy 0x82E329C1 (.vSel .vy 8 17 18 19 4)
    ∧ reads .vx 0x82E329C2 (.vPerm .vx 8 17 18 19 4)
    ∧ reads .vy 0x82E20063 (.vLidx .vy 8 17 6)
    ∧ reads .vx 0x832324CC (.vCvt .vx 8 17 18 9 4 3)
    ∧ reads .vy 0x832324C1 (.vRetag .vy 8 17 18 9 4)
    ∧ reads .vx 0x882317A5 (.vLdL .vx 8 17 34 7 2 37)
    ∧ reads .vy 0x88631724 (.vStL .vy 8 17 34 7 36)
    ∧ reads .vx 0x88A317A5 (.vLdC .vx 8 17 34 7 2 37)
    ∧ reads .vy 0x88E317A5 (.vLdCFe .vy 8 17 34 7 2 37)
    ∧ reads .vx 0x892317A5 (.vLdCTake .vx 8 17 34 7 2 37) := by
  repeat' apply And.intro
  all_goals first | rfl | (dsimp only; rfl)

theorem test_words_v_4 :
    reads .vy 0x89631724 (.vStC .vy 8 17 34 7 36)
    ∧ reads .vx 0x89A31724 (.vStCSet .vx 8 17 34 7 36)
    ∧ reads .vy 0x8AE51CE6 (.vLdG 8 3 18 35 4 3 38)
    ∧ reads .vy 0x8BE51C25 (.vStG 8 3 18 35 4 37)
    ∧ reads .vy 0x8CE5392C (.vGather 8 3 18 19 36 5 4)
    ∧ reads .vy 0x8DE5392C (.vScatter 8 3 18 19 36 5 2) := by
  repeat' apply And.intro
  all_goals first | rfl | (dsimp only; rfl)

theorem test_words_mx :
    reads .mx 0x807B9290 (.mxMma 8 3 2 1 12 37 1)
    ∧ reads .mx 0x807B9291 (.mxMmaz 8 3 2 1 12 37 1)
    ∧ reads .mx 0x807A1202 (.mxHrot16 8 3 2 1 36)
    ∧ reads .mx 0x807A1203 (.mxHrot64 8 3 2 1 36)
    ∧ reads .mx 0x80BA9E60 (.mxDrain 8 3 2 1 9 3 38)
    ∧ reads .mx 0x80BA8E61 (.mxDrainH16 8 3 2 1 8 3 38)
    ∧ reads .mx 0x80BA7E62 (.mxDrainH64 8 3 2 1 7 3 38)
    ∧ reads .mx 0x808E0233 (.mxCprog 8 3 1 35)
    ∧ reads .mx 0x80B00004 (.mxMclr 8 3)
    ∧ reads .mx 0x80B11005 (.mxMtag 8 3 17)
    ∧ reads .mx 0x80B00226 (.mxMstat 8 3 34) := by
  repeat' apply And.intro
  all_goals first | rfl | (dsimp only; rfl)

theorem test_words_x :
    reads .ca 0x807A2960 (.xCp .ca 8 3 2 1 2 37 1)
    ∧ reads .cb 0x807A2961 (.xCpBs .cb 8 3 2 1 2 37 1)
    ∧ reads .ca 0x807A2942 (.xCpSh .ca 8 3 2 1 2 37)
    ∧ reads .cb 0x807A2963 (.xCpBcast .cb 8 3 2 1 2 37 1)
    ∧ reads .ca 0x807B4964 (.xCpDz .ca 8 3 2 1 20 37 1)
    ∧ reads .cb 0x807A4945 (.xSread .cb 8 3 2 1 4 37)
    ∧ reads .ca 0x80400846 (.xPub .ca 8 33)
    ∧ reads .cb 0x80400847 (.xCancel .cb 8 33) := by
  repeat' apply And.intro
  all_goals first | rfl | (dsimp only; rfl)

theorem test_words_pf :
    reads .pf 0x807A0000 (.pfTrn8 8 3 2 1)
    ∧ reads .pf 0x807A1000 (.pfTrn16 8 3 2 1)
    ∧ reads .pf 0x807A2000 (.pfTrn32 8 3 2 1)
    ∧ reads .pf 0x804E38C0 (.pfFill 8 3 1 35)
    ∧ reads .pf 0x807A4902 (.pfQnt 8 3 2 1 36 2)
    ∧ reads .pf 0x807A5902 (.pfDqnt 8 3 2 1 36 2)
    ∧ reads .pf 0x807A6000 (.pfUpx12 8 3 2 1)
    ∧ reads .pf 0x807A7000 (.pfPkx12 8 3 2 1)
    ∧ reads .pf 0x807A8900 (.pfShuf 8 3 2 1 36) := by
  repeat' apply And.intro
  all_goals first | rfl | (dsimp only; rfl)

theorem test_words_e :
    decodeComposer 0x0040000B = .eClr 4
    ∧ decodeComposer 0x0080000B = .eClrAll
    ∧ decodeComposer 0x0048900B = .eSet 4 17
    ∧ decodeComposer 0x8008A00B = .eTpl 0x800 17
    ∧ decodeComposer 0x0108B00B = .ePatch 16 17
    ∧ decodeComposer 0x0008400B = .eProv 16
    ∧ decodeComposer 0x0008002B = .eEmitP 16
    ∧ decodeComposer 0x0008102B = .eEmitS 16
    ∧ decodeComposer 0x0008202B = .eEmitA 16
    ∧ decodeComposer 0x8119302B = .eEmitrP 16 17 18
    ∧ decodeComposer 0x8119402B = .eEmitrS 16 17 18
    ∧ decodeComposer 0x0208D92B = .eQst 1 17 18
    ∧ decodeComposer 0x0319602B = .eWait 1 17 18
    ∧ decodeComposer 0x0208F02B = .eBind 1 17 := by
  repeat' apply And.intro
  all_goals first | rfl | (dsimp only; rfl)

/-! ### Words of the standard RISC-V set (log 5), and of the emit extension -/

theorem test_words_riscv :
    decodeComposer 0xFFF30293 = .rv64imacInstruction (.opImm .add 5 6 (-1)) false
    ∧ decodeComposer 0x002081B3 = .rv64imacInstruction (.op .add 3 1 2) false
    ∧ decodeComposer 0x00813503 = .rv64imacInstruction (.load 3 true 10 2 8) false
    ∧ decodeComposer 0x00A13423 = .rv64imacInstruction (.store 3 2 10 8) false
    ∧ decodeComposer 0xFE208EE3 = .rv64imacInstruction (.branch .eq 1 2 (-4)) false
    ∧ decodeComposer 0x02208133 = .rv64imacInstruction (.op .mul 2 1 2) false
    ∧ decodeComposer 0x2020A1B3 = .rv64imacInstruction (.op .sh1add 3 1 2) false
    ∧ decodeComposer 0x00000073 = .rv64imacInstruction .ecall false
    ∧ decodeComposer 0x30200073 = .rv64imacInstruction .mret false
    ∧ decodeComposer 0x10500073 = .rv64imacInstruction .wfi false
    ∧ decodeComposer 0x00004505 = .rv64imacInstruction (.opImm .add 10 0 1) true := by
  repeat' apply And.intro
  all_goals first | rfl | (dsimp only; rfl)

/-! ### Ill-formed terms and illegal words (R20, R62, R69) -/

theorem test_wf_refuses :
    ([.scLdu 0 1 2 0 3 0, .scLdcu 0 1 2 3 0, .scLdcuFe 0 1 2 3 0, .scLdcuTake 0 1 2 3 0,
      .ctBarArrive 0 0, .ctBarWait 0 6, .ctBarSync 0 7, .ctFenceRel 0 0, .ctFenceAcq 0 0, .ctFenceVis 0 0, .ctArm 0 1 4,
      .ctIdle 0 0, .vCvt .vx 0 1 2 10 0 0, .vRetag .vy 0 1 2 16 0, .vGather 0 0 1 2 3 0 5, .vScatter 0 0 1 2 3 0 3,
      .mxDrain 0 1 0 0 10 0 0, .mxDrainH16 0 1 0 0 17 0 0, .mxDrainH64 0 1 0 0 31 0 0, .mxMtag 0 1 9, .pfQnt 0 0 0 0 0 3,
      .pfDqnt 0 0 0 0 0 7] : List Instr).all (fun i => !i.wf) = true := by decide

theorem test_wf_accepts :
    ([.scLdu 0 1 2 0 2 0, .ctBarSync 0 5, .ctBarArrive 0 1, .ctFenceRel 0 1, .ctArm 0 1 8, .ctIdle 0 1, .vCvt .vx 0 1 2 9 0 0,
      .vGather 0 0 1 2 3 0 4, .vScatter 0 0 1 2 3 0 2, .mxMtag 0 1 16, .mxMtag 0 1 17, .pfQnt 0 0 0 0 0 2] : List Instr).all
      Instr.wf = true := by decide

/-- Word 0 is the NOP; op 0 with anything else is illegal, and so are unused ops, fn codes and reserved operands. -/
theorem test_illegal_words :
    reads .sc 0 .nop ∧ reads .pf 0 .nop ∧ refused .sc 1 = true ∧ refused .ct 0x10000000 = true ∧ refused .sc 0x0040000F = true
    ∧ refused .sc 0x00800009 = true ∧ refused .sc 0x00C00007 = true ∧ refused .ct 0x02400000 = true ∧ refused .ct 0x07400000 = true
    ∧ refused .vx 0x0A883041 = true ∧ refused .mx 0x00800007 = true := by
  repeat' apply And.intro
  all_goals rfl

/-! ### Scalar words at their corners (R90, R93, R97) -/

theorem test_add_wraps :
    resultOf (.scAdd 0 9 10 11) (coreG [(10, 0xFFFFFFFFFFFFFFFF), (11, 2)]) = some (.g 9, 1) := by decide +kernel

theorem test_div_corners :
    resultOf (.scDiv 0 9 10 11) (coreG [(10, 0x8000000000000000), (11, 0xFFFFFFFFFFFFFFFF)]) = some (.g 9, 0x8000000000000000)
    ∧ resultOf (.scDiv 0 9 10 11) (coreG [(10, 7)]) = some (.g 9, 0xFFFFFFFFFFFFFFFF)
    ∧ resultOf (.scRem 0 9 10 11) (coreG [(10, 7)]) = some (.g 9, 7)
    ∧ resultOf (.scDiv 0 9 10 11) (coreG [(10, 0xFFFFFFFFFFFFFFF9), (11, 2)]) = some (.g 9, 0xFFFFFFFFFFFFFFFD) := by
  decide +kernel

theorem test_g0_discards : resultOf (.scAdd 0 0 10 11) (coreG [(10, 1), (11, 2)]) = none := by decide +kernel

/-- The misaligned sc.st.d.ow g9, [g20+0] of R376. -/
theorem test_addresses_trap :
    stopsOf (.scSt 0 9 20 0 3 0) (coreG [(20, 0x4000100004)])
      = [.trap { cause := 7, taddr := 0x4000100004, tval := 0x088950C0 }] := by decide +kernel

/-! ### Vector words: the worked examples of R141, R147 and R57 -/

/-- Core registers of the example of R141. -/
def pixels : CoreState :=
  { regs := { q := [(0, 0xFFFFFFFFFFFFFFFF)],
              v := [(10, { data := 0xFFF00FFF, tag := 6 }), (11, { data := 0x00201000, tag := 6 }), (12, { data := 10, tag := 4 })] } }

theorem test_saturating_words :
    (laneAndEvents (.vIadds .vx 0 9 10 11 0) pixels).map (·.1) = some 0xFFFF1FFF
    ∧ (laneAndEvents (.vIsubs .vx 0 9 10 11 0) pixels).map (·.1) = some 0xFFD00000
    ∧ (laneAndEvents (.vIadds .vx 0 9 10 11 0) pixels).map (·.2) = some [(0x23, 1, 1)] := by decide +kernel

theorem test_pixel_words :
    (laneAndEvents (.vIabsd .vx 0 9 10 11 0) pixels).map (·.1) = some 0xFFD00001
    ∧ (laneAndEvents (.vIavg .vx 0 9 10 11 0) pixels).map (·.1) = some 0x80081000
    ∧ (laneAndEvents (.vImad16 .vx 0 12 10 11 0) pixels).map (·.1) = some 0x011FEE0A := by decide +kernel

/-- Core registers of the example of R147. -/
def floats : CoreState :=
  { regs := { q := [(0, 0xFFFFFFFFFFFFFFFF)], v := [(6, { data := 0xC0200000404000003F8180003F800000, tag := 1 })] } }

theorem test_convert_to_bf16 :
    (resultOf (.vCvt .vx 0 5 6 2 0 0) floats).map (fun r => r.2) = some 0xC02040403F823F80
    ∧ (resultOf (.vCvt .vx 0 5 6 2 0 1) floats).map (fun r => r.2) = some 0xC02040403F813F80 := by decide +kernel

theorem test_fsum_tree :
    laneAndEvents (.vFsum .vx 0 5 6 0)
      { regs := { q := [(0, 0xFFFFFFFFFFFFFFFF)], v := [(6, { data := 0x3F8000003F8000003F8000004B800000, tag := 1 })] } }
      = some (0x4B800001, []) := by decide +kernel

/-! ### Engines: the worked examples of R46, R173 and R190 -/

theorem test_quantise_block :
    sxQuantise ([0x40400000, 0xBFA00000, 0x3F000000, 0x3E800000, 0, 0, 0, 0, 0, 0, 0, 0, 0, 0, 0, 0].map fp32.unpack) 1 (fun _ => .rn)
      = (0x001FEA7C, 0x0116CF, []) := by decide +kernel

theorem test_drain_scales :
    runDrain 0 { cells := [(0, 0x45000000)] } 0 3 2 0 0 = ([(0, [0x80, 0x43])], []) := by decide +kernel

/-- A shape word: EXT0, EXT1, STR0, STR1 and ESZ at their bits (R168). -/
def shapeWord (e0 e1 s0 s1 size : Nat) : BitVec 256 :=
  BitVec.ofNat 256 (e0 * 2 ^ 64 + e1 * 2 ^ 80 + s0 * 2 ^ 96 + s1 * 2 ^ 128 + size * 2 ^ 160)

/-- sh0 and sh1 of the example of R190, over E = 0x100000 and F = 0x100100. -/
def rows2x3 : View := { shape := shapeWord 2 1 2 16 1, base := 0x100000 }
def rows3x2 : View := { shape := shapeWord 1 2 2 16 1, base := 0x100100 }

theorem test_transpose :
    let csp : Mem := (List.range 6).map (fun i => (0x100000 + 16 * (i / 3) + 2 * (i % 3), BitVec.ofNat 8 (i % 3)))
      ++ [(0x100011, 1), (0x100013, 1), (0x100015, 1)]
    (runTranspose (machOf { loc := { csp := { bytes := Mem.writeAll [] csp } } })
        { c := 0, mem := [], above := [], bad := [], rq := 0, mode := .plain } rows2x3 rows3x2).cells.reverse.map (fun e => (e.2.1, e.2.2))
      = [(0x100100, 0), (0x100101, 0), (0x100102, 0), (0x100103, 1), (0x100110, 1), (0x100111, 0), (0x100112, 1), (0x100113, 1),
         (0x100120, 2), (0x100121, 0), (0x100122, 2), (0x100123, 1)] := by decide +kernel

/-! ### Control (R118, R82) and reset -/

/-- The passes of the example of R118: a ct.loop with g[c] as in its bundle, stage predicates in force before it. -/
def loopTaken (g : Dword) (p : BitVec 16) (roff : BitVec 4) : Option Bool :=
  (after (.ctLoop 0 10 2 0) (openOf { regs := { g := [(10, g)], p := p, roff := roff } })).bind (fun t =>
    t.iss.map (fun i => i.transfer.isSome))

theorem test_loop_passes :
    loopTaken 2 0x0100 0 = some true ∧ loopTaken 1 0x8100 15 = some true := by decide +kernel

theorem test_transfers :
    let a1 := advance 0 [{ target := 0x1000, left := 4 }]
    let a2 := advance a1.1 a1.2
    let a3 := advance a2.1 (a2.2 ++ [{ target := 0x2000, left := 4 }])
    let a4 := advance a3.1 a3.2
    let a5 := advance a4.1 a4.2
    (a1.1, a2.1, a3.1, a4.1, a5.1, (advance a5.1 a5.2).1) = (0x20, 0x40, 0x60, 0x1000, 0x1020, 0x2000) := by decide

/-- The first instruction after reset, placed where the step fetches it: sc.imm.0 g10, 1. -/
theorem test_first_step :
    (match step (State.reset.withFetchWord 32 0x070A0001) with
      | .next t => t.mach.cores.map (fun e => e.2.flight.pend.map (fun p => (p.dest, p.value)))
      | _ => []) = [[(.g 10, 1)]] := by decide +kernel

/-! ### Translation, traps and the fleet: the worked examples of 17, 19 and 22 -/

theorem test_walk :
    let mem := Mem.writeAll [] (numberBytes (0x100000) 8 0x200001 ++ numberBytes (0x200000) 8 0x300001
      ++ numberBytes (0x300800) 8 0x400001 ++ numberBytes (0x400000) 8 0x500001 ++ numberBytes (0x500200) 8 0x0000800000000223)
    let m : Mach := { mem := mem, fw := { spaces := [(0, { roots := [(0, 0x100000)] })] } }
    m.walk 0 0x0000004000100000 = .leaf 0x0000800000000223 14 := by decide +kernel

/-- The record of the misaligned store of a fed bundle. -/
theorem test_trap_record :
    let m := ({ } : Mach).takeTrap 21 .primary { fed := true, prov := 0x14005 }
      { cause := 7, taddr := 0x4000100004, tval := 0x088950C0 }
    ((m.core 21).queues.trapq.map (fun r => (r.bits.extractLsb' 0 64, r.bits.extractLsb' 64 64, r.bits.extractLsb' 128 64,
        r.bits.extractLsb' 192 64, r.bits.extractLsb' 256 64, r.bits.extractLsb' 384 32)))
      = [(7, 0x4000100004, 0x14005, 0x088950C0, 1, 0x15)] := by decide +kernel

/-- Votes at 31, 32 and 34 ms from three designated neighbours. -/
theorem test_reset_votes :
    let vote := fun (n t : Nat) (m : Mach) => match exec .resetVote { mach := m, arg := { agent := n, item := t, flag := true } } with
      | .next s => s.mach
      | _ => m
    let m0 : Mach := { fleet := { neighbours := [1, 2, 3, 4], fullService := true } }
    let m2 := vote 2 32 (vote 1 31 m0)
    (m2.fleet.fullService, (vote 3 34 m2).fleet.fullService, (vote 3 34 m2).fleet.cause) = (true, false, 2) := by decide +kernel

/-- The default service code returns from sc.svc and sc.brk, and ends the context on a misalignment with sc.trap 0x007 (R431). -/
theorem test_default_service :
    (defaultService[19]?).map (fun b => b.word .sc) = some 0x0E000008
    ∧ (defaultService[20]?).map (fun b => b.word .sc) = some 0x0E000008
    ∧ (defaultService[16]?).map (fun b => (decodeWord .sc (b.word .sc)).toOption) = some (some (.scTrap 0 7)) := by decide +kernel

/-! ### What the hypotheses of the obligations ask is met -/

/-- A core with scalar values at the corners: g10 the least number, g11 minus one, g12 and g13 positions and widths, g20 and g21
addresses of the mapped page. -/
def scalars : CoreState :=
  { regs := { g := [(10, 0x8000000000000000), (11, 0xFFFFFFFFFFFFFFFF), (12, 0x3F00), (13, 0x803F), (14, 7), (20, 0x100), (21, 0x104),
                    (22, 0x200000000000000), (23, 0x1000000)], p := 2 },
    caches := { tlb := [tlbRw] } }

theorem witness_ScalarArithmetic :
    (∀ i ∈ ([.scAdd 0 9 10 11, .scSub 0 9 10 11, .scAnd 1 9 10 11, .scOr 1 9 10 11, .scXor 0 9 10 11, .scAndn 0 9 10 11,
      .scShl 0 9 10 13, .scShr 0 9 10 13, .scSra 0 0 10 13, .scMin 0 9 10 11, .scMax 0 9 10 11, .scMinu 0 9 10 11,
      .scMaxu 0 63 10 11] : List Instr), Takes i (issOf scalars) (openOf scalars))
    ∧ bits (0x0040000F : SlotWord).toNat 22 6 = 1 ∧ bits (0x0040000F : SlotWord).toNat 0 4 = 15 :=
  ⟨takes_list _ _ (by decide), by decide, by decide⟩

/-- Widths 64 at position 0 and 1 at position 63. -/
theorem witness_BitFieldsBitByBit :
    (∀ i ∈ ([.scBfx 0 9 10 12, .scBfi 0 9 10 12, .scBfx 0 9 10 13, .scBfi 0 9 10 13] : List Instr),
      Takes i (issOf scalars) (openOf scalars))
    ∧ scalars.g 12 = 0x3F00 ∧ scalars.g 13 = 0x803F := ⟨takes_list _ _ (by decide), by decide, by decide⟩

/-- A source of 0 (g0), and sources whose count is 0 (g10 for clz, g11 for ctz). -/
theorem witness_CountsAndExtensions :
    (∀ i ∈ ([.scClz 0 9 0, .scClz 0 9 10, .scCtz 0 9 0, .scCtz 0 9 11, .scPopc 0 9 11, .scSextB 0 9 11, .scSextH 0 9 11,
      .scSextW 0 9 11, .scZextB 0 9 11, .scZextH 0 9 11, .scZextW 0 9 11] : List Instr), Takes i (issOf scalars) (openOf scalars))
    ∧ bits (0x00800009 : SlotWord).toNat 22 6 = 2 ∧ 9 ≤ bits (0x00800009 : SlotWord).toNat 0 4
    ∧ bits (0x00800010 : SlotWord).toNat 22 6 = 2 ∧ bits (0x00800010 : SlotWord).toNat 4 6 ≠ 0 :=
  ⟨takes_list _ _ (by decide), by decide, by decide, by decide, by decide⟩

/-- A divisor of 0, the quotient that does not fit, and a plain quotient. -/
theorem witness_ProductsAndQuotients :
    (∀ i ∈ ([.scMul 0 9 10 11, .scMulh 0 9 10 11, .scMulhu 0 9 10 11, .scDiv 0 9 10 0, .scDiv 0 9 10 11, .scDiv 0 9 10 14,
      .scDivu 0 9 10 0, .scDivu 0 9 10 14, .scRem 0 9 10 0, .scRem 0 9 10 11, .scRem 0 9 10 14, .scRemu 0 9 10 0,
      .scRemu 0 9 10 14] : List Instr), Takes i (issOf scalars) (openOf scalars))
    ∧ scalars.g 10 = BitVec.intMin 64 ∧ scalars.g 11 = BitVec.allOnes 64 ∧ scalars.g 0 = 0 ∧ scalars.g 14 ≠ 0
    ∧ bits (0x00C00007 : SlotWord).toNat 22 6 = 3 ∧ 7 ≤ bits (0x00C00007 : SlotWord).toNat 0 4 :=
  ⟨takes_list _ _ (by decide), by decide +kernel⟩

theorem witness_ImmediatesAndSelection :
    (∀ i ∈ ([.scAddi 0 9 10 0x3FF, .scAndi 0 9 10 0x200, .scOri 0 9 10 1, .scXori 0 9 10 1, .scShli 0 9 10 63, .scShri 0 9 10 63,
      .scSrai 0 9 10 63, .scMini 0 9 10 0x200, .scMaxi 0 9 10 0x200, .scMinui 0 9 10 0x3FF, .scMaxui 0 9 10 0x3FF, .scImm 0 0 9 0xFFFF,
      .scImm 0 1 9 1, .scImm 0 3 9 0x8000, .scSel 0 9 10 11 1, .scSel 0 9 10 11 2] : List Instr),
      Takes i (issOf scalars) (openOf scalars))
    ∧ (3 : BitVec 2) ≠ 0 ∧ bits (0x05000040 : SlotWord).toNat 22 6 = 20 ∧ bits (0x05800040 : SlotWord).toNat 22 6 = 22
    ∧ bits (0x05800040 : SlotWord).toNat 6 4 ≠ 0 := ⟨takes_list _ _ (by decide), by decide, by decide, by decide, by decide⟩

theorem witness_ScalarComparisons :
    (∀ i ∈ ([.scCmpEq 0 1 2 10 11, .scCmpNe 0 1 2 10 11, .scCmpLt 0 1 2 10 11, .scCmpLtu 0 1 1 10 11, .scCmpGe 0 0 2 10 11,
      .scCmpGeu 0 1 0 10 11, .scCmpiEq 0 1 2 10 0x80, .scCmpiNe 0 1 2 10 0, .scCmpiLt 0 1 2 10 0xFF, .scCmpiLtu 0 1 2 10 0xFF,
      .scCmpiGe 0 1 2 10 0xFF, .scCmpiGeu 0 1 2 10 0xFF] : List Instr), Takes i (issOf scalars) (openOf scalars))
    ∧ bits (0x01800002 : SlotWord).toNat 22 6 = 6 ∧ 2 ≤ bits (0x01800002 : SlotWord).toNat 0 2 :=
  ⟨takes_list _ _ (by decide), by decide, by decide⟩

/-- A core whose page is mapped by another leaf. -/
def mappedBy (leaf : BitVec 64) (x : CoreState) : CoreState := { x with caches.tlb := [{ tlbRw with leaf := leaf }] }

/-- The accesses of g20 to g23: aligned and mapped, misaligned, not canonical, unmapped; and leaves that refuse a plain access, an
access of a device under another request, a store, and a store to read-duplicated memory. -/
theorem witness_GlobalAccessChecks :
    (∀ i ∈ ([.scLd 0 9 20 0 3 0, .scLdu 0 9 21 0 2 0, .scSt 0 9 22 3 3 0, .scAmoAdd 0 9 23 14 0 1, .scAmoAnd 0 9 20 14 0 0,
      .scAmoOr 0 9 20 14 0 1, .scAmoXor 0 9 20 14 0 1, .scAmoMax 0 9 20 14 0 1, .scAmoMin 0 9 20 14 0 1, .scAmoMaxu 0 9 20 14 0 1,
      .scAmoMinu 0 9 20 14 0 1, .scAmoSwap 0 9 20 14 0 1, .scAmoCas 0 9 20 14 0 1] : List Instr),
      Takes i (issOf scalars) (openOf scalars))
    ∧ (scalars.g 21).toNat % 8 ≠ 0 ∧ (scalars.g 22).getLsbD 57 ≠ (scalars.g 22).getLsbD 56
    ∧ (∀ k, 57 ≤ k → k < 64 → (scalars.g 23).getLsbD k = (scalars.g 23).getLsbD 56)
    ∧ (machOf scalars).translate 0 (scalars.g 23) = .none ∧ (machOf scalars).translate 0 (scalars.g 20) = .leaf leafRw 14
    ∧ (machOf (mappedBy 0x20233 scalars)).translate 0 (scalars.g 20) = .leaf 0x20233 14 ∧ pteKind 0x20233 = 2
    ∧ (machOf (mappedBy 0x2020B scalars)).translate 0 (scalars.g 20) = .leaf 0x2020B 14 ∧ pteKind 0x2020B = 1
    ∧ (machOf (mappedBy 0x20023 scalars)).translate 0 (scalars.g 20) = .leaf 0x20023 14 ∧ pteWritable 0x20023 = false
    ∧ (machOf (mappedBy 0x20263 scalars)).translate 0 (scalars.g 20) = .leaf 0x20263 14 ∧ pteRdup 0x20263 = true := by
  refine ⟨takes_list _ _ (by decide), by decide, by decide, fun k h l => ?_, by decide +kernel⟩
  have : k = 57 ∨ k = 58 ∨ k = 59 ∨ k = 60 ∨ k = 61 ∨ k = 62 ∨ k = 63 := by omega
  rcases this with rfl | rfl | rfl | rfl | rfl | rfl | rfl <;> rfl

/-- The translated access of `n` bytes at g20. -/
def page : Phys := { cell := 0x20100, leaf := leafRw, shift := 14 }

theorem witness_ScalarGlobalLoadsAndStores :
    (∀ i ∈ ([.scLd 0 9 20 0 3 0, .scLd 0 9 20 3 0 0x3F, .scLdu 0 9 20 0 2 0x1F, .scSt 0 9 20 3 3 0x20] : List Instr),
      Takes i (issOf scalars) (openOf scalars))
    ∧ scalars.region = none ∧ scalars.cnt.ld ≠ 63 ∧ scalars.cnt.st ≠ 63
    ∧ (issOf scalars).pre.checkGlobal 0 (scalars.g 20) 8 false 0 = .ok page
    ∧ (issOf scalars).pre.checkGlobal 0 (scalars.g 20) 8 true 3 = .ok page
    ∧ orderHold (issOf scalars) (scalars.zonesOf [(0x100, 0x107)]) false = false
    ∧ orderHold (issOf scalars) (scalars.zonesOf [(0x100, 0x107)]) true = false
    ∧ interlocked scalars .glob 0x20100 0x20107 true = false :=
  ⟨takes_list _ _ (by decide), rfl, by decide, by decide, rfl, rfl, by decide +kernel⟩

/-- L-addresses at the ends of spaces: g20 in the scratchpad, g21 not aligned, g22 past 2^32, g23 past the cluster's memory, g24 the
constant store, g25 another core's share of the cluster's memory (far), g26 the last granule of the scratchpad, full. -/
def locals : CoreState :=
  { regs := { g := [(20, 0x100), (21, 0x101), (22, 0x100000000), (23, 0x10400000), (24, 0x30000000), (25, 0x10001000),
                    (26, 0x2FFFF0)] },
    loc := { csp := { full := [(0x2FFFF, true)] } }, reg := { status := .running, launch := 1 } }

/-- Two cores of the launch. -/
def twoCores : Mach := { vclk := 100, cores := [(0, locals), (1, { reg := { status := .running, launch := 1 } })] }

theorem witness_ScalarLocalLoadsAndStores :
    (∀ i ∈ ([.scLdc 0 9 20 3 0, .scLdcFe 0 9 26 3 0, .scLdcTake 0 9 26 3 0, .scLdcu 0 9 25 2 0, .scLdcuFe 0 9 20 2 0,
      .scLdcuTake 0 9 24 2 0, .scStc 0 9 21 3 0, .scStcSet 0 9 22 3 0, .scStc 0 9 23 3 0, .scStc 0 9 26 3 1] : List Instr),
      Takes i (issOf locals) (openOf locals))
    ∧ (locals.g 21).toNat % 8 ≠ 0 ∧ 2 ^ 32 ≤ (locals.g 22).toNat
    ∧ (machOf locals).locate 0 0x100 8 = some (.csp 0, 0x100) ∧ (machOf locals).isFull (.csp 0) 0x10 = false
    ∧ (machOf locals).locate 0 0x2FFFF8 8 = some (.csp 0, 0x2FFFF8) ∧ (machOf locals).isFull (.csp 0) 0x2FFFF = true
    ∧ (machOf locals).locate 0 0x300000 8 = none ∧ (machOf locals).locate 0 0x10400000 8 = none
    ∧ (machOf locals).locate 0 0x30000000 8 = some (.const 0, 0) ∧ Space.hasBits (.const 0) = false
    ∧ twoCores.locate 0 0x10001000 8 = some (.clm 0, 0x1000) ∧ isFar 0 (.clm 0) 0x1000 = true ∧ isFar 0 (.csp 0) 0x100 = false
    ∧ locals.region = none ∧ locals.cnt.st ≠ 63 ∧ Space.sharedBits (.clm 0) = true
    ∧ (let near := fun (store : Bool) => nearRef (issOf locals).x .primary 0 (.clm 0) ((List.range 8).map (fun k => 0x40 + k)) store
       (issOf locals).pre.canPerform 0 (near true) = true ∧ (issOf locals).pre.canPerform 0 (near false) = true)
    ∧ orderHold (issOf locals) (localZones (.csp 0)) false = false
    ∧ orderHold (issOf locals) (localZones (.csp 0)) true = false ∧ interlocked locals (.csp 0) 0x100 0x107 true = false :=
  ⟨takes_list _ _ (by decide), by decide +kernel⟩

theorem witness_EnteringOperations :
    ({ id := 0, issue := 0, stream := .primary, slot := 0, origin := {}, space := .glob, bytes := [(5, 1)] } : StoreOp).space = .glob
    ∧ isFar 0 (.clm 0) 0x1000 = true
    ∧ ({ id := 0, issue := 0, stream := .primary, slot := 0, origin := {}, space := .csp 0, bytes := [(5, 1)] } : StoreOp).space = .csp 0 :=
  ⟨rfl, by decide, rfl⟩

theorem witness_ScalarAtomicsEnter :
    (∀ i ∈ ([.scAmoAdd 0 9 20 14 0 1, .scAmoAnd 0 9 20 14 0 1, .scAmoOr 0 9 20 14 0 1, .scAmoXor 0 9 20 14 0 1,
      .scAmoMax 0 9 20 14 0 1, .scAmoMin 0 9 20 14 0 1, .scAmoMaxu 0 9 20 14 0 0, .scAmoMinu 0 9 20 14 0 0, .scAmoSwap 0 9 20 14 0 1,
      .scAmoCas 0 9 20 14 0 1] : List Instr), Takes i (issOf scalars) (openOf scalars))
    ∧ (issOf scalars).pre.checkGlobal 0 (scalars.g 20) 8 true 0 = .ok page ∧ scalars.cnt.ld ≠ 63 ∧ scalars.cnt.st ≠ 63
    ∧ orderHold (issOf scalars) (scalars.zonesOf [(0x100, 0x107)]) true = false :=
  ⟨takes_list _ _ (by decide), rfl, by decide, by decide, by decide +kernel⟩

/-- An atomic in flight on cell 0x20100. -/
def amoOp (op : AmoOp) : LoadOp :=
  { id := 0, issue := 0, stream := .primary, slot := 0, origin := {}, va := 0x100, dest := some (.g 9),
    elems := [{ lane := 0, addr := 0x20100, size := 8, signed := true }], amo := some { op := op, operand := 7, expected := 1, store := 1 } }

/-- A compare that fails, on memory of zeros, and its load in the core. -/
theorem witness_AtomicStepOnMemory :
    let m := machOf { flight := { loads := [amoOp .cas] } }
    (amoOp .cas).data = none ∧ (amoOp .cas).loose = [] ∧ (amoOp .cas).device = false ∧ (amoOp .cas).overlay = []
    ∧ (amoOp .cas).pieces = [] ∧ (amoOp .cas).stale = false ∧ (m.die (dieOf 0)).early = [] ∧ amoOp .cas ∈ (m.core 0).flight.loads
    ∧ ofBytes (((List.range 8).map (fun k => 0x20100 + k)).map m.mem.read) ≠ 1 := by decide +kernel

theorem witness_ControlRegisterReads :
    (∀ i ∈ ([.scMfc 0 9 0, .scMfc 0 9 0x9B, .scMfc 0 9 3, .scMtc 0 9 0, .scMtc 0 9 3, .scMtc 0 9 0x9C, .scMtc 0 9 0x8F] : List Instr),
      Takes i (issOf scalars) (openOf scalars)) := takes_list _ _ (by decide)

/-- The same words in monitor mode and outside it. -/
def monitoring : CoreState := { scalars with trap.monitor := true }

theorem witness_ControlRegisterWrites :
    (∀ i ∈ ([.scMtc 0 9 0x002, .scMtc 0 9 0x040, .scMtc 0 9 0x044, .scMtc 0 9 0x070, .scMtc 0 9 0x071, .scMtc 0 9 0x090,
      .scMtc 0 9 0x09B, .scMtc 0 9 0x010, .scMtc 0 9 0x051, .scMtc 0 9 0x060, .scMtc 0 9 0x061, .scMtc 0 9 0x080] : List Instr),
      Takes i (issOf scalars) (openOf scalars))
    ∧ scalars.trap.monitor = false
    ∧ (∀ i ∈ ([.scMtc 0 9 0x002, .scMtc 0 9 0x040, .scMtc 0 9 0x041, .scMtc 0 9 0x042, .scMtc 0 9 0x043, .scMtc 0 9 0x044,
      .scMtc 0 9 0x070, .scMtc 0 9 0x071, .scMtc 0 9 0x090, .scMtc 0 9 0x097, .scMtc 0 9 0x098, .scMtc 0 9 0x09B] : List Instr),
      Takes i (issOf monitoring) (openOf monitoring))
    ∧ monitoring.trap.monitor = true := ⟨takes_list _ _ (by decide), rfl, takes_list _ _ (by decide), rfl⟩

/-- An issue whose bundle holds this CT word beside others. -/
def besideOf (x : CoreState) (i : Instr) : Issue := { issOf x with words := [(.primary, i)] }

theorem witness_ShapesAndDeliveredValues :
    (∀ i ∈ ([.scShw 0 9 0, .scShw 0 9 0xFFF, .scCtv 0 9, .scCmpx 0 0 10 10, .scCmpx 0 0 10 11] : List Instr),
      Takes i (issOf scalars) (openOf scalars))
    ∧ (∃ p, shapeField 0 0 = some p) ∧ shapeField 3 255 = none
    ∧ ctOf (besideOf scalars (.ctCall 0 0)) = some (.ctCall 0 0) ∧ ctOf (besideOf scalars (.ctArm 0 0 0)) = some (.ctArm 0 0 0)
    ∧ ctOf (issOf scalars) = none ∧ scalars.g 10 = scalars.g 10 ∧ scalars.g 10 ≠ scalars.g 11 :=
  ⟨takes_list _ _ (by decide), ⟨_, rfl⟩, rfl, rfl, rfl, rfl, rfl, by decide⟩


/-! ### Service, control and the machine -/

/-- The same core with something in flight that has not landed. -/
def serving : CoreState := { scalars with queues.stqh := 0, queues.stqt := 1, trap.monitor := true }

/-- An issue opens for svc, brk and trap on a core outside service. -/
theorem witness_SoftwareTrapsEnterService :
    let s : State := { mach := machOf scalars, core := 0 }
    let m := s.mach.modCore 0 passCycle
    let opens := fun (i : Instr) => (openIssue m 0 [(.primary, i)] [(.primary, (m.core 0).primaryOrigin)]).any (fun r =>
      r.2.stops.isEmpty && guarded r.2.x i && (r.1.core 0).region.isNone && (m.core 0).region.isNone && !r.2.x.trap.monitor
        && decide (r.2.x.queues.trapq.length < 31))
    s.iss = none ∧ opens (.scSvc 0 1) = true ∧ opens (.scBrk 0 1) = true ∧ opens (.scTrap 0 1) = true := by decide +kernel

/-- A core that has read the handle entry at g20 (an empty entry, whose seal is not the one computed: R163), or has it open. -/
def handled : CoreState := { scalars with flight.handles := [{ addr := 0x100, stream := .primary, read := true }] }

/-- Zones 1 and 7, and 0 and 8; queues empty and not; ranges in and out of order, mapped and not. -/
theorem witness_ServiceReturnQueueAndZones :
    (∀ i ∈ ([.scEret 0, .scStqpop 0 9] : List Instr), Takes i (issOf serving) (openOf serving))
    ∧ serving.trap.monitor = true ∧ serving.queues.stqh ≠ serving.queues.stqt
    ∧ (∀ i ∈ ([.scEret 0, .scStqpop 0 9, .scZdef 0 1 20 21, .scZdef 0 7 20 21, .scZdef 0 0 20 21, .scZdef 0 8 20 21,
      .scZdefh 0 0 20 21, .scZdefh 0 8 20 21, .scHdef 0 20 21 20, .scHdef 0 20 20 21, .scHdef 0 20 20 23, .scHdef 0 20 23 23] : List Instr),
      Takes i (issOf scalars) (openOf scalars))
    ∧ scalars.trap.monitor = false ∧ scalars.queues.stqh = scalars.queues.stqt
    ∧ (issOf scalars).pre.checkGlobal 0 (scalars.g 20) 32 true 0 = .ok page
    ∧ (scalars.g 20).toNat < (scalars.g 21).toNat ∧ (issOf scalars).pre.translate 0 (scalars.g 23) = .none
    ∧ (issOf scalars).pre.translate 0 (scalars.g 21) = .leaf leafRw 14 ∧ scalars.cnt.st ≠ 63
    ∧ orderHold (issOf scalars) (scalars.zonesOf [(0x100, 0x11F)]) true = false
    ∧ interlocked scalars .glob 0x20100 0x2011F true = false
    ∧ Takes (.scZdefh 0 1 20 0) (issOf handled) (openOf handled) ∧ Takes (.scZdefh 0 7 20 0) (issOf handled) (openOf handled)
    ∧ handled.flight.handles.any (fun e => e.addr = handled.g 20 && e.stream = .primary && e.read) = true
    ∧ (issOf handled).pre.checkGlobal 0 (handled.g 20) 32 false 3 = .ok page :=
  ⟨takes_list _ _ (by decide), rfl, by decide, takes_list _ _ (by decide), rfl, rfl, rfl, by decide, by decide +kernel, by decide +kernel,
    by decide, by decide +kernel, by decide +kernel, takes_open _ _ (by decide), takes_open _ _ (by decide), by decide, rfl⟩

/-- A fed issue of that core. -/
def fedIss (x : CoreState) : Issue := { issOf x with origins := [(.primary, { fed := true, prov := 5 })] }

/-- Register targets in and out of place (g20 is a multiple of 32, g21 is not); counts above zero (g14) and below (g11); a stage
predicate that is set in the rotated place. -/
theorem witness_TransfersOfControl :
    (∀ i ∈ ([.ctBr 0 1, .ctCall 0 1, .ctCallr 0 20, .ctJr 0 20, .ctRet 0 20, .ctCallr 0 21, .ctJr 0 21, .ctRet 0 21, .ctLoop 0 14 0 1,
      .ctLoop 0 11 2 0xFFF] : List Instr), Takes i (issOf scalars) (openOf scalars))
    ∧ (scalars.g 20).toNat % 32 = 0 ∧ (scalars.g 21).toNat % 32 ≠ 0 ∧ 0 < (scalars.g 14).toInt ∧ ¬0 < (scalars.g 11).toInt
    ∧ ({ scalars.regs with p := 0x100 } : Regs).pAt (pPhys (scalars.regs.roff + 1) 9) = true
    ∧ (fedIss scalars).origin.fed = true ∧ guarded (fedIss scalars).x (.ctBr 0 1) = true :=
  ⟨takes_list _ _ (by decide), by decide, by decide, by decide, by decide, by decide, rfl, by decide⟩

theorem witness_PredicatesRotationAndIdling :
    (∀ i ∈ ([.ctPand 0 8 1 2, .ctPor 0 0 1 2, .ctPxor 0 3 1 2, .ctPandn 0 3 1 2, .ctPnot 0 3 1, .ctPset 0 15, .ctPclr 0 15, .ctRoff 0 15,
      .ctIdle 0 0x3FFFFF] : List Instr), Takes i (issOf scalars) (openOf scalars))
    ∧ (issOf scalars).core = 0 := ⟨takes_list _ _ (by decide), rfl⟩

/-- Counters of one each; a member of domains 1 and 5, at the barrier of 5. -/
def waiter : CoreState := { scalars with cnt := { ld := 1, st := 1, cp := 1, mx := 1 }, ctl.dmem := 0x11, arrive := 0x10 }

theorem witness_WaitsAndBarriers :
    (∀ i ∈ ([.ctWait 0 1 15 14 1, .ctWait 0 0 15 15 15, .ctBarArrive 0 1, .ctBarWait 0 1, .ctBarSync 0 1, .ctBarArrive 0 5,
      .ctBarWait 0 5, .ctBarSync 0 5, .ctBarArrive 0 2, .ctBarWait 0 2, .ctBarSync 0 2] : List Instr),
      Takes i (issOf waiter) (openOf waiter))
    ∧ waiter.cnt.ld.toNat ≤ 1 ∧ ¬waiter.cnt.ld.toNat ≤ 0 ∧ waiter.ctl.dmem.getLsbD 0 = true ∧ waiter.arrive.getLsbD 0 = false
    ∧ waiter.ctl.dmem.getLsbD 4 = true ∧ waiter.arrive.getLsbD 4 = true ∧ waiter.ctl.dmem.getLsbD 1 = false :=
  ⟨takes_list _ _ (by decide), by decide +kernel⟩

/-- Launch 1 of two cores of cluster 0, one member of its level-1 domain or two. -/
def launchOf (members : Nat) : Launch :=
  { number := 1, status := .running, ring := 0, seq := 0, priority := 0, space := 0, keyid := 0, completion := 0x8000, deps := [],
    lease := 256, frm := 0, seed := 0, claims := 0, grants := [], domain := 0, modules := 1, cores := [], gens := [],
    members := [(domainKey 1 (domainUnit { scalars with reg := { launch := 1 } } 0 1), members)] }

/-- A module with that launch and its core 0. -/
def launched (members : Nat) : Mach :=
  { vclk := 100, cores := [(0, { scalars with ctl.dmem := 1, reg := { status := .running, launch := 1 } })],
    fw := { launches := [launchOf members] } }

theorem witness_ArrivalsEndPhases :
    (launched 1).launch 1 = some (launchOf 1) ∧ (launched 2).launch 1 = some (launchOf 2)
    ∧ ((launched 1).core 0).reg.launch = 1 ∧ ((launched 1).core 0).ctl.dmem.getLsbD 0 = true
    ∧ 0 + 1 = Sparse.get 0 (launchOf 1).members (domainKey 1 (domainUnit ((launched 1).core 0) 0 1))
    ∧ 0 + 1 < Sparse.get 0 (launchOf 2).members (domainKey 1 (domainUnit ((launched 2).core 0) 0 1)) := by decide +kernel

/-- A core whose fence stands at issue, met (`n` = 0) or not (`n` = 1 access of zone 0 before its epoch). -/
def fencing (n : Nat) : CoreState :=
  { scalars with front.sp.fence := some [(0, 1)],
                 zones := { epochs := [{ id := 0, count := n }, { id := 1 }], nextId := 2 } :: List.replicate 7 {} }

/-- A zone that has no room for a further epoch. -/
def crowded : CoreState :=
  { scalars with zones := { epochs := (List.range 16).map (fun k => { id := k, count := 1 }), nextId := 16 } :: List.replicate 7 {} }

theorem witness_FenceWords :
    (∀ i ∈ ([.ctFenceRel 0 1, .ctFenceFull 0, .ctFenceAcq 0 1, .ctFenceVis 0 1] : List Instr),
      Takes i (issOf scalars) (openOf scalars) ∧ Takes i (issOf (fencing 0)) (openOf (fencing 0))
      ∧ Takes i (issOf (fencing 1)) (openOf (fencing 1)) ∧ Takes i (issOf crowded) (openOf crowded))
    ∧ (fencing 0).front.sp.fence = some [(0, 1)]
    ∧ (∀ i ∈ ([.ctFenceRel 0 1, .ctFenceVis 0 1, .ctFenceFull 0] : List Instr), ∀ x ∈ [scalars, fencing 0, crowded], x.region = none
      ∧ guarded ((stepResults x [.primary]).1.seenBy .primary (machOf x).fresh) i = true)
    ∧ (fencing 0).fenceMet 100 [(0, 1)] = true ∧ (fencing 1).fenceMet 100 [(0, 1)] = false
    ∧ scalars.front.sp.fence = none ∧ scalars.canOpen 100 0xFF = true ∧ crowded.canOpen 100 1 = false
    ∧ scalars.zones[7]? = some ({} : Zone) ∧ (0x80 : BitVec 8).getLsbD 7 = true ∧ scalars.flight.stores = [] :=
  ⟨fun i hi => ⟨takes_list _ _ (by decide) i hi, takes_list _ _ (by decide) i hi, takes_list _ _ (by decide) i hi,
    takes_list _ _ (by decide) i hi⟩, by decide +kernel⟩

/-- An armed monitor; an mwait that stands at issue with the deadline given. -/
def armedCore (d : Option (Option Tick)) : CoreState := { scalars with monitor := some { line := 0x201 }, front.sp.mwait := d }

/-- Deadlines passed and not, none, and counts of ticks below and at 2^40 (g22 holds 2^57). -/
theorem witness_MonitorWords :
    (∀ i ∈ ([.ctArm 0 20 0, .ctArm 0 20 8, .ctMwait 0 20] : List Instr), Takes i (issOf scalars) (openOf scalars))
    ∧ (issOf scalars).pre.checkGlobal 0 (scalars.g 20) 8 false 0 = .ok page ∧ scalars.cnt.ld ≠ 63
    ∧ orderHold (issOf scalars) (scalars.zonesOf [(0x100, 0x107)]) false = false ∧ scalars.monitor = none ∧ scalars.flight.loads = []
    ∧ (issOf scalars).pre.canPerform 0
        { id := 0, issue := 0, slot := 1, stream := .primary, load := true, cells := (List.range 8).map (fun k => 0x20100 + k) } = true
    ∧ Takes (.ctMwait 0 0) (issOf (armedCore (some (some 100)))) (openOf (armedCore (some (some 100)))) ∧ tickGe 100 100 = true
    ∧ Takes (.ctMwait 0 0) (issOf (armedCore (some (some 101)))) (openOf (armedCore (some (some 101)))) ∧ tickGe 100 101 = false
    ∧ Takes (.ctMwait 0 22) (issOf (armedCore none)) (openOf (armedCore none)) ∧ 2 ^ 40 ≤ (scalars.g 22).toNat
    ∧ Takes (.ctMwait 0 0) (issOf (armedCore none)) (openOf (armedCore none)) ∧ tickGe 100 (100 + (scalars.g 0).setWidth 48) = true :=
  ⟨takes_list _ _ (by decide), rfl, by decide, by decide +kernel, rfl, rfl, by decide +kernel, takes_open _ _ (by decide), by decide,
    takes_open _ _ (by decide), by decide, takes_open _ _ (by decide), by decide, takes_open _ _ (by decide), by decide⟩

/-- A core in a region, with a load of the region in flight or none. -/
def inRegion (loads : List LoadOp) : CoreState :=
  { scalars with region := some { recovery := 0x800, regs := {}, tags := [] }, flight := { loads := loads } }

theorem witness_RegionWords :
    (∀ i ∈ ([.ctDawn 0 1, .ctDusk 0, .ctCheck 0 1, .ctCheck 0 2, .ctAbort 0] : List Instr),
      Takes i (issOf scalars) (openOf scalars) ∧ Takes i (issOf (inRegion [])) (openOf (inRegion [])))
    ∧ Takes (.ctDusk 0) (issOf (inRegion [{ amoOp .add with inRegion := true }])) (openOf (inRegion [{ amoOp .add with inRegion := true }]))
    ∧ scalars.region.isSome = false ∧ (inRegion []).region.isSome = true ∧ scalars.p 1 = true ∧ scalars.p 2 = false
    ∧ (inRegion [{ amoOp .add with inRegion := true }]).flight.loads.any (fun l => l.inRegion) = true
    ∧ unsupported (.scSvc 0 0) = true ∧ guarded (inRegion []) (.scSvc 0 0) = true :=
  ⟨fun i hi => ⟨takes_list _ _ (by decide) i hi, takes_list _ _ (by decide) i hi⟩, takes_open _ _ (by decide), by decide +kernel⟩

/-- Quiet in every respect, with the marks of ct.end met. -/
def ending : CoreState := { scalars with front.sp.fence := some [(0, 1)] }

/-- The same issue in the secondary stream. -/
def secondIss (x : CoreState) : Issue := { issOf x with stream := .secondary, origins := [(.secondary, { fed := true })] }

theorem witness_EndOfCoreWord :
    Takes (.ctEnd 0) (secondIss scalars) { mach := machOf scalars, iss := some (secondIss scalars) }
    ∧ Takes (.ctEnd 0) (issOf scalars) (openOf scalars) ∧ Takes (.ctEnd 0) (issOf waiter) (openOf waiter)
    ∧ Takes (.ctEnd 0) (issOf ending) (openOf ending)
    ∧ ending.front.secondary = [] ∧ ending.cnt = {} ∧ waiter.cnt ≠ {} ∧ ending.front.sp.fence = some [(0, 1)]
    ∧ ending.fenceMet (issOf ending).pre.vclk [(0, 1)] = true
    ∧ scalars.region = none ∧ scalars.trap.monitor = false ∧ scalars.front.sp.fence = none ∧ scalars.canOpen 100 0xFF = true
    ∧ guarded ((stepResults scalars [.primary]).1.seenBy .primary (machOf scalars).fresh) (.ctEnd 0) = true
    ∧ ((launched 1).core 0).flight.pend = [] ∧ ((launched 1).core 0).flight.fars = []
    ∧ (launched 1).launch ((launched 1).core 0).reg.launch = some (launchOf 1) :=
  ⟨⟨rfl, by decide, rfl, by decide, by decide, by decide⟩, takes_open _ _ (by decide), takes_open _ _ (by decide), takes_open _ _ (by decide),
    by decide +kernel⟩

theorem witness_GuardFalseIsNop :
    (openOf scalars).iss = some (issOf scalars) ∧ guarded (issOf scalars).x (.scAdd 2 9 10 11) = false
    ∧ guardOf (.scAdd 0 9 10 11) = 0 := ⟨rfl, by decide, rfl⟩

/-- A bundle with an illegal word in VX and in PF; bundles whose copies are held by a missing MX word. -/
theorem witness_IllegalEncodings :
    let two : Bundle := BitVec.ofNat 256 (0x10000000 * 2 ^ 64 + 0x10000000 * 2 ^ 224)
    let fo : Bundle := BitVec.ofNat 256 (0x00580321 * 2 ^ 160)
    two.word .vx = 0x10000000 ∧ refused .vx (two.word .vx) = true ∧ refused .sc (two.word .sc) = false ∧ refused .ct (two.word .ct) = false
    ∧ (Slot.all.all (fun k => !(refused k ((0 : Bundle).word k)))) = true ∧ fo.word .mx = 0 ∧ fo.word .ca = 0x00580321
    ∧ bits (0x07400000 : SlotWord).toNat 22 6 = 29 ∧ bits (0x07400000 : SlotWord).toNat 0 22 = 0
    ∧ bits (0x060001C0 : SlotWord).toNat 22 6 = 24 ∧ 7 ≤ bits (0x060001C0 : SlotWord).toNat 6 4 := by
  decide +kernel

/-- Held alone; a trap alone; two traps, the first of them an illegal encoding. -/
theorem witness_HeldIssueLeavesNothing :
    let held : Issue := { issOf scalars with stops := [(.primary, 1, .hold .plain)] }
    let trapped : Issue := { issOf scalars with stops := [(.primary, 2, .trap { cause := 5 })] }
    ((∃ e ∈ held.stops, e.2.2 = .hold .plain) ∧ (∀ e ∈ held.stops, ∀ k, e.2.2 = .hold k → k = .plain))
    ∧ (Stream.primary, 2, Stop.trap { cause := 5 }) ∈ trapped.stops
    ∧ (∀ e ∈ trapped.stops, e = (.primary, 2, .trap { cause := 5 }) ∨ trapped.stopRank (.primary, 2, .trap { cause := 5 }) < trapped.stopRank e)
    ∧ (∀ e ∈ trapped.stops, ∃ u, e.2.2 = .trap u) ∧ (trapped.back.core 0).region = none
    ∧ ((machOf scalars).core 0).region = none ∧ (trapped.back.core 0).queues.trapq.length < 31 ∧ (5 : BitVec 8) ≠ 9 := by
  refine ⟨⟨⟨_, List.mem_singleton.mpr rfl, rfl⟩, ?_⟩, List.mem_singleton.mpr rfl, ?_, ?_, rfl, rfl, by decide, by decide⟩
  · intro e he k hk; cases List.mem_singleton.mp he; cases hk; rfl
  · intro e he; exact .inl (List.mem_singleton.mp he)
  · intro e he; cases List.mem_singleton.mp he; exact ⟨_, rfl⟩

theorem witness_TransfersTakeFourBundles :
    (issOf scalars).origins.map (·.1) = [.primary] ∧ ((issOf scalars).originOf .primary).fed = false ∧ (issOf scalars).eret = false
    ∧ (issOf scalars).after = none ∧ (issOf scalars).dusk = false ∧ (issOf scalars).ends = false := by decide

theorem witness_TrapEntry :
    ((machOf scalars).drain 0 |>.core 0).trap.monitor = false ∧ ({ cause := 7, taddr := 4 } : Trap).fatal = false
    ∧ ({ cause := 7, taddr := 4 } : Trap).replay = false ∧ (0 : Nat) < 1024 := by decide +kernel

/-- A core in service, and one whose trap queue is full. -/
theorem witness_ReplayableFatalAndNestedTraps :
    let full : Mach := machOf { scalars with queues.trapq := List.replicate 32 { bits := 0, fatal := true, replay := false } }
    let inside : Mach := machOf monitoring
    ((machOf scalars).drain 0 |>.core 0).trap.monitor = false ∧ ({ cause := 6, replay := true } : Trap).fatal = false
    ∧ (inside.drain 0 |>.core 0).trap.monitor = true ∧ (inside.drain 0 |>.core 0).queues.trapq.length < 32
    ∧ ({ cause := 0x0A, fatal := true } : Trap).cause = 0x0A ∧ 32 ≤ (full.drain 0 |>.core 0).queues.trapq.length := by decide +kernel

/-- EPC of a fed bundle (bit 0), of a fetched one, and after a call. -/
theorem witness_ReturnFromTrap :
    let served := fun (epc tcause : Dword) => machOf { scalars with trap := { monitor := true, epc := epc, tcause := tcause } }
    (((served 1 7).drain 0).core 0).trap.epc.getLsbD 0 = true ∧ (((served 0x400 7).drain 0).core 0).trap.epc.getLsbD 0 = false
    ∧ (((served 0x400 0x0A).drain 0).core 0).trap.tcause.toNat % 256 = 0x0A
    ∧ (((served 0x400 0x0A).drain 0).core 0).trap.kept = []
    ∧ (let m := (served 1 7).modCore 0 passCycle
       (openIssue m 0 [(.primary, .scEret 0)] [(.primary, (m.core 0).primaryOrigin)]).any (fun r =>
        r.2.stops.isEmpty && guarded r.2.x (.scEret 0) && r.2.x.trap.monitor && (r.1.core 0).region.isNone) = true) := by
  decide +kernel

/-- A stream that idles and is not stretched. -/
def idling : CoreState := { scalars with front.sp.idle := 3 }

/-- Results with steps to go and with none, and two results for one register. -/
theorem witness_ResultsBecomeVisible :
    let p : Pending := { dest := .g 9, value := 5, stream := .primary, steps := 2, cycles := 0, slot := 0, issue := 1 }
    2 ≤ p.steps ∧ { p with steps := 1 }.steps ≤ 1 ∧ Stream.secondary ≠ p.stream ∧ { p with slot := 2 }.dest = p.dest
    ∧ (p.issue = { p with slot := 2 }.issue ∧ p.slot < { p with slot := 2 }.slot) ∧ scalars.region = none ∧ (9 : Nat) ≠ 0
    ∧ scalars.flight.landed = [] ∧ ((machOf idling).core 0).front.sp.idle ≠ 0 ∧ stretched ((machOf idling).core 0) .primary = false := by
  decide +kernel

theorem witness_ScalarWordsRoundTrip :
    (Instr.scCmpiGeu 15 7 2 63 0x80).wf = true ∧ slotOf (.scCmpiGeu 15 7 2 63 0x80) = some .sc := by decide

theorem witness_VectorWordsRoundTrip :
    (Instr.vCvt .vy 15 31 16 9 3 2).wf = true ∧ slotOf (.vCvt .vy 15 31 16 9 3 2) = some .vy
    ∧ bits (0x0A000001 : SlotWord).toNat 22 6 = 0x28 ∧ bits (0x0DC00001 : SlotWord).toNat 22 6 = 0x37 := by decide

theorem witness_ControlEngineAndEmitWordsRoundTrip :
    (Instr.mxDrainH64 15 3 2 1 3 2 63).wf = true ∧ slotOf (.mxDrainH64 15 3 2 1 3 2 63) = some .mx
    ∧ (Instr.ctBarSync 1 5).wf = true ∧ slotOf (.ctBarSync 1 5) = some .ct := by decide

/-- A running core whose page 0 holds code, with one word at its program counter 0x400. -/
def fetching : State :=
  { mach := { mem := Mem.writeAll [] (numberBytes 0x20400 4 0x070A0001),
              cores := [(0, { regs := {}, caches := { tlb := [{ tlbRw with leaf := 0x20033 }] }, front := { pc := 0x400 },
                              reg := { status := .running, launch := 1 } })] },
    agenda := [.cycle 0] }

theorem witness_StepRunsFetchedWord :
    let x := fetching.mach.core 0
    let m1 := (fetching.mach.beginCycle 0).withholdPrimary 0
    let b : Bundle := 0x070A0001
    fetching.agenda = .cycle 0 :: [] ∧ x.reg.status = .running ∧ x.releasing = [] ∧ x.replay = [] ∧ fetching.mach.fleet.limit = 16
    ∧ fetching.mach.fleet.thermal = 16 ∧ x.front.secondary = [] ∧ x.front.sp.idle = 0
    ∧ x.front.ss.idle = 0 ∧ (0 : Nat) < 1024 ∧ fetching.iss = none ∧ x.front.withhold = false
    ∧ x.front.waitCount < 64 ∧ x.front.fed = false
    ∧ (match m1.fetchBundle 0 x.front.pc with
        | .ok r => decide (r.1 = b)
        | .error _ => false) = true
    ∧ bundleWords b = [.scImm 0 0 10 1] ∧ (∀ j : Slot, j ≠ .sc → b.word j = 0) ∧ decodeWord .sc (b.word .sc) = .ok (.scImm 0 0 10 1)
    ∧ hasFo (.scImm 0 0 10 1) = false := by
  refine ⟨rfl, rfl, rfl, rfl, rfl, rfl, rfl, rfl, rfl, by decide, rfl, rfl, by decide, rfl, by decide +kernel, rfl, ?_, rfl, rfl⟩
  intro j hj; cases j <;> first | rfl | exact absurd rfl hj

/-- Slot 0 of composer 0 is ready, in machine mode (its fetch reads the bytes at its pc) or in user mode (no space: it traps). -/
def composing (user : Bool) : State :=
  { mach := { comps := [(0, { harts := [(0, { status := .ready, pc := 0x1000, user := user })] })] }, agenda := [.compose 0] }

theorem witness_StepRunsComposersAndEvents :
    ({ agenda := [.event .vclkTick {}] } : State).agenda = .event .vclkTick {} :: []
    ∧ (composing true).agenda = .compose 0 :: []
    ∧ (∀ u, ((((composing u).mach.modComp 0 (fun c => { c with harts := c.harts.map (fun e =>
        (e.1, wake (composing u).mach { e.2 with cycle := e.2.cycle + 1 })) })).comp 0).pick.map (·.1)) = some 0)
    ∧ (∀ u, ((composing u).mach.hart 0).interrupted = false)
    ∧ (rvFetch (composing false).mach 0 ((composing false).mach.hart 0)).isOk = true
    ∧ (rvFetch (composing true).mach 0 ((composing true).mach.hart 0)).isOk = false
    ∧ ((composing true).mach.hart 0).user = true ∧ decodeComposer 0x00000073 = .rv64imacInstruction .ecall false := by
  refine ⟨rfl, rfl, by decide +kernel, by decide, by decide +kernel, by decide +kernel, rfl, rfl⟩

theorem witness_InvariantKeptByEveryStep : State.reset.Inv ∧ (match step State.reset with
    | .next _ => true
    | _ => false) = true := ⟨⟨rfl, rfl⟩, by decide +kernel⟩


/-! ### Vectors -/

/-- v1 and v2 carry fp32, v3 i32, v4 ui16x2, v5 is untyped; q1 selects lanes 0 and 63, q2 none; g20 = 0x100. -/
def vectors : CoreState :=
  { scalars with
    regs := { g := [(20, 0x100), (21, 0x101), (22, 0x80000), (23, 0x2FFF00), (24, 0x1000000), (25, 0x10000000), (26, 0x30000000)],
              v := [(1, { data := 0x3F8000003F800000, tag := 1 }), (2, { data := 0x7FC00000, tag := 1 }),
                    (3, { data := 0x00000010, tag := 4 }), (4, { data := 0x00020001, tag := 6 }), (6, { data := 0x1000000, tag := 4 })],
              q := [(1, 0x8000000000000001)] } }

/-- The elements of these words: a zero, an infinity, a NaN and two ordered numbers. -/
theorem witness_VectorFloatingPoint :
    (∀ i ∈ ([.vFadd .vx 0 1 1 2 0, .vFsub .vy 0 1 1 2 1, .vFmul .vx 0 5 1 2 1, .vFma .vx 0 1 1 2 0, .vFms .vx 0 1 1 2 0,
      .vFmin .vx 0 1 1 2 0, .vFmax .vx 0 1 1 2 0, .vFabs .vx 0 1 1 0 0, .vFneg .vx 0 1 1 0 0, .vFscale .vx 0 1 1 2 0,
      .vFaddS .vx 0 1 1 20 0, .vFsubS .vx 0 1 1 20 0, .vFmulS .vx 0 1 1 20 0, .vFmaS .vx 0 1 1 20 0, .vFminS .vx 0 1 1 20 0,
      .vFmaxS .vx 0 1 1 20 0, .vFscaleS .vx 0 1 1 20 0, .vFadd .vx 0 3 1 2 1, .vFadd .vx 0 1 3 2 0] : List Instr),
      Takes i (issOf vectors) (openOf vectors))
    ∧ (vectors.v 1).tag = tFp32 ∧ (vectors.v 2).tag = tFp32 ∧ (vectors.v 3).tag ≠ tFp32 ∧ (vectors.v 5).tag = tUntyped
    ∧ vectors.q 0 = BitVec.allOnes 64 ∧ (vectors.q 1).getLsbD 63 = true ∧ (vectors.q 1).getLsbD 1 = false
    ∧ (fp32.unpack 0).isZero = true ∧ fp32.unpack 0x7F800000 = .inf false ∧ (fp32.unpack 0x7FC00000).isNan = true
    ∧ (fp32.unpack 0x3F800000).isNan = false ∧ (fp32.unpack 0x3F800000).below (fp32.unpack 0x40000000) = true :=
  ⟨takes_list _ _ (by decide), by decide +kernel⟩

/-- A number below every grid point's half, on the coarsest and the finest grid. -/
theorem witness_RoundingErrorAndExactness :
    (∀ h, Mode.rs 5 = .rs h → h < 2 ^ 32) ∧ 0x3F800000 < 2 ^ (1 + fp32.ebits + fp32.fbits)
    ∧ (∃ n m e, fp32.unpack 0x3F800000 = .fin n m e) ∧ (1 : Nat) ≠ 0 ∧ (-149 : Int) ≤ 0 ∧ (-149 : Int) ≤ fp32.emin := by
  refine ⟨fun h e => ?_, by decide, ⟨_, _, _, rfl⟩, by decide, by decide, by decide⟩
  cases e; decide

theorem witness_VectorComparisonsAndReductions :
    (∀ i ∈ ([.vFcmpEq .vx 0 1 2 1 2 0, .vFcmpLt .vx 0 1 1 1 2 1, .vFcmpLe .vx 0 0 2 1 2 0, .vFcmpUn .vx 0 1 2 1 2 0,
      .vIcmpEq .vx 0 1 2 3 6 0, .vIcmpLt .vx 0 1 2 3 6 0, .vIcmpLtu .vx 0 1 2 3 6 0, .vFsum .vx 0 5 1 0, .vFmaxr .vx 0 5 1 2,
      .vFmaxr .vx 0 5 2 1, .vImaxr .vx 0 5 3 2, .vIminr .vx 0 5 3 1, .vIsumr .vx 0 5 3 1] : List Instr),
      Takes i (issOf vectors) (openOf vectors))
    ∧ (vectors.v 1).tag = tFp32 ∧ (vectors.v 3).tag = tI32 ∧ (vectors.v 6).tag = tI32 ∧ vectors.q 2 = 0
    ∧ (fp32.unpack (lane (vectors.v 2).data 0).toNat).isNan = true ∧ (fp32.unpack (lane (vectors.v 1).data 0).toNat).isNan = false
    ∧ (Num.nan false).isNan = true ∧ (Num.inf true).isNan = false :=
  ⟨takes_list _ _ (by decide), by decide +kernel⟩

theorem witness_VectorIntegerElements :
    (∀ i ∈ ([.vIadd .vx 0 3 3 6 0, .vIaddS .vx 0 4 4 20 1, .vIsub .vx 0 3 3 6 0, .vIsubS .vx 0 3 3 20 0, .vImul .vx 0 3 3 6 0,
      .vImulS .vx 0 3 3 20 0, .vImulh .vx 0 3 3 6 0, .vIshl .vx 0 3 3 6 0, .vIshlS .vx 0 3 3 20 0, .vIshr .vx 0 3 3 6 0,
      .vIshrS .vx 0 3 3 20 0, .vIsra .vx 0 3 3 6 0, .vIsraS .vx 0 3 3 20 0, .vImin .vx 0 3 3 6 0, .vIminS .vx 0 3 3 20 0,
      .vImax .vx 0 3 3 6 0, .vImaxS .vx 0 3 3 20 0, .vIminu .vx 0 3 3 6 0, .vImaxu .vx 0 3 3 6 0, .vIabsd .vx 0 4 4 4 0,
      .vIavg .vx 0 4 4 4 0, .vIand .vx 0 1 1 2 0, .vIandS .vx 0 1 1 20 0, .vIor .vx 0 1 1 2 0, .vIorS .vx 0 1 1 20 0,
      .vIxor .vx 0 1 1 2 0, .vIxorS .vx 0 1 1 20 0, .vIadds .vx 0 4 4 4 1, .vIaddsS .vx 0 4 4 20 0, .vIsubs .vx 0 4 4 4 0,
      .vIsubsS .vx 0 4 4 20 0, .vImad16 .vx 0 3 4 4 0] : List Instr), Takes i (issOf vectors) (openOf vectors))
    ∧ (vectors.v 3).tag = tI32 ∧ (vectors.v 4).tag = tUi16 ∧ (vectors.v 1).tag = tFp32 :=
  ⟨takes_list _ _ (by decide), by decide⟩

theorem witness_VectorMovesAndConversions :
    (∀ i ∈ ([.vBcast .vx 0 1 20 0, .vSlideUp .vx 0 1 1 20 0, .vSlideDn .vx 0 1 1 20 0, .vMov .vx 0 1 1 0, .vLidx .vx 0 5 1,
      .vRetag .vx 0 5 1 15 0, .vPerm .vx 0 1 1 3 0, .vSel .vx 0 1 1 2 1, .vCvt .vx 0 5 1 2 0 0, .vCvt .vx 0 5 4 8 0 3,
      .vCvt .vx 0 5 4 1 0 0] : List Instr), Takes i (issOf vectors) (openOf vectors))
    ∧ (convertElement tFp32 tBf16).isSome = true ∧ (convertElement tUi16 tPx12).isSome = true
    ∧ (convertElement tUi16 tFp32).isSome = false ∧ (convertElement tFp16 tFp32).isSome = true ∧ (convertElement tFp32 tI16).isSome = true
    ∧ (convertElement tI32 tFp32).isSome = true ∧ (4095 : Nat) < 4096 ∧ (vectors.v 3).tag = tI32 :=
  ⟨takes_list _ _ (by decide), by decide +kernel⟩

/-- Rows: aligned and not, at the end of the lane memory and past it, at the end of the scratchpad, past 2^32, in the constant store. -/
theorem witness_VectorLocalMemory :
    (∀ i ∈ ([.vLdL .vx 0 1 20 0 1 0, .vLdL .vx 0 1 21 0 1 0, .vLdL .vx 0 1 22 0 1 0, .vLdL .vx 0 1 22 0 1 0x3F, .vStL .vy 0 1 20 1 0,
      .vStL .vy 0 1 22 1 0, .vStL .vy 0 1 21 1 0, .vLdC .vx 0 3 23 1 0 0, .vLdC .vx 0 3 23 1 1 0, .vLdC .vx 0 3 25 0 2 0,
      .vLdCFe .vx 0 1 20 0 1 0, .vLdCTake .vx 0 1 20 0 1 0, .vLdCFe .vx 0 1 20 2 1 0, .vStC .vx 0 1 23 1 0, .vStC .vx 0 1 26 1 0,
      .vStCSet .vx 0 1 20 1 0] : List Instr), Takes i (issOf vectors) (openOf vectors))
    ∧ (vectors.g 21).toNat % 256 ≠ 0 ∧ (vectors.g 22).toNat = 0x80000 ∧ (vectors.g 22 + 256 * BitVec.allOnes 64).toNat = 0x7FF00
    ∧ (issOf vectors).pre.locate 0 0x2FFF00 256 = some (.csp 0, 0x2FFF00) ∧ (issOf vectors).pre.locate 0 0x300000 256 = none
    ∧ (issOf vectors).pre.locate 0 0x30000000 256 = some (.const 0, 0)
    ∧ (issOf vectors).pre.locate 0 0x10000000 256 = some (.clm 0, 0)
    ∧ (issOf vectors).pre.isFull (.csp 0) (0x2FFF00 / 16) = false ∧ vectors.q 2 = 0
    ∧ orderHold (issOf vectors) (localZones (.csp 0)) false = false ∧ orderHold (issOf vectors) (localZones (.lanes 0)) true = false
    ∧ (let near := fun (store : Bool) => nearRef (issOf vectors).x .primary 2 (.clm 0) [0x100, 0x101, 0x102, 0x103] store
       (issOf vectors).pre.canPerform 0 (near true) = true ∧ (issOf vectors).pre.canPerform 0 (near false) = true)
    ∧ interlocked vectors (.csp 0) 0x2FFF00 0x2FFFFF true = false ∧ vectors.region = none ∧ vectors.cnt.st ≠ 63
    ∧ (vectors.v 3).tag ≠ tFp32 ∧ vectors.q 1 ≠ BitVec.allOnes 64 :=
  ⟨takes_list _ _ (by decide), by decide +kernel⟩

/-- A mask of two lanes over a mapped page; lane 0 of v6 leaves the page, lane 0 of v3 stays in it. -/
theorem witness_VectorGlobalMemory :
    (∀ i ∈ ([.vLdG 0 0 1 20 1 1 0, .vLdG 0 0 3 20 1 1 0, .vLdG 0 3 1 21 0 1 0, .vStG 0 0 1 20 1 0, .vStG 0 0 1 24 1 0,
      .vGather 0 0 3 3 20 1 4, .vGather 0 0 3 1 20 1 4, .vGather 0 0 1 3 20 1 0, .vGather 0 0 3 6 20 1 0, .vScatter 0 0 1 3 20 1 2,
      .vScatter 0 0 1 6 20 1 0] : List Instr), Takes i (issOf vectors) (openOf vectors))
    ∧ ((issOf vectors).pre.checkGlobal 0 (vectors.g 20) 256 false 0).toOption = some page
    ∧ ((issOf vectors).pre.checkGlobal 0 (vectors.g 20) 256 true 0).toOption = some page
    ∧ ((issOf vectors).pre.checkGlobal 0 (vectors.g 20 + (lane (vectors.v 3).data 0).signExtend 64) 4 true 0).toOption
        = some { page with cell := 0x20110 }
    ∧ ((issOf vectors).pre.checkGlobal 0 (vectors.g 20 + (lane (vectors.v 6).data 0).signExtend 64) 4 true 0).toOption = none
    ∧ (vectors.v 3).tag = tI32 ∧ (vectors.v 1).tag ≠ tI32 ∧ vectors.cnt.ld ≠ 63 ∧ vectors.cnt.st ≠ 63
    ∧ orderHold (issOf vectors) (vectors.zonesOf [(0x100, 0x103), (0x1FC, 0x1FF)]) true = false
    ∧ orderHold (issOf vectors) (vectors.zonesOf [(0x100, 0x103), (0x1FC, 0x1FF)]) false = false
    ∧ interlocked vectors .glob 0x20100 0x201FF true = false :=
  ⟨takes_list _ _ (by decide), by decide +kernel⟩

/-! ### Engines -/

/-- A core whose MX shape 0 is a BF16 product of one cell and whose shape 1 has a stride that is no multiple of 16; CA shapes 0 and 1
are views of 16 bytes at 0x1000 and 0x2000, shape 2 one past the scratchpad; PF shapes 0 and 1 two 2-byte elements; tile 0 carries 0x10. -/
def engines : CoreState :=
  { scalars with
    tiles := [(0, { tag := 0x10 })],
    regs := { g := [(20, 0x4000), (21, 0x4001), (22, 0x2), (23, 0x30000000)],
              shapes := [(0, { active := putField 0 (putField 0 (putField 0 0 7 3) 1 16) 11 16 }),
                         (1, { active := putField 0 0 11 8 }),
                         (4, { active := shapeWord 15 0 1 16 0 ||| 0x1000 }), (5, { active := shapeWord 15 0 1 16 0 ||| 0x2000 }),
                         (6, { active := shapeWord 15 0 1 16 0 ||| 0x300000 }),
                         (12, { active := shapeWord 0 0 2 16 1 ||| 0x1000 }), (13, { active := shapeWord 0 0 2 16 1 ||| 0x2000 })] } }

/-- The same words under a copy that holds them, or one that is guarded off. -/
def underCopy (g : BitVec 4) : Issue := { issOf engines with words := [(.primary, .xCp .ca g 0 1 0 0 20 1)] }

theorem noHold : ∀ zones write, orderHold (issOf engines) zones write = false := fun _ write => by cases write <;> rfl

theorem witness_MatrixWords :
    (∀ i ∈ ([.mxMma 0 0 0 0 0 0 0, .mxMma 0 1 0 0 0 0 0, .mxMmaz 0 1 0 0 3 0 0, .mxHrot16 0 0 0 0 0, .mxHrot64 0 0 1 0 0,
      .mxDrain 0 0 0 0 1 0 20, .mxDrain 0 0 0 0 5 0 20, .mxDrainH16 0 0 1 0 2 0 20, .mxDrainH64 0 0 0 0 3 0 21, .mxDrain 0 0 0 0 1 0 23,
      .mxCprog 0 0 0 20, .mxCprog 0 0 0 22, .mxMclr 0 3, .mxMtag 0 3 0x10, .mxMstat 0 0 20, .mxMstat 0 0 21, .mxMstat 0 0 23] : List Instr),
      Takes i (issOf engines) (openOf engines))
    ∧ (∀ zones write, orderHold (issOf engines) zones write = false)
    ∧ (copyBefore (issOf engines) ≠ some false ∧ (engines.tile 0).tag = 0x10 ∧ (engines.tile 1).tag ≠ 0x10
    ∧ arrayCheck (issOf engines).pre 0 0 (shapeFor engines 0 0 0) 0 0 0 false = none
    ∧ arrayCheck (issOf engines).pre 0 1 (shapeFor engines 0 1 0) 16 0 0 false ≠ none
    ∧ getField 0 (shapeFor engines 0 0 0) 11 % 16 = 0 ∧ getField 0 (shapeFor engines 0 1 0) 11 % 16 ≠ 0
    ∧ rowsOutside (issOf engines).pre 0 0x4000 16 1 4 = none ∧ rowsOutside (issOf engines).pre 0 0x30000000 16 1 4 ≠ none
    ∧ (0x4000 : Nat) % 4 = 0 ∧ (2 : Nat) % 4 ≠ 0 ∧ Mem.load engines.loc.const 0x4000 4 = 0
    ∧ (issOf engines).pre.firstOutside 0 [0, 1] 0x4000 0x401F = none ∧ (issOf engines).pre.firstOutside 0 [0, 1] 0x30000000 0x3000001F ≠ none
    ∧ intervalsUsed ((openOf engines).mach.core 0) + (mergeIntervals [intervalOf 0 0x4000 0x4003 true]).length ≤ 32
    ∧ ((openOf engines).mach.core 0).region = none ∧ ((openOf engines).mach.core 0).cnt.mx ≠ 63
    ∧ copyBefore (underCopy 2) = some false ∧ copyBefore (underCopy 0) = some true)
    ∧ Takes (.mxMma 0 0 0 0 0 0 0) (underCopy 2) { mach := machOf engines, iss := some (underCopy 2) } :=
  ⟨takes_list _ _ (by decide), noHold, by decide +kernel, ⟨rfl, by decide, rfl, by decide, by decide, by decide⟩⟩

theorem witness_ArrayCellsByKGroup : getField 0 (shapeFor engines 0 0 0) 8 + 1 = 1 ∧ (0 : Nat) < 1 := by decide +kernel

/-- Views in place and out of it, a block granted and none, and the way clear for a command. -/
theorem witness_CopyAndPermuteWords :
    let m := (issOf engines).pre
    let v := fun (e r : Nat) => viewOf (shapeFor engines e r 0)
    (∀ i ∈ ([.xCp .ca 0 0 1 0 0 20 0, .xCp .ca 0 2 1 0 0 20 0, .xCpBs .ca 0 0 1 0 0 20 0, .xCpSh .ca 0 0 1 0 0 20,
      .xCpBcast .ca 0 0 1 0 0 20 0, .xCpDz .ca 0 0 1 0 0 20 0, .xSread .ca 0 0 1 0 0 20, .xPub .ca 0 20, .xCancel .cb 0 20,
      .pfTrn8 0 0 1 0, .pfTrn16 0 0 1 0, .pfTrn32 0 0 1 0, .pfQnt 0 0 1 0 20 0, .pfDqnt 0 0 1 0 21 0, .pfUpx12 0 0 1 0, .pfPkx12 0 0 1 0,
      .pfShuf 0 0 1 0 20, .pfShuf 0 0 1 0 21, .pfShuf 0 0 1 0 23, .pfFill 0 1 0 20] : List Instr),
      Takes i (issOf engines) (openOf engines))
    ∧ (copyCheck m 0 .plain 0 (v 1 0) (v 1 1) 0 1 = none ∧ copyCheck m 0 .plain 0 (v 1 2) (v 1 1) 2 1 ≠ none
    ∧ copyCheck m 0 .shadow 0 (v 1 0) (v 1 1) 0 1 ≠ none
    ∧ (resolveViews (.xCp .ca 0 0 1 0 0 20 0) (engines.g 20) [v 1 0, v 1 1] (issOf engines)).isOk = true
    ∧ fewMet m 0 (v 1 0) false = true ∧ copyDestReady m 0 .plain (v 1 1) = true
    ∧ transposeCheck m 0 2 (v 3 0) (v 3 1) 0 1 = none ∧ transposeCheck m 0 4 (v 3 0) (v 3 1) 0 1 ≠ none
    ∧ shuffleCheck m 0 (v 3 0) (v 3 1) 0 1 = none ∧ m.firstOutside 0 [0, 1, 2] 0x4000 0x4001 = none
    ∧ m.firstOutside 0 [0, 1, 2] 0x30000000 0x30000001 ≠ none ∧ m.grantedBlock 0 0 0 = none
    ∧ ({ m with fw := { launches := [{ launchOf 1 with number := 0, grants := [(0, 0, 16)] }] } }).grantedBlock 0 0 0 = some 16)
    ∧ Clear (issOf engines) (openOf engines) 5 [intervalOf 0 0x1000 0x100F false, intervalOf 0 0x2000 0x200F true] :=
  ⟨takes_list _ _ (by decide), by decide +kernel, ⟨rfl, rfl, noHold, by decide +kernel, by decide⟩⟩

theorem witness_EngineBytesWritten :
    (viewOf (shapeFor engines 3 0 0)).isGlobal = false ∧ (viewOf (shapeFor engines 3 1 0)).isGlobal = false
    ∧ ({ c := 0, mem := [], above := [], bad := [], rq := 0, mode := .plain } : EngineEnv).mode = .plain
    ∧ (viewOf (shapeFor engines 3 0 0)).count = (viewOf (shapeFor engines 3 1 0)).count := by decide +kernel


/-! ### Composers -/

/-- A slot in user mode with queue 0 of core 0 bound, and queue 1 of it granted. -/
def slotUser : Hart :=
  { status := .ready, user := true, pc := 0x1000, mbind := 1, mgrant := 3, eprog := 1,
    x := [(10, 0x100), (11, 0x001F0000), (12, 0x0000000300000000), (13, 0x101), (14, 0x1000000)] }

/-- That slot, and its core 0, fed, with `n` entries in its primary queue. -/
def emitting (n : Nat) : State :=
  { mach := { cores := [(0, { front := { fed := true, primary := List.replicate n { bundle := 0, prov := 0 } } })],
              comps := [(0, { harts := [(0, slotUser)] })] } }

/-- Queues bound and not, full and not; a bundle that is illegal and one that leaves the window of the secondary stream; descriptors
in and out of form; addresses aligned and not, mapped and not. -/
theorem witness_EmitInstructions :
    let h := (emitting 63).mach.hart 0
    let bad : Hart := { h with stage := 0x0040000F }
    let far : Hart := { h with stage := 0x070A0001, mbind := 3 }
    h.user = true ∧ ({} : Hart).user = false
    ∧ h.mbind.getLsbD (queueBit 0 0) = true ∧ h.mbind.getLsbD (queueBit 0 1) = false ∧ h.lapsed.getLsbD (queueBit 0 1) = false
    ∧ (emitCheck h 0 1).isSome = true ∧ emitCheck h 0 0 = none ∧ (illegalWord bad.stage).isSome = true ∧ illegalWord far.stage = none
    ∧ (outsideWindow far.stage).isSome = true ∧ (emitting 64).mach.occupancy 0 0 = 64 ∧ (emitting 63).mach.occupancy 0 0 = 63
    ∧ patchOf (h.xAt 12) = some (0, 0, 1, 3) ∧ patchOf 0x001F0001 = some (1, 0, 32, 0) ∧ patchOf 0x001F1F00 = none
    ∧ 3 > h.eprog.toNat ∧ (h.eprog + 1).toNat < 3 ∧ patchOf 0x0000000100000000 = some (0, 0, 1, 1) ∧ 1 ≤ h.eprog.toNat
    ∧ patchOf 0x0000000200000000 = some (0, 0, 1, 2) ∧ 2 ≤ (h.eprog + 1).toNat
    ∧ (h.xAt 10).toNat % 32 = 0 ∧ (h.xAt 13).toNat % 32 ≠ 0 ∧ (rvCell (emitting 63).mach 0 h (h.xAt 14) .load).isOk = false
    ∧ bindRefused (emitting 63).mach 0 h 0 1 = false ∧ bindRefused (emitting 63).mach 0 h 1 0 = true := by decide +kernel

/-- A mapped page of a space for composers: its tree of five levels. -/
def mapped : Mach :=
  { mem := Mem.writeAll [] (numberBytes 0x100000 8 0x104001 ++ numberBytes 0x104000 8 0x108001 ++ numberBytes 0x108000 8 0x10C001
      ++ numberBytes 0x10C000 8 0x110001 ++ numberBytes 0x110000 8 0x20223),
    fw := { spaces := [(0, { roots := [(0, 0x100000)] })] } }

theorem witness_ComposerInstructions :
    let h := (emitting 63).mach.hart 0
    (h.xAt 10).toNat % 8 = 0 ∧ (h.xAt 13).toNat % 8 ≠ 0 ∧ (rvCell mapped 0 h 0x100 .load).isOk = true
    ∧ (rvCell mapped 0 h 0x100 .store).isOk = true ∧ (rvCell mapped 0 h 0x1000000 .store).isOk = false
    ∧ rvHolds .eq (h.xAt 10) (h.xAt 10) = true ∧ rvHolds .eq (h.xAt 10) (h.xAt 13) = false
    ∧ (1 : BitVec 4).getLsbD 0 = true ∧ h.fenced 0 = true
    ∧ ({ h with stores := [{ id := 0, bytes := [(0, 0)] }] } : Hart).fenced 0 = false
    ∧ (csrRead (emitting 63).mach 0 h 0xCC0).isSome = true ∧ (csrRead (emitting 63).mach 0 h 0xCC3).isSome = true
    ∧ h.user = true ∧ h.xAt 17 = 0 ∧ h.xAt 10 ≠ 0 ∧ h.xAt 0 = 0 ∧ ({} : Hart).user = false := by decide +kernel

/-! ### Events -/

/-- Operations in flight: a load that has been performed and two that have not, the last on another module; stores. -/
def loadOf (n cell : Nat) (data : Option Taken) : LoadOp :=
  { amoOp .add with id := n, amo := none, data := data, elems := [{ lane := 0, addr := cell, size := 8, signed := true }] }
def storeOf (n : Nat) (sp : Space) (cell : Nat) : StoreOp :=
  { id := n, issue := 0, stream := .primary, slot := 0, origin := {}, space := sp, bytes := [(cell, 9)] }

/-- A core with something in flight. -/
def flying (f : Flight) : CoreState := { scalars with flight := f }

/-- A core that waits: at its mwait, in its last cycle of ct.idle, for the secondary stream, in a region told to roll back. -/
def busy : CoreState :=
  { scalars with
    flight := { cmds := [{ id := 7, issue := 0, slot := 4, stream := .primary, origin := {}, kind := .mclr 0 }] },
    front.sp := { mwait := some (some 90), idle := 1 }, front.waitCount := 64,
    region := some { recovery := 0x800, regs := {}, tags := [], roll := some 3 } }

/-- A module with that core; module 1 cannot be reached; slot 0 waits for room, slot 1 is ready; composer 1 has run its 64. -/
def busyMach : Mach :=
  { machOf busy with
    fw.unreachable := [1],
    comps := [(0, { harts := [(0, { status := .waitRoom, waits := some (0, 0, 63), stores := [{ id := 1, bytes := [(5, 5)] }] }),
                              (1, { status := .ready })], run := 64 })] }

/-- A store that has been performed at every observer, and a module on which its core has it in flight. -/
def doneStore : StoreOp := { storeOf 4 .glob 8 with performed := true }
def storing (w : StoreOp) : Mach := machOf (flying { stores := [w] })

/-- Commands of the other kinds, running. -/
def running (kind : CmdKind) : Command :=
  { id := 7, issue := 0, slot := 5, stream := .primary, origin := {}, kind := kind, running := true }

/-- The access numbered `id` of core 0 can be performed, with nothing before it. -/
def performable (m : Mach) (id : Nat) : Bool := (m.refOf 0 id).any (fun r => m.refsBefore 0 r = [] && m.canPerform 0 r)

theorem witness_CoreAndEngineEvents :
    let result : Pending := { dest := .g 9, value := 5, stream := .primary, steps := 2, cycles := 1, slot := 0, issue := 1 }
    let with' := fun (f : Flight) => machOf (flying f)
    let far : FarLoad := { id := 6, space := .clm 0, elems := [] }
    (flying { pend := [result] }).flight.pend[0]? = some result ∧ result.cycles ≤ 1 ∧ result.far = none
    ∧ (flying { loads := [loadOf 1 8 (some { bytes := [7] })] }).flight.loads.find? (fun k => k.id = 1)
        = some (loadOf 1 8 (some { bytes := [7] }))
    ∧ (with' { loads := [loadOf 1 8 (some { bytes := [7] })] }).refOf 0 1 = none
    ∧ (flying { loads := [loadOf 2 8 none] }).flight.loads.find? (fun k => k.id = 2 && (k.data.isNone || k.amo.isNone))
        = some (loadOf 2 8 none)
    ∧ (loadOf 2 8 none).pieces = [] ∧ (loadOf 2 8 none).floor = none ∧ (loadOf 2 8 none).overlay = []
    ∧ performable (with' { loads := [loadOf 2 8 none] }) 2 = true ∧ (∀ d ∈ (with' {}).dies, d.2.early = [])
    ∧ busyMach.fw.unreachable.contains (cellModule (2 ^ 46)) = true
    ∧ (flying { stores := [storeOf 4 .glob 8] }).flight.stores.find? (fun k => k.id = 4 && k.space = .glob && k.waits.isNone)
        = some (storeOf 4 .glob 8)
    ∧ (storeOf 4 .glob 8).rq ≠ 3 ∧ tickGe (storing doneStore).vclk ((storing doneStore).leastTicket [8]) = true ∧ performable (storing (storeOf 4 .glob 8)) 4 = true
    ∧ (storeOf 4 .glob 8).performed = false ∧ doneStore.performed = true ∧ (storing doneStore).refOf 0 4 = none
    ∧ (storing doneStore).canPerform 0 ((storing doneStore).storeRef doneStore) = true
    ∧ ((storeOf 4 .glob 8).bytes.map (·.1)).Nodup
    ∧ ((busyMach.hart 0).stores.find? (fun k => k.id = 1 && k.ticket.isNone)).isSome = true
    ∧ (flying { stores := [{ storeOf 4 .glob (2 ^ 46) with remote := true }] }).flight.stores.find? (fun k => k.id = 4 && k.space = .glob &&
        !k.engine && k.ticket.isNone && k.bytes.any (fun b => busyMach.fw.unreachable.contains (cellModule b.1)))
        = some { storeOf 4 .glob (2 ^ 46) with remote := true }
    ∧ (flying { stores := [storeOf 5 (.csp 0) 8] }).flight.stores.find? (fun k => k.id = 5 && k.space ≠ .glob) = some (storeOf 5 (.csp 0) 8)
    ∧ performable (storing (storeOf 5 (.csp 0) 8)) 5 = true
    ∧ (flying { fars := [far] }).flight.fars.find? (fun k => k.id = 6) = some far ∧ performable (with' { fars := [far] }) 6 = true
    ∧ (flying { remotes := [(8, [(0, 0)])] }).flight.remotes.find? (fun r => r.1 = 8) = some (8, [(0, 0)])
    ∧ ({ busyMach with fw.launches := [{ launchOf 1 with status := .claimed, tick := some 100 }] } : Mach).releasing = true
    ∧ busyMach.releasing = false := by
  decide +kernel

/-- Waits that end: a deadline that has come, the last cycle of ct.idle with nothing pending, 64 issues without the secondary stream. -/
theorem witness_WaitingEvents :
    let x := busyMach.core 0
    (x.streamState .primary).mwait = some (some 90) ∧ (busyMach.vclk - 90).toNat < 2 ^ 47 ∧ (x.streamState .primary).idle = 1
    ∧ (∀ p ∈ x.flight.pend, p.steps ≤ 1 → p.cycles = 0 ∧ p.far = none) ∧ 64 ≤ x.front.waitCount ∧ (x.command 7).isSome = true := by decide +kernel

theorem witness_EngineEvents :
    let x := busyMach.core 0
    let withCmd := fun (k : CmdKind) => machOf { scalars with flight.cmds := [running k], shadows := [{ handle := 5, pages :=
      [{ live := 0x4000, va := 0, units := 1, data := [(0x4000, 1)], inRegion := false }] }] }
    (∀ k, x.command 7 = some k → canStart x k = true) ∧ (running (.mclr 0)).plain = true
    ∧ globalCells (engineWork (withCmd (.mclr 0)) 0 (running (.mclr 0)) []) = []
    ∧ (engineWork (withCmd (.mclr 0)) 0 (running (.mclr 0)) []).fail = none
    ∧ (withCmd (.mclr 0)).atomicsBefore 0 (running (.mclr 0)) [] = [] ∧ (withCmd (.mclr 0)).canGoOn 0 (running (.mclr 0)) [] [] = true
    ∧ (withCmd (.mclr 0)).firstRefs 0 ((running (.mclr 0)).ref []) = []
    ∧ ((withCmd (.cancel 5)).core 0).command 7 = some (running (.cancel 5))
    ∧ (∀ e ∈ ((withCmd (.pub 5)).core 0).flight.cmds, e.shadows 5 = true → 7 ≤ e.id)
    ∧ ((withCmd (.pub 5)).core 0).groupAhead 0 7 = false ∧ (withCmd (.pub 5)).firstRefs 0 ((running (.pub 5)).ref []) = []
    ∧ (((withCmd (.pub 5)).core 0).shadowSet 5).pages.length = 1
    ∧ globalCells (sreadWork (withCmd (.sread rows3x2 rows3x2 0 0 16)) 0 rows3x2 [] false) = []
    ∧ (withCmd (.sread rows3x2 rows3x2 0 0 16)).canGoOn 0 (running (.sread rows3x2 rows3x2 0 0 16)) [] [] = true
    ∧ (withCmd (.sread rows3x2 rows3x2 0 0 16)).firstRefs 0 ((running (.sread rows3x2 rows3x2 0 0 16)).ref []) = []
    ∧ (busyMach.core 0).region.isSome = true ∧ ({ (busyMach.core 0) with flight := {} } : CoreState).regionLoads = false
    ∧ (64 ≤ (busyMach.comp 0).run ∨ ((busyMach.comp 0).hart (busyMach.comp 0).current).turn = false) ∧ nextSlot (busyMach.comp 0) = some 1
    ∧ (busyMach.hart 0).status = .waitRoom ∧ (busyMach.hart 0).waits = some (0, 0, 63) ∧ busyMach.occupancy 0 0 ≤ 63 := by
  refine ⟨?_, by decide +kernel⟩
  intro k hk
  have : (busyMach.core 0).command 7 = some { id := 7, issue := 0, slot := 4, stream := .primary, origin := {}, kind := .mclr 0 } := rfl
  rw [this] at hk; cases hk; decide +kernel

/-- Line 0x202 of die 0: an entry, core 0's sector 0, and messages on their way; a shootdown in flight. -/
def lines (e : DirEntry) (s : Sector) (msgs : List Msg) : Mach :=
  { machOf { scalars with caches := { l1 := [(0x202, [s, .invalid, .invalid, .invalid])] } } with
    dies := [(0, { dir := [(0x202, e)], shootdown := true })],
    homes := [(0x202, { dies := 3, owner := some 1, remote := [2], lease := some 200 })],
    msgs := msgs }

/-- Entries at rest and transient, messages of every kind, a line that one die holds alone and one that another is marked for. -/
theorem witness_CoherenceEvents :
    let plain : DirEntry := {}
    let owned : DirEntry := { owners := [some 1, none, none, none] }
    let asked : DirEntry := { req := some { core := 1, part := 0, kind := some .owned }, count := 1 }
    let reading : DirEntry := { req := some { core := 1, part := 0, kind := none }, count := 1 }
    let m := lines plain .shared []
    let alone : Mach := { m with homes := [] }
    Sparse.find (m.die 0).dir 0x202 = some plain ∧ plain.req = none ∧ asked.req ≠ none ∧ plain.owner 0 = none ∧ (0 : Nat) < 4
    ∧ (∀ u ∈ (m.core 0).caches.untracked, u.sector / 4 ≠ 0x202)
    ∧ owned.owner 0 = some 1 ∧ m.heldOnDie 0 0x202 1 0 = false ∧ m.heldOnDie 0 0x202 0 0 = true ∧ plain.owners.length = 4
    ∧ m.soleDie 0 0x202 = false ∧ (1 : Nat) ∈ m.otherDies 0 0x202 ∧ alone.soleDie 0 0x202 = true
    ∧ (∀ k ∈ plain.mayInclude 0, k = 0) ∧ (1 : Nat) ≠ 0 ∧ ({ plain with permission := true } : DirEntry).permission = true
    ∧ Sparse.get [] (m.core 0).caches.l1 0x202 ≠ [] ∧ (m.core 0).modifiedSectors 0x202 = []
    ∧ ((lines plain .modified []).core 0).modifiedSectors 0x202 = [0]
    ∧ (∀ g ∈ ([.invalidate 0 0x202 0, .recall 0 0x202 0, .ack 0 0x202 0, .notice 0 0x202 [], .notice 0 0x202 [0], .drop 0 0x202 1,
        .dropped 1 0x202 0] : List Msg),
      (lines plain .shared [g, .invalidate 0 0x202 1]).msgs.find? (fun e => e.channel = g.channel) = some g)
    ∧ (lines plain .shared [.notice 0 0x202 []]).nextNotice 0 0x202 false = some (.notice 0 0x202 [])
    ∧ (lines plain .shared [.notice 0 0x202 [0]]).nextNotice 0 0x202 true = some (.notice 0 0x202 [0])
    ∧ Sparse.get [] (({ m with cores := [] } : Mach).core 0).caches.l1 0x202 = []
    ∧ ((lines reading .modified []).core 0).sector 0x202 0 = .modified ∧ reading.waiting = []
    ∧ Sparse.find ((lines asked .shared []).die 0).dir 0x202 = some asked ∧ asked.count ≤ 1
    ∧ 1 < ({ asked with count := 2 } : DirEntry).count
    ∧ (m.home 0x202).owner = some 1 ∧ (m.home 0x202).remote.length < 4 ∧ (1 : Nat) ∉ (m.home 0x202).remote
    ∧ (m.home 0x202).dies.getLsbD 1 = true ∧ (Sparse.find m.homes 0x202).isSome = true ∧ (∀ k, k < 64 → m.lineBusy k 0x202 = false)
    ∧ (m.die 0).shootdown = true ∧ (∀ k, k < 16 → (m.core k).unperformed = false)
    ∧ (∀ k, k < 4 → ∀ h ∈ (m.comp (4 * 0 + k)).harts, ∀ w ∈ h.2.stores, w.performed = true) ∧ 5 % 64 ≠ 0 ∧ 64 % 64 = 0 := by
  decide +kernel

/-- An untracked line held by a core, and the translation of the line after the next bundle. -/
theorem witness_UntrackedAndPrefetch :
    let x : CoreState := { scalars with caches := { untracked := [{ sector := 0x808, data := 5, dirty := true }], tlb := [tlbRw] } }
    (∃ u ∈ x.caches.untracked, u.sector / 4 = 0x202) ∧ (x.caches.untracked.map (·.sector)).Nodup ∧ (machOf x).aliased 0 0x808 = false
    ∧ (machOf x).translate 0 0x400 = .leaf leafRw 14 ∧ (0x400 + 256) % 2 ^ 14 ≠ 0 ∧ pteEnd leafRw = false
    ∧ (machOf x).translate 0 (0x400 + 256) = .leaf leafRw 14 ∧ pteKind leafRw ≠ 1 := by decide +kernel

/-- A core entry for core 0. -/
def entry0 : LaunchCore := { core := 0, fed := false, flags := 0, dmem := 0, start := 0x400, g2 := 0, args := [] }

/-- A launch of core 0 in a state, eligible, with its tick and its ticket. -/
def launchIn (st : LaunchStatus) : Launch :=
  { launchOf 1 with
    status := st, eligible := some 0, tick := some 100, ticket := some 90, cores := [entry0],
    reported := if st = .running then [0] else [] }

/-- Its module, with the status of its core. -/
def standing (st : LaunchStatus) (core : Status) : Mach :=
  { vclk := 100, cores := [(0, { reg := { status := core, launch := 1 } })], dies := [(0, { stage := 1 })], fw := { launches := [launchIn st] } }

/-- That module, whose page 0 shows the statistics rings at 0x20000, read only; and where F1 places the launch. -/
def ringed : Mach :=
  { standing .waiting .idle with mem := mapped.mem.writeAll (numberBytes 0x110000 8 0x20023),
                                 fw := { mapped.fw with launches := [launchIn .waiting] } }
def places : EventArgs := { tick := 100, addrs := [0x40000, 0x50000, 0x20000, 0, 0x60000] }

/-- A launch with level-5 arrivals of other modules: one of two members, one of them away. -/
def domained : Launch := { launchIn .running with arrived := [(5120, 1)], away := [(5120, 1)], members := [(5120, 3)], others := [(5120, 2)] }

/-- The launch of such a module. -/
def theLaunch (m : Mach) : Launch := (m.launch 1).getD (launchOf 1)

theorem witness_LaunchAndHandlerEvents :
    let w := standing .waiting .idle
    let c := standing .claimed .idle
    let r := standing .running .running
    let s := standing .saved .saved
    w.launch 1 = some (theLaunch w) ∧ (theLaunch w).status = .waiting ∧ w.inTurn (theLaunch w) = true
    ∧ w.available (theLaunch w) [] = true ∧ ((theLaunch w).cores.map (·.core)).Nodup ∧ ((100 : Tick) - w.vclk).toNat ≤ 2 ^ 40
    ∧ (let p := ringed.placed places (theLaunch w); (ringed.openWindows p).mapsRight p (places.addrs.drop 5) = true)
    ∧ ringed.launch 1 = some (theLaunch w) ∧ ringed.inTurn (theLaunch w) = true ∧ ringed.available (theLaunch w) [] = true
    ∧ (theLaunch c).status = .claimed ∧ (theLaunch c).tick = some c.vclk ∧ (c.core 0).reg.status = .idle ∧ (1 : BitVec 32) ≠ 0
    ∧ (theLaunch r).status = .running ∧ r.finished (theLaunch r) = true ∧ r.mayStop 1 = false
    ∧ ({ r with fw.launches := [theLaunch r, { theLaunch w with number := 2, priority := 1 }] } : Mach).mayStop 1 = true
    ∧ (∀ e ∈ (theLaunch (standing .stopping .saved)).cores, ((standing .stopping .saved).core e.core).reg.status = .saved
        ∧ ((standing .stopping .saved).core e.core).releasing = [])
    ∧ ({ theLaunch c with tick := none } : Launch).tick = none
    ∧ Sparse.get 0 domained.away 5120 + 1 ≤ Sparse.get 0 domained.others 5120
    ∧ Sparse.get 0 domained.arrived 5120 + 1 ≠ Sparse.get 0 domained.members 5120
    ∧ Sparse.get 0 ({ domained with members := [(5120, 2)] } : Launch).members 5120 = 1 + 1 ∧ 1 ≤ Sparse.get 0 domained.away 5120
    ∧ Sparse.get 0 domained.arrived 5120 ≠ Sparse.get 0 domained.members 5120 - 1 ∧ (1 : Nat) - 1 ≠ 3 - 1
    ∧ domained.status = .running ∧ (theLaunch s).status ≠ .running ∧ (theLaunch s).status ≠ .stopping
    ∧ (theLaunch s).status = .saved ∧ s.inTurn (theLaunch s) = true ∧ s.available (theLaunch s) [] = true
    ∧ (∀ e ∈ (theLaunch s).cores, (s.die (dieOf e.core)).steward = true)
    ∧ (theLaunch (standing .completing .ended)).status = .completing ∧ passed 100 (theLaunch (standing .completing .ended)).ticket = true
    ∧ ((standing .running .faulted).faultOf (theLaunch (standing .running .faulted))).isSome = true
    ∧ ((standing .running .exhausted).core 0).reg.status = .exhausted := by decide +kernel

/-- A lapsed binding, replays of a fetch miss and of a read-duplicate store, a record to free, a die whose steward is down. -/
theorem witness_HandlerEvents :
    let watch : Lapse := { core := 0, slot := 0, launch := 1, record := 0 }
    let m : Mach := { standing .running .running with comps := [(0, { watch := [watch] })] }
    let missed := fun (cause : BitVec 8) (va : Dword) (reg : Registry) =>
      machOf { scalars with replay := [(.primary, cause, va)], reg := reg }
    let rdup : Mach :=
      { missed 6 0x100 {} with
        mem := Mem.writeAll mapped.mem ((List.range 4).flatMap (fun i => numberBytes (0x110000 + 8 * i) 8 (0x20267 + 0x4000 * i))), fw := mapped.fw }
    (m.comp (clusterOf 0)).watch.find? (fun w => w.core = 0) = some watch ∧ (m.core 0).reg.launch = 1 ∧ (m.core 0).running = true
    ∧ (m.core 0).front.primary = []
    ∧ ((missed 4 0 {}).core 0).replayOf .primary = some (4, 0) ∧ ((missed 4 0 {}).die 0).steward = true
    ∧ (missed 4 0 {}).walk 0 0 = .none ∧ (missed 4 0 {}).shooting = false
    ∧ ({ missed 4 0 {} with dies := [(0, { shootdown := true })] } : Mach).shooting = true
    ∧ rdup.duplicated 0 0x100 = true ∧ rdup.collapsing 0 0x100 = none ∧ (missed 6 0x100 {}).duplicated 0 0x100 = false
    ∧ ({ rdup with fw.collapses := [{ space := 0, group := 0, copies := [] }] } : Mach).collapsing 0 0x100
        = some { space := 0, group := 0, copies := [] }
    ∧ (rdup.core 0).replayOf .primary = some (6, 0x100) ∧ rdup.root 0 = some 0x100000 ∧ (rdup.spaceRec 0).roots = [(0, 0x100000)]
    ∧ (groupEntries (rdup.splitTree 0x100000 0 0x100).mem 0x100000 0x100).isSome = true
    ∧ ({ bits := 0, fatal := false, replay := false } : TrapRec).fatal = false
    ∧ ({ m with dies := [(0, { steward := false })] } : Mach).die 0 = { steward := false } := by decide +kernel

/-- A ring of 16 entries at 0x10000 with one entry of a kind announced, over other cells; die 0 has passed stage one. -/
def hosted (kind : Nat) (more : List (Nat × BitVec 8)) : Mach :=
  { mem := Mem.writeAll [] (numberBytes 0x10000 1 kind ++ more), dies := [(0, { stage := 1 })],
    fw := { rings := [(0, { value := 0x10004, tail := 1 })] } }

/-- A launch record at 0x8000 of one core of one module, and a .cyo of no sections at 0x9000. -/
def record : List (Nat × BitVec 8) :=
  numberBytes 0x10008 8 0x8000 ++ numberBytes 0x8000 8 0x0000000148434E4C ++ numberBytes 0x8008 8 0x9000
    ++ numberBytes 0x801C 8 0x0001000000000001 ++ numberBytes 0x8100 8 0 ++ numberBytes 0x8108 8 0x400
    ++ numberBytes 0x9000 8 0x004000014F59437F ++ numberBytes 0x9008 4 0x00010102 ++ numberBytes 0x9034 4 0xFFFFFFFF

/-- The launch of that record. -/
def asked : Launch := readLaunch (hosted 1 record).mem 0x8000 0 0 []

theorem witness_LaunchEntry :
    let m := hosted 1 record
    m.headEntry 0 = some 0x10000 ∧ m.inSequence 0 0x10000 = true ∧ at1 m.mem 0x10000 0 = 1 ∧ at1 m.mem 0x10000 1 = 0
    ∧ (m.ring 0).tail = (m.ring 0).head + 1 ∧ recordBad m.mem 0x8000 = none ∧ cyoBad m.mem 0x9000 [] false = false
    ∧ m.staleSpace asked.space = false ∧ (m.spaceRec asked.space).closing = none ∧ m.refusal asked false = none
    ∧ m.refusal { asked with modules := 2 } true = some 4 ∧ m.placesRight 0x9000 {} asked = true
    ∧ (let one := hosted 1 (record ++ numberBytes 0x900C 1 1 ++ numberBytes 0x9010 1 0x40 ++ numberBytes 0x9044 4 0x00050001
          ++ numberBytes 0x9048 1 0x80 ++ numberBytes 0x9050 1 32)
       cyoBad one.mem 0x9000 [] false = false ∧ one.placesRight 0x9000 {} asked = false)
    ∧ recordBad (hosted 1 (record ++ numberBytes 0x8007 1 1)).mem 0x8000 = some 7
    ∧ cyoBad (hosted 1 (record ++ numberBytes 0x9008 1 3)).mem 0x9000 [] false = true
    ∧ ({ m with dies := [] } : Mach).refusal asked false = some 9
    ∧ ({ m with fw.spaces := [(0, { generation := 1 })] } : Mach).staleSpace asked.space = true := by decide +kernel

/-- Buffers named and not, in form and not; configurations; spaces idle, busy and closing. -/
theorem witness_HostEntries :
    let b := fun (flags : Nat) => numberBytes 0x10008 8 0x8000 ++ numberBytes 0x8000 8 0x40000 ++ numberBytes 0x8008 8 0x10000
      ++ numberBytes 0x8018 1 flags
    let k : Buffer := { space := 0, va := 0x40000, size := 0x10000, rdup := false, tables := [], ranges := [] }
    let m3 := hosted 3 (b 0)
    let m4 : Mach := { hosted 4 (b 0) with fw.buffers := [k] }
    let m6 := hosted 6 []
    at1 m3.mem 0x10000 0 = 3 ∧ m3.headEntry 0 = some 0x10000 ∧ firstBad (bufferChecks m3 0x8000) = none
    ∧ firstBad (bufferChecks (hosted 3 (b 32)) 0x8000) = some 24 ∧ m3.staleSpace 0 = false
    ∧ at1 m4.mem 0x10000 0 = 4 ∧ k ∈ m4.fw.buffers ∧ k.va = at8 m4.mem 0x8000 0 % 2 ^ 57 ∧ k.size = at8 m4.mem 0x8000 8
    ∧ k.leaving = false ∧ { k with leaving := true }.leaving = true ∧ m4.shooting = false
    ∧ ({ m4 with dies := [(0, { shootdown := true })] } : Mach).shooting = true
    ∧ at1 (hosted 5 (numberBytes 0x10011 1 8)).mem 0x10000 17 = 8 ∧ at1 (hosted 5 (numberBytes 0x10011 1 1)).mem 0x10000 17 = 1
    ∧ at1 (hosted 5 (numberBytes 0x10010 2 0x0102)).mem 0x10000 16 = 2 ∧ at1 (hosted 5 (numberBytes 0x10011 1 4)).mem 0x10000 17 = 4
    ∧ at8 m6.mem 0x10000 16 = 0 ∧ at8 m6.mem 0x10000 8 = 0 ∧ (m6.spaceRec 0).closing = none ∧ m6.spaceQuiet 0 = true
    ∧ ({ m6 with fw.launches := [launchOf 1] } : Mach).spaceQuiet 0 = false ∧ (m6.spaceRec 0).keys = none
    ∧ (let shut : Mach := { m6 with fw.spaces := [(0, { closing := some (0, 0), keys := some [3] })] }
       (shut.spaceRec 0).closing = some (0, 0) ∧ (shut.spaceRec 0).keys = some [3] ∧ shut.shooting = false)
    ∧ at8 (hosted 6 (numberBytes 0x10010 8 (2 ^ 36))).mem 0x10000 16 = 2 ^ 36 := by decide +kernel

/-- Rings on and off; an entry out of sequence; what the fleet's events ask of the module. -/
theorem witness_HostAndFleetEvents :
    let m := hosted 2 []
    let f := m.fleet
    (m.ring 0).k ≠ 0 ∧ m.hostOpen = true ∧ ((BitVec.ofNat 16 1) - BitVec.ofNat 16 (m.ring 0).head).toNat ≤ 2 ^ (m.ring 0).k
    ∧ (m.ring 1).k = 0 ∧ at1 m.mem 0x10000 0 = 2 ∧ m.launch 0 = none
    ∧ (hosted 2 (numberBytes 0x10002 2 5)).inSequence 0 0x10000 = false ∧ (hosted 2 (numberBytes 0x10002 2 5)).headEntry 0 = some 0x10000
    ∧ m.fw.imageVersion.toNat ≤ (0 : BitVec 64).toNat ∧ f.fullService = false ∧ f.twilight = false
    ∧ f.lifecycle = .provisioned ∧ f.hot = false ∧ (m.die 1).stage = 0 ∧ (1 : Nat) < 64
    ∧ ({ f with twilight := true } : Fleet).twilight = true
    ∧ (∀ d, d < 64 → (({ m with dies := (List.range 64).map (fun d => (d, { stage := 1 })) } : Mach).die d).stage ≠ 0)
    ∧ (∀ e ∈ ([(0x100, 1)] : List (Nat × BitVec 8)), ∀ k, k < 64 → m.lineBusy k (e.1 / 256) = false)
    ∧ f.teleAddr = 0 ∧ ({ f with teleAddr := 0x20000 } : Fleet).teleAddr ≠ 0 ∧ ({ f with hot := true } : Fleet).hot = true
    ∧ 1150 ≤ (1150 : BitVec 64).toNat ∧ (1149 : BitVec 64).toNat < 1150 ∧ (1049 : BitVec 64).toNat < 1050 ∧ (849 : BitVec 64).toNat < 850 := by
  decide +kernel

/-! ### Regions, merged streams and values -/

/-- A core in a region with these held effects and guards. -/
def within (x : CoreState) (held : List Held) (guards : Sparse Guard) : CoreState :=
  { x with region := some { recovery := 0x800, regs := {}, tags := [1], held := held, guards := guards } }

/-- A held store of one byte of the mapped page. -/
def heldStore : HeldWrite :=
  { store := { id := 0, issue := 0, stream := .primary, slot := 0, origin := {}, space := .glob, bytes := [(0x20100, 1)] }, entries := 1,
    ranges := [(0x100, 0x100)] }

/-- A region with nothing in it, one whose entries are all taken, and one with a guard on the bytes of g20. -/
theorem witness_AccessesInRegions :
    let x := within scalars [] []
    let y := within locals [] []
    let full := within scalars [.write { heldStore with entries := 128 }] []
    let seen := within scalars [] [(9, { space := .glob, lo := 0x20100, hi := 0x20107, issue := 0 })]
    (∀ i ∈ ([.scLd 0 9 20 0 3 0, .scLdu 0 9 20 3 0 0, .scSt 0 9 20 0 3 0] : List Instr),
      Takes i (issOf x) (openOf x) ∧ Takes i (issOf full) (openOf full) ∧ Takes i (issOf seen) (openOf seen))
    ∧ (∀ i ∈ ([.scLdc 0 9 20 3 0, .scLdcu 0 9 20 2 0, .scLdcFe 0 9 26 3 0, .scLdcuFe 0 9 26 2 0, .scLdcTake 0 9 26 3 0,
      .scLdcuTake 0 9 26 2 0, .scStc 0 9 20 3 0, .scStcSet 0 9 20 3 0] : List Instr), Takes i (issOf y) (openOf y))
    ∧ (issOf x).pre.checkGlobal 0 (scalars.g 20) 8 true 0 = .ok page ∧ (issOf x).pre.checkGlobal 0 (scalars.g 20) 8 false 0 = .ok page
    ∧ guardsOf (issOf x) = [] ∧ (guardsOf (issOf seen)).any (fun q => q.space = .glob && decide (q.lo ≤ 0x20100 ∧ 0x20100 ≤ q.hi)) = true
    ∧ (x.region.map (·.entries), full.region.map (·.entries)) = (some 0, some 128)
    ∧ x.region.all (fun r => !(heldCommandWrites r .glob 1 0 [(0x100, 0x107)]) && marksFit (addMarks r.marks [0x201])) = true
    ∧ orderHold (issOf x) (x.zonesOf [(0x100, 0x107)]) false = false ∧ x.cnt.ld ≠ 63
    ∧ (issOf y).pre.locate 0 0x100 8 = some (.csp 0, 0x100) ∧ (issOf y).pre.locate 0 0x2FFFF0 8 = some (.csp 0, 0x2FFFF0)
    ∧ (issOf y).pre.isFull (.csp 0) 0x2FFFF = true ∧ isFar 0 (.csp 0) 0x100 = false ∧ Space.sharedBits (.csp 0) = false
    ∧ orderHold (issOf y) (localZones (.csp 0)) false = false ∧ interlocked y (.csp 0) 0x2FFFF0 0x2FFFF7 true = false
    ∧ y.region.all (fun r => !(heldCommandWrites r (.csp 0) 0x100 0x107 []) && decide (r.entries < 128)) = true :=
  ⟨fun i hi => ⟨takes_list _ _ (by decide) i hi, takes_list _ _ (by decide) i hi, takes_list _ _ (by decide) i hi⟩,
    takes_list _ _ (by decide), rfl, rfl, by decide +kernel⟩

theorem witness_RegionsCommitAndRollBack :
    let x := within scalars [.write heldStore] []
    x.region.all (fun r => r.held = [.write heldStore]) = true ∧ x.region.isSome = true ∧ heldStore.store.space = .glob ∧ x.releasing = []
    ∧ x.shadows = [] ∧ x.cnt.st ≠ 63 ∧ x.orderHeld 100 .primary (x.zonesOf heldStore.ranges) true = false
    ∧ interlocked x .glob 0x20100 0x20100 true = false ∧ (((machOf x).drain 0).core 0).region.isSome = true
    ∧ (([.scAmoAdd 0 9 20 14 0 1, .scAmoCas 0 9 20 14 0 1, .scMtc 0 9 0x10, .scZdef 0 1 20 21, .scZdefh 0 1 20 0, .scSvc 0 0, .scStqpop 0 9,
      .ctFenceRel 0 1, .ctFenceAcq 0 1, .ctFenceVis 0 1, .ctFenceFull 0, .ctBarArrive 0 1, .ctBarWait 0 1, .ctBarSync 0 1, .ctArm 0 20 0,
      .ctMwait 0 0, .ctEnd 0] : List Instr).all (guarded (issOf x).x)) = true
    ∧ (issOf x).x.region.isSome = true ∧ (openOf x).iss = some (issOf x) := by decide +kernel

/-- A bundle of these words. -/
def bundleOf (l : List Instr) : Bundle :=
  l.foldl (fun b i => b ||| BitVec.ofNat 256 (((encode i).getD 0).toNat * 2 ^ (32 * slotNum i))) 0

/-- A fed core with one bundle in each queue, whose primary stream is withheld or not. -/
def streams (prim sec : List Instr) (waited : Bool) : State :=
  { mach := { cores := [(0, { front := { fed := true, withhold := waited, primary := [{ bundle := bundleOf prim, prov := 5 }],
                                         secondary := [{ bundle := bundleOf sec, prov := 6 }] },
                              cnt := { ld := 1 }, reg := { status := .running, launch := 1 } })] },
    agenda := [.cycle 0] }

/-- The two heads of such a core as its cycle finds them, what each says of its issue, and what both say together: the primary head can
issue, it is held by its ct.end, the secondary head can issue, both can, and their slots are apart. -/
def headsOf (s : State) : Option (Bool × Bool × Bool × Bool × Bool) :=
  let m1 := ((s.mach.beginCycle 0).withholdPrimary 0).standSecondary 0
  let m2 := m1.countStretch 0 .secondary
  match (m1.core 0).secondaryHead, m2.primaryHead 0 with
  | some q, .ok (some p, m) =>
    let t : State := { s with mach := (m.standHead 0 .primary p.words).countStretch 0 .primary, agenda := [] }
    let prim := evalIssue exec 0 [(.primary, p)] [] t
    let sec := evalIssue exec 0 [(.secondary, q)] [] t
    let both := evalIssue exec 0 [(.primary, p), (.secondary, q)] [] t
    if (m1.core 0).replay = [] && (m1.core 0).front.sp.idle = 0 && (m2.core 0).front.sp.idle = 0 && !(opensRegion t 0 prim)
    then some (canIssue prim, heldByEnd prim, canIssue sec, canIssue both, disjointSlots p.words q.words) else none
  | _, _ => none

/-- Streams that merge, that meet in a slot, whose primary bundle is held by a counter or by ct.end; and a withheld primary stream. -/
theorem witness_StreamsMerge :
    let plain := streams [.scImm 0 0 10 1] [.vLidx .vx 0 9 0] false
    headsOf (streams [.scImm 0 0 10 1] [.vLidx .vx 0 9 0] false) = some (true, false, true, true, true)
    ∧ headsOf (streams [.scImm 0 0 10 1] [.scImm 0 0 11 1] false) = some (true, false, true, true, false)
    ∧ headsOf (streams [.ctWait 0 0 0 0 0] [.vLidx .vx 0 9 0] false) = some (false, false, true, false, true)
    ∧ headsOf (streams [.vLidx .vx 0 8 0, .ctWait 0 0 0 0 0] [.vLidx .vx 0 9 0] false) = some (false, false, true, false, false)
    ∧ headsOf (streams [.ctEnd 0] [.vLidx .vx 0 9 0] false) = some (false, true, true, false, true)
    ∧ ((((streams [.scImm 0 0 10 1] [.vLidx .vx 0 9 0] true).mach.beginCycle 0).withholdPrimary 0).core 0).front.withhold = true
    ∧ plain.agenda = .cycle 0 :: [] ∧ plain.iss = none ∧ (plain.mach.core 0).reg.status = .running ∧ (plain.mach.core 0).releasing = []
    ∧ (plain.mach.core 0).replay = [] ∧ plain.mach.fleet.limit = 16 ∧ plain.mach.fleet.thermal = 16
    ∧ (plain.mach.core 0).front.sp.idle = 0 ∧ (plain.mach.core 0).front.ss.idle = 0 :=
  ⟨by decide +kernel, by decide +kernel, by decide +kernel, by decide +kernel, by decide +kernel, by decide +kernel, rfl, rfl, rfl, rfl,
    rfl, rfl, rfl, rfl, rfl⟩

/-- Turns that no agent has. -/
theorem witness_NoSuchAgent : ({ agenda := [.cycle 1024] } : State).turns = .cycle 1024 :: [] ∧ ({ agenda := [.compose 256] } : State).turns
    = .compose 256 :: [] ∧ ({ agenda := [.cycle 0] } : State).turns = .cycle 0 :: [] := by decide

/-- Results for every kind of register. -/
theorem witness_LandingsByKind :
    ∀ d ∈ ([.g 9, .p 15, .q 7, .v 31, .mon 63, .roff] : List Dest),
      ({ dest := d, value := 5, stream := .primary, steps := 1, cycles := 0, slot := 0, issue := 1 } : Pending).dest = d
      ∧ scalars.region = none ∧ (15 : Nat) < 16 := by decide

/-- Finite numbers, zeros, infinities; exponents that N keeps in range and moves out of it; overflow by each mode. -/
theorem witness_FloatingPointValues :
    fp32.unpack 0x3F800000 = .fin false 0x800000 (-23) ∧ fp32.unpack 0x7F800000 = .inf false ∧ fp32.unpack 0xFF800000 = .inf true
    ∧ fp32.unpack 0xBF800000 = .fin true 0x800000 (-23) ∧ signedOf 32 5 = 5 ∧ signedOf 32 601 = 601 ∧ signedOf 32 0xFFFFFDA7 = -601
    ∧ (fp32.unpack 0x7FC00000).isNan = true ∧ (fp32.unpack 0).isZero = true
    ∧ (fp32.round .rn false 1 128).events = [0x21] ∧ (fp32.round .rz false 1 127).events = []
    ∧ (fp32.round (.rs 0xFFFFFFFF) false 0x1FFFFFF 103).events = [0x21] ∧ (fp32.round (.rs 0) false 0x1FFFFFF 103).events = [] := by
  decide +kernel

/-- Operands of one cell: finite, an infinity beside a zero, a NaN; cells that are finite, infinite and no number. -/
theorem witness_CellValues :
    let one : Operand := { num := fp32.unpack 0x3F800000 }
    let zero : Operand := { num := fp32.unpack 0 }
    let far : Operand := { num := .inf true }
    let nan : Operand := { num := .nan false }
    one.num = .fin false 0x800000 (-23) ∧ zero.num.isZero = true ∧ far.num = .inf true ∧ nan.num.isNan = true
    ∧ fp32.unpack (0xFF800000 : BitVec 32).toNat = .inf true ∧ (fp32.unpack (0x7FC00000 : BitVec 32).toNat).isNan = true
    ∧ fp32.unpack (0x3F800000 : BitVec 32).toNat = .fin false 0x800000 (-23) ∧ [(one, zero, 0)] ≠ [] ∧ (0 : Nat) ≠ 2 := by decide +kernel

/-- Blocks that hold a NaN, zeros only, and finite elements; a bit stream of one block; a copy of a global view. -/
theorem witness_BlocksAndCopies :
    let zeros := List.replicate 16 (fp32.unpack 0)
    let ones := List.replicate 16 (fp32.unpack 0x3F800000)
    let p : RiceParams := { n := 4, J := 2, interval := 1, predictor := true, restricted := false, signed := false }
    zeros.length = 16 ∧ (∀ v ∈ zeros, v.isZero = true) ∧ (∃ v ∈ Num.nan false :: zeros.drop 1, v.isNan = true)
    ∧ (∀ e, e < 16 → ones[e]? = some (.fin false 0x800000 (-23)) ∧ (-132 : Int) ≤ -23) ∧ (0x800000 : Nat) ≠ 0
    ∧ 1 ≤ p.n ∧ 1 ≤ p.idBits ∧ ([5, 15] : List Nat).length = p.J ∧ (∀ v ∈ ([5, 15] : List Nat), v < 2 ^ p.n)
    ∧ 3 < p.n ∧ 3 + 1 < 2 ^ p.idBits - 1 ∧ p.range.1 ≤ 0 ∧ (15 : Int) ≤ p.range.2
    ∧ (viewOf (shapeWord 1 0 4 0 2 ||| 0x100 ||| BitVec.ofNat 256 (2 ^ 162))).isGlobal = true
    ∧ (match (machOf scalars).engineCell 0 0 false 0x100 with | .ok (a, e, _) => decide (a = 0x20100 ∧ pteKind e = 0) | .error _ => false) = true
    ∧ (match (machOf scalars).engineCell 0 0 true 0x101 with | .ok (a, e, _) => decide (a = 0x20101 ∧ pteKind e = 0) | .error _ => false) = true := by
  decide +kernel

/-- A slot with a reservation on the mapped page, one without; a mailbox of F7 with room and one that is full. -/
theorem witness_SlotAtomicsAndCalls :
    let h : Hart := { (emitting 63).mach.hart 0 with resv := some (0x20100, 8) }
    (h.xAt 10).toNat % 8 = 0 ∧ (h.xAt 13).toNat % 4 ≠ 0 ∧ h.resv = some (0x20100, 8) ∧ h.resv ≠ some (0x20100, 4)
    ∧ (match rvCell mapped 0 h 0x100 .load with | .ok a => decide (a = 0x20100) | .error _ => false) = true
    ∧ (match rvCell mapped 0 h 0x100 .store with | .ok a => decide (a = 0x20100) | .error _ => false) = true
    ∧ (rvCell mapped 0 h 0x1000000 .load).isOk = false ∧ h.user = true
    ∧ (Sparse.get [] mapped.fw.mailboxes 7).length < 32
    ∧ 32 ≤ (Sparse.get [] ({ mapped with fw.mailboxes := [(7, List.replicate 32 0)] } : Mach).fw.mailboxes 7).length
    ∧ (3 : Dword) ≠ 0 ∧ ((3 : Dword).setWidth 32) ≠ 0 ∧ ((0x100000000 : Dword).setWidth 32) = 0
    ∧ (BitVec.ofNat 8 255).toInt < (BitVec.ofNat 8 1).toInt ∧ ¬(BitVec.ofNat 8 1).toInt < (BitVec.ofNat 8 255).toInt := by decide +kernel

/-- Rows of the vector unit that are full, or far; a vector in SX blocks. -/
theorem witness_VectorRows :
    let cells := (List.range 256).map (fun k => (0x100 / 16 + k / 16, true))
    let x : CoreState := { vectors with loc := { csp := { full := cells.eraseDups } } }
    (∀ n, n < 64 → (vectors.q 0).getLsbD n = true → (issOf x).pre.isFull (.csp 0) (0x100 / 16 + n / 4) = true)
    ∧ isFar 0 (.clm 0) 0x1000 = true ∧ (∃ n, n < 64 ∧ (vectors.q 0).getLsbD n = true ∧ (issOf vectors).pre.isFull (.csp 0) (0x100 / 16 + n / 4) = false)
    ∧ (vectors.v 1).tag ≠ tUntyped ∧ (vectors.v 1).tag ≠ tSx ∧ (vectors.v 5).tag = tUntyped := by
  refine ⟨?_, by decide, ⟨0, by decide, by decide +kernel, by decide +kernel⟩, by decide, by decide, by decide⟩
  decide +kernel

/-! ### Lines, launches and the host -/

/-- Requests that wait at the home, for a store, and behind messages; retained lines; keys with a monitor on them. -/
theorem witness_LinesThatWait :
    let plain : DirEntry := {}
    let asked : DirEntry := { req := some { core := 1, part := 0, kind := some .owned, store := some 4 }, count := 1 }
    let going : DirEntry := { asked with count := 0 }
    let at1 : Mach := { lines plain .shared [] with dies := [(0, { dir := [(0x202, plain)] }), (1, { dir := [(0x202, asked)] })] }
    let m := lines plain .shared []
    m.sentBefore 0 0x202 = [] ∧ plain.permission = false ∧ m.homeFree 0 0x202 = true ∧ at1.homeFree 0 0x202 = false ∧ at1.homeFree 64 0x202 = false
    ∧ m.homeFree 64 0x202 = true ∧ (0, 4) ∉ m.storesFor 0x202 ∧ (lines asked .shared []).storesFor 0x202 = [(1, 4)]
    ∧ asked.count = 1 ∧ (0 : Nat) < 4 ∧ (m.home 0x202).waiting = [] ∧ asked.waiting = []
    ∧ going.count = 0 ∧ going.req ≠ none ∧ asked.count ≠ 0 ∧ ({ plain with retained := some 1 } : DirEntry).retained ≠ none ∧ plain.retained = none
    ∧ (lines plain .shared [.drop 0 0x202 1]).msgs.find? (fun e => e.channel = (Msg.drop 0 0x202 1).channel) = some (.drop 0 0x202 1)
    ∧ keyOfLine (3 * 2 ^ 48) = 3 ∧ (3 : Nat) % 64 ≠ 0
    ∧ ({ scalars with caches := { untracked := [{ sector := 0x808, data := 5, dirty := false }] } } : CoreState).looseLines.contains 0x202 = true
    ∧ scalars.bareMark 0x202 = false ∧ Sparse.get [] scalars.caches.l1 0x202 = [] := by decide +kernel

/-- Entries of a group that a collapse rewrites, and a tree of another module. -/
theorem witness_CollapsesOfOtherTrees :
    let m : Mach := { mem := Mem.writeAll mapped.mem ((List.range 4).flatMap (fun i => numberBytes (0x110000 + 8 * i) 8 (0x20267 + 0x4000 * i))),
                      fw := { spaces := [(0, { roots := [(0, 0x100000), (1, 0x200000)] })] } }
    Sparse.find (m.spaceRec 0).roots 1 = some 0x200000 ∧ m.collapsing 0 0x100 = none ∧ m.duplicated 0 0x100 = true
    ∧ (∀ i, i < 4 → leafPlaced (setBit (tableEntry m.mem (0x110000 + 8 * i)) 6 false) = true)
    ∧ leafPlaced 0x20223 = true := by decide +kernel

/-- Entries whose first bad byte is 16, 17 or 23; mailboxes with and without room; neighbours; power over and under the cap. -/
theorem witness_HostBytesAndFleetState :
    let m := hosted 6 []
    let f := m.fleet
    let known : Fleet := { f with neighbours := [1, 2, 3, 4], watched := [1, 2], votes := [(1, 5), (2, 6)] }
    at1 (hosted 5 (numberBytes 0x10010 2 0x0902)).mem 0x10000 16 = 2 ∧ at1 (hosted 5 (numberBytes 0x10010 2 0x0902)).mem 0x10000 17 = 9
    ∧ at1 (hosted 6 (numberBytes 0x10017 1 1)).mem 0x10000 23 = 1 ∧ at8 m.mem 0x10000 8 = 0
    ∧ m.senderHeld 0 = false ∧ (Sparse.get [] m.fw.mailboxes 7).length < 32 ∧ m.inLife = true ∧ m.fw.failed = []
    ∧ ({ m with fleet.lifecycle := .scrapped } : Mach).inLife = false
    ∧ (f.lifecycle, 0) ∈ [(Lifecycle.manufacturing, 1), (.provisioned, 0), (.deployed, 0), (.returned, 2)]
    ∧ 1 ∉ f.watched ∧ 1 ∈ known.watched ∧ 3 ∈ known.neighbours ∧ 3 ∉ f.neighbours
    ∧ ((((known.votes.filter (fun (v : Nat × Nat) => 7 - v.2 ≤ 100)) ++ [(3, 7)]).map (fun (v : Nat × Nat) => v.1)).eraseDups).length = 3
    ∧ ((((f.votes.filter (fun (v : Nat × Nat) => 7 - v.2 ≤ 100)) ++ [(3, 7)]).map (fun (v : Nat × Nat) => v.1)).eraseDups).length < 3
    ∧ f.cap.toNat < 16000 ∧ 7000 ≤ f.cap.toNat ∧ 100 * 7000 < 95 * f.cap.toNat ∧ 95 * f.cap.toNat ≤ 100 * f.cap.toNat
    ∧ (({ standing .saved .saved with fw.launches := [{ launchIn .saved with paused := true }] } : Mach).available
        { launchIn .saved with paused := true } []) = true
    ∧ (m.ring 0).k ≠ 0 ∧ (0 : Nat) < 256 := by decide +kernel

end Sys2Proof.Tests
end

section
/-! PROOF. Every instruction, every cycle and every move answers a next state, whatever state it starts from; the one stop is a turn
of an agent that the module does not have (R1, R201). Laws/Step.lean says what those answers keep, of states that meet the invariant;
here no invariant is asked for. -/

namespace Sys2Proof.Machine

/-- The machine goes on: neither a fault nor a refusal. -/
def Answers (o : Host.Outcome State Fault Refusal) : Prop := ∃ t, o = .next t

/-- Every instruction goes on, in every state. -/
def Exec.Answers (ex : Exec) : Prop := ∀ i s, Machine.Answers (ex i s)

/-- An evaluated issue was held before its words were read, or goes on. -/
def Evaluated.Answers (e : Evaluated) : Prop := ∀ o, e = some o → Machine.Answers o

theorem answers_next (s : State) : Answers (.next s) := ⟨s, rfl⟩

/-- The instruction table: composer instructions and events change the module and go on by definition, and a slot word goes on
whether its issue holds, traps, rolls back or takes effect. -/
theorem exec_answers : Exec.Answers exec := by
  intro i s
  cases i
  -- instructions of a generator slot (R202 to R222, R401)
  case eClr | eClrAll | eSet | eTpl | ePatch | eProv | eEmitP | eEmitS | eEmitA | eEmitrP | eEmitrS | eQst | eWait | eBind
    | rv64imacInstruction | ecallEnd | ecallLog | ecallYield | ecallUnknown => exact answers_next _
  -- events of cores, engines and composers
  case fixedLatencyResult | countedLoadDelivery | uncorrectableMemoryError | storeTicketKnown | farStorePerformed | farLoadPerformed
    | remoteTickConfirmation | remoteRouteTimeout | vclkTick | tickMarkedPassed | leaseExpiry | mwaitTimeout | idleCountExpiry
    | secondaryFairnessWithhold | handleEntryRead | engineCommandStart | engineCommandComplete | pubSwap | sreadCompletion
    | nvmeCommandTimeout | regionRollback | composerSlotSwitch | emitQueueRoom => exact answers_next _
  -- events of caches, directories and homes
  case dirRead | dirOwnedWrite | evictionNoticeClean | evictionNoticeData | invalidation | acknowledgement | l2Eviction
    | homeOwnedWrite | homeRead | homeEntryEviction | instructionPrefetch | shootdownAck | keyRetirement | residencyUpdate =>
    exact answers_next _
  -- events of launches and handlers
  case launchClaim | releaseTick | preemption | resume | launchCompletion | completionWordPassed | faultEndLaunch
    | primaryBindingLapseEnd | trapReplay | fetchMissPaging | readDuplicateCollapse | trapRecordFree | reap | stewardCrash
    | warmReadoption | readoptionTimeout | launch => exact answers_next _
  -- events of the host, the firmware and the fleet
  case mailboxDelivery | dbell | ringConfigWrite | sequenceRereadTimeout | endLaunch | registerBuffer | unregisterBuffer
    | configureOrdmode | configureTelemetryPage | configurePowerCap | tearDownSpace | imageLoad | powerOn | moduleReset
    | lifecycleChange | dieStageOnePassed | fullServiceStart | heartbeat | heartbeatMiss | resetVote | telemetryRewrite
    | powerCapLimiting | powerCapLimitingEnd | junctionTemperature | thermalRecovery | hostMemoryAccess | linkLevelRetry =>
    exact answers_next _
  -- words of a slot of a bundle
  any_goals exact runWord_next _ _ s
  -- the event of a recall, which is no case tag: Mathlib has a command of that name
  exact answers_next _

/-! ### An issue -/

section
variable {ex : Exec} (hx : ex.Answers)
include hx

theorem foldWords_answers (l : List (Stream × Instr)) (s : State) : Answers (foldWords ex l s) := by
  induction l generalizing s with
  | nil => exact answers_next s
  | cons w r ih =>
    obtain ⟨t, ht⟩ := hx w.2 { s with iss := s.iss.map (fun x => { x with stream := w.1 }) }
    rw [foldWords, ht]
    exact ih t

theorem evalIssue_answers (c : Nat) (heads : List (Stream × HeadBundle)) (extra : List (Stream × Nat × Stop)) (s : State) :
    Evaluated.Answers (evalIssue ex c heads extra s) := by
  intro o h
  dsimp only [evalIssue] at h
  split at h
  · cases h
  · cases h
    exact foldWords_answers hx _ _

omit hx in
theorem closeEval_answers (s : State) {e : Evaluated} (he : e.Answers) : Answers (closeEval s e) := by
  cases e with
  | none => exact answers_next s
  | some o =>
    obtain ⟨t, rfl⟩ := he o rfl
    exact answers_next _

theorem closeEval_evalIssue_answers (c : Nat) (heads : List (Stream × HeadBundle)) (extra : List (Stream × Nat × Stop)) (s : State) :
    Answers (closeEval s (evalIssue ex c heads extra s)) := closeEval_answers s (evalIssue_answers hx c heads extra s)

/-! ### A cycle of a core -/

theorem secondaryAlone_answers (c : Nat) (q : HeadBundle) (s : State) : Answers (secondaryAlone ex c q s) :=
  closeEval_evalIssue_answers hx c _ _ s

theorem besideHeld_answers (c : Nat) (p : HeadBundle) (sec : Option HeadBundle) (s : State) :
    Answers (besideHeld ex c p sec s) := by
  unfold besideHeld
  split
  · exact answers_next s
  · split
    · exact secondaryAlone_answers hx c _ s
    · exact answers_next _

theorem mergeStreams_answers (c : Nat) (p : HeadBundle) (extra : List (Stream × Nat × Stop)) (sec : Option HeadBundle) (s : State) :
    Answers (mergeStreams ex c p extra sec s) := by
  have closes := fun heads => closeEval_evalIssue_answers hx c heads extra s
  dsimp only [mergeStreams]
  split
  · exact closes _
  · rename_i q
    split
    · split
      · exact closes _
      · obtain ⟨t, ht⟩ := closes [(.primary, p)]
        rw [ht]
        exact answers_next _
    · obtain ⟨t, ht⟩ := closes [(.primary, p)]
      rw [ht]
      dsimp only
      split
      · exact secondaryAlone_answers hx c q t
      · exact besideHeld_answers hx c p _ t

theorem issueCycle_answers (c : Nat) (s : State) : Answers (issueCycle ex c s) := by
  unfold issueCycle
  extract_lets m0 x sec m1 alone replays withheld
  have halone : ∀ m, Answers (alone m) := by
    intro m
    simp only [alone]
    cases sec with
    | none => exact answers_next _
    | some q => exact secondaryAlone_answers hx c q _
  split
  · exact halone _
  · split
    · exact halone _
    · split
      · exact besideHeld_answers hx c _ _ _
      · exact mergeStreams_answers hx c _ _ _ _
  · split
    · exact halone _
    · split
      · exact answers_next _
      · exact mergeStreams_answers hx c _ _ _ _

theorem coreCycle_answers (c : Nat) (s : State) : Answers (coreCycle ex c s) := by
  dsimp only [coreCycle]
  split
  · exact answers_next s
  · split
    · exact answers_next _
    · obtain ⟨t, ht⟩ := issueCycle_answers hx c { s with mach := s.mach.beginCycle c }
      rw [ht]
      exact answers_next _

/-! ### An instruction of a composer, and a move -/

theorem composeCycle_answers (k : Nat) (s : State) : Answers (composeCycle ex k s) := by
  dsimp only [composeCycle]
  split
  · exact answers_next _
  · split
    · exact answers_next _
    · split
      · exact answers_next _
      · exact hx _ _

/-- The agent whose turn it is goes on, or it is none of the 1,024 cores and 256 composers of the module. -/
theorem move_answers (s : State) :
    Answers (move ex composeCycle s) ∨ (move ex composeCycle s = .fault .noSuchAgent ∧
      ((∃ c r, s.turns = .cycle c :: r ∧ 1024 ≤ c) ∨ (∃ k r, s.turns = .compose k :: r ∧ 256 ≤ k))) := by
  dsimp only [move, State.turns]
  split
  · exact .inl (answers_next s)
  case h_2 c r hturn =>
    split
    · exact .inr ⟨rfl, .inl ⟨c, r, hturn, ‹_›⟩⟩
    · exact .inl (coreCycle_answers hx c _)
  case h_3 k r hturn =>
    split
    · exact .inr ⟨rfl, .inr ⟨k, r, hturn, ‹_›⟩⟩
    · exact .inl (composeCycle_answers hx k _)
  · exact .inl (hx _ _)

end

/-- Settles O30: the instruction table goes on in every state, and with it whatever the agent at the head of the agenda does. -/
theorem stepNeverRefuses : Obligations.StepNeverRefuses := ⟨exec_answers, move_answers exec_answers⟩

end Sys2Proof.Machine
end

section
/-! PROOF. Why the statement about the events of cores and engines fails: REMOTE_TICK_CONFIRMATION has two uses, and the clause about
it does not say which one it means. -/

namespace Sys2Proof.Machine

/-- Under its flag REMOTE_TICK_CONFIRMATION brings arrivals of other modules at barriers (R243); where it brings none, it changes
nothing, whatever awaits a confirmation. -/
theorem exec_remoteTickConfirmation_no_arrivals (s : State) (hflag : s.arg.flag = true) (hnone : s.arg.ranges = []) :
    exec .remoteTickConfirmation s = .next s := by
  simp [exec, execRemoteTickConfirmation, eventStep, confirms, hflag, hnone]

/-- An event that answers the state it found, and by a claim changes one core only, leaves that core as it is. -/
theorem core_fixed_of_turns {i : Instr} {s : State} {c : Nat} {f : CoreState → CoreState} (hsame : exec i s = .next s)
    (hturns : turns i s c f) : f (s.mach.core c) = s.mach.core c := by
  rw [turns, moves, hsame] at hturns
  have hmach : s.mach = s.mach.modCore c f := congrArg State.mach (Host.Outcome.next.inj hturns)
  calc f (s.mach.core c) = (s.mach.modCore c f).core c := (Mach.core_modCore ..).symm
    _ = s.mach.core c := by rw [← hmach]

/-- Refutes O57: its clause about REMOTE_TICK_CONFIRMATION (R283) lacks the condition that the event's flag is clear. Core 0 has access
0 awaiting its confirmation, and the event comes for access 0 with the flag set, which makes it one that brings arrivals of other
modules, here none. The clause says that the access no longer waits; the event leaves it waiting. -/
theorem not_coreAndEngineEvents : ¬ Obligations.CoreAndEngineEvents := by
  unfold Obligations.CoreAndEngineEvents
  intro h
  let waiting : State :=
    { mach := { cores := [(0, { flight := { remotes := [(0, [])] } })] }, arg := { agent := 0, item := 0, flag := true } }
  obtain ⟨_result, _delivered, _performed, _error, _lostLoad, _lostStore, _ticket, _slotTicket, _leases, _farStore, _farLoad,
    confirmation, _others⟩ := h waiting
  have hturns := confirmation (by decide) (by decide)
  have hcore := core_fixed_of_turns (exec_remoteTickConfirmation_no_arrivals waiting rfl rfl) hturns
  exact absurd (congrArg (fun x => x.flight.remotes) hcore) (by decide)

end Sys2Proof.Machine
end
